-- ==== Sys2Proof/Word.lean ====
section
/-! DEFINITION. The word types of the module and the sparse tables that hold many like things. -/

namespace Sys2Proof

/-- A byte of memory (00 R4: bytes are little-endian everywhere). -/
abbrev Byte := BitVec 8
/-- A 32-bit lane, flag or tile word. -/
abbrev W32 := BitVec 32
/-- A 64-bit scalar register, predicate or pointer (03 R46). -/
abbrev Word := BitVec 64
/-- A vector register: lane j is bits 32j+31 to 32j (03 R46). -/
abbrev Vec := BitVec 2048

/-- Many like things by number: strictly rising keys, no entry equal to what an unlisted key reads as. -/
abbrev Sparse (α : Type) := List (Nat × α)

end Sys2Proof
end

