-- ==== Sys2Proof/Config.lean ====
section
/-! DEFINITION. What the spec leaves open, as constants without a body, and the module's fixed sizes. -/

namespace Sys2Proof.Config

/-- A choice among things the spec leaves unordered (06 R117, R118, R123, R124; log 3). -/
opaque pick : Nat → Nat
/-- Cycles by which an access is later than its unloaded time (04 R88, R423; log 4). -/
opaque delay : Nat → Nat
/-- A vector whose value the spec does not give (log 71). -/
opaque freeVec : Nat → Vec
/-- AES-256-XTS of a 16-byte block under the pair of a number, a tweak and the block's place in its unit: a permutation of blocks, whose
inverse decrypts (04 R86, 21 R375; log 5). -/
opaque cipher : Nat → Nat → Nat → Equiv.Perm (BitVec 128)
/-- SHA-384 of a byte string, as a number (14 R278, R287; log 6). -/
opaque sha384 : List Byte → Nat
/-- ECDSA P-384 under the device's attestation key (14 R288; log 6). -/
opaque sign : Nat → List Byte
/-- An ECDSA P-384 signature verifies: hash of the signer's key, digest, signature (14 R278; log 6). -/
opaque verify : Nat → Nat → List Byte → Bool

/-- The 32-bit salt that a link key derivation gives (14 R283; log 6). -/
opaque linkSalt : Nat → W32

/-- Stepping number, and the power in watts that the module draws in a clock at a core frequency in MHz (15 Table 15.4, R302; log 76). -/
opaque stepping : BitVec 8
opaque watts : Nat → Nat → BitVec 13

/-- Physical cores of a module, of a gallery, galleries of a hall, halls (01 R9, R10). -/
def cores : Nat := 1024
def coresPerGallery : Nat := 8
def galleries : Nat := 128
def galleriesPerHall : Nat := 16
/-- Near SRAM and vault bytes (03 R53, 01 R13). -/
def nearBytes : Nat := 0x40000
def vaultBytes : Nat := 0x400000
/-- HBM bytes (04 R75). -/
def hbmBytes : Nat := 0x18000000000

end Sys2Proof.Config
end

