-- ==== Sys2Proof/Syntax.lean ====
section
/-! DEFINITION. The instruction set as data: one constructor per row of spec/opcode_table.json, slot operations, copy-sequencer
micro-instructions and the module's own steps (95). Register numbers and codes are decoded here, so the machine sees no raw field. -/

namespace Sys2Proof

/-- PRED and PNEG of a slot word (07 R138). -/
structure Guard where
  pred : BitVec 4
  neg  : Bool
  deriving DecidableEq, Repr

abbrev SReg := BitVec 6
abbrev VReg := BitVec 10
abbrev PReg := BitVec 4
abbrev TReg := BitVec 3
abbrev FReg := BitVec 8
abbrev ChReg := BitVec 6

/-- A scalar source field: a plain read, a read that is latched, or a held use (07 R147). -/
inductive SSrc where
  | reg (n : SReg)
  | latch (n : SReg)
  | held
  deriving DecidableEq, Repr

/-- A vector source field (07 R147). -/
inductive VSrc where
  | reg (n : VReg)
  | latch (n : VReg)
  | held
  deriving DecidableEq, Repr

/-- K and STEP of a sticky form (07 R141). -/
structure Sticky where
  k    : Bool
  step : BitVec 7
  deriving DecidableEq, Repr

/-- Number formats (07 R140, Table 7.4). -/
inductive Fmt where
  | f32 | bf16 | fp16 | fp8a | fp8b | fp6a | fp6b | fp4 | int32 | uint32 | int8 | uint8
  | bk8a | bk8b | bk6a | bk6b | bk4
  deriving DecidableEq, Repr

/-- Scalar condition codes (08 R157, Table 8.2). -/
inductive SCond where
  | eq | ne | lt | ge | le | gt | ltu | geu | leu | gtu
  deriving DecidableEq, Repr

/-- Vector condition codes (09 R182, Table 9.4). -/
inductive VCond where
  | eq | ne | lt | ge | le | gt | un | rb
  deriving DecidableEq, Repr

/-- Flag conditions (08 R163, Table 8.6). -/
inductive FCond where
  | ge | eq | ne | geu
  deriving DecidableEq, Repr

/-- Hierarchical scopes (06 R127, Table 6.2). -/
inductive Scope where
  | core | quad | gallery | hall | chip | group | pod | system
  deriving DecidableEq, Repr

/-- The four queues of a seat (06 R120). -/
inductive Queue where
  | mxq | cpq | cmq | hxq
  deriving DecidableEq, Repr

/-- Rounding modes of VCVT (05 R97). -/
inductive RMode where
  | rne | rtz | rdn | rup | sr
  deriving DecidableEq, Repr

/-- Pointer windows (04 R64, Table 4.1). -/
inductive Window where
  | global | priv | scratch | gallery | pod
  deriving DecidableEq, Repr

/-- Access sizes (11 R212, Table 11.1). -/
inductive Size where
  | b1 | b2 | b4 | b8 | b256 | b64 | b128
  deriving DecidableEq, Repr

/-- Kinds of a host-memory store (11 R216). -/
inductive HostKind where
  | ordinary | nonTemporal | writeCombining
  deriving DecidableEq, Repr

/-- XSHUF patterns (09 R195). -/
inductive Shuffle where
  | ilo | ihi | even | odd
  deriving DecidableEq, Repr

/-- A shift count of a scalar shift (08 R156). -/
inductive SCount where
  | imm (n : BitVec 6)
  | reg (b : SSrc)
  deriving DecidableEq, Repr

/-- A shift count of a vector shift (09 R180). -/
inductive VCount where
  | imm (n : BitVec 5)
  | reg (b : VSrc)
  deriving DecidableEq, Repr

/-- The lane number of XROT and XBCST (09 R194). -/
inductive LaneNo where
  | imm (n : BitVec 6)
  | reg (b : SSrc)
  deriving DecidableEq, Repr

/-- VCVT: a group conversion, or a block quantisation (09 R185). -/
inductive Cvt where
  | plain (dst src : Fmt) (mode : RMode) (gd : BitVec 3) (gs : BitVec 3)
  | block (elem : Fmt) (mode : RMode) (gd : BitVec 3) (vs : VReg)
  deriving DecidableEq, Repr

/-- XPOSE forms (09 R192). -/
inductive Xpose where
  | w (a : VSrc)
  | r (d : VReg)
  | wr (d : VReg) (a : VSrc)
  deriving DecidableEq, Repr

/-- An MMA operand: registers of a format, or memory by a scalar pair (10 R202, R205). -/
inductive MOperand where
  | reg (f : Fmt) (v : VReg)
  | mem (s : SReg)
  deriving DecidableEq, Repr

/-- A TLD source (10 R207). -/
inductive TSource where
  | reg (v : VReg)
  | mem (s : SReg)
  deriving DecidableEq, Repr

/-- A destination register whose class the access size fixes (11 R212). -/
inductive XReg where
  | s (n : SReg)
  | v (n : VReg)
  deriving DecidableEq, Repr

/-- A data register whose class the access size fixes (11 R212). -/
inductive XSrc where
  | s (a : SSrc)
  | v (a : VSrc)
  deriving DecidableEq, Repr

/-- A 12-bit immediate or a scalar: the value of WAIT, FADD, FSET (08 R163, 11 R221). -/
inductive FOperand where
  | imm (n : BitVec 12)
  | reg (a : SSrc)
  deriving DecidableEq, Repr

/-- The value of FSET.M (11 R221). -/
inductive FMOperand where
  | imm (n : BitVec 11)
  | reg (a : SSrc)
  deriving DecidableEq, Repr

/-- Chunk classes of CP.CHK (11 R235). -/
inductive ChkClass where
  | bf16 | fp32 | exact | masked
  deriving DecidableEq, Repr

/-- A Flight packet as it reaches a port (15 R295, Table 15.2); `tagOk` says whether its GCM tag verifies. -/
structure Packet where
  ty      : BitVec 5 := 0
  gen     : BitVec 8 := 0
  job     : BitVec 16 := 0
  taskid  : BitVec 16 := 0
  world   : BitVec 5 := 0
  smod    : BitVec 12 := 0
  sseat   : BitVec 10 := 0
  sq      : Bool := false
  dmod    : BitVec 12 := 0
  addr    : BitVec 40 := 0
  len     : BitVec 9 := 0
  flag    : BitVec 8 := 0
  val     : W32 := 0
  pseq    : BitVec 16 := 0
  aux     : BitVec 16 := 0
  payload : List Byte := []
  tagOk   : Bool := true
  port    : Nat := 0
  deriving DecidableEq, Repr

/-- What a GMC may write into a stopped open-world seat (18 R328). -/
inductive GmcWrite where
  | scalar (n : SReg) (v : Word)
  | pred (n : PReg) (v : Word)
  | lcnt (v : W32)
  | flag (n : FReg) (v : W32)
  | scratch (off : Nat) (v : Byte)
  deriving DecidableEq, Repr

/-- Memory as a debugger names it: the seat's near SRAM, its team vault window, its global memory. -/
inductive DebugMem where
  | near | vault | global
  deriving DecidableEq, Repr

/-- What the debugger does to a seat at INVASIVE level: it lets it go or halts it, and reads and writes registers and memory (14 Table 14.7). -/
inductive DebugAct where
  | go
  | halt
  | readS (n : SReg)
  | writeS (n : SReg) (v : Word)
  | readP (n : PReg)
  | writeP (n : PReg) (v : Word)
  | readV (phys : Nat)
  | writeV (phys : Nat) (v : Vec)
  | readF (n : FReg)
  | writeF (n : FReg) (v : W32)
  /-- Row of a tile. -/
  | readT (t : TReg) (row : BitVec 6)
  | writeT (t : TReg) (row : BitVec 6) (v : Vec)
  /-- Word of a channel entry. -/
  | readCh (n : ChReg) (w : BitVec 2)
  | writeCh (n : ChReg) (w : BitVec 2) (v : Word)
  /-- A special register by its number, and a register of the copy sequencer. -/
  | readX (n : BitVec 10)
  | writeX (n : BitVec 10) (v : Word)
  | readC (n : BitVec 3)
  | writeC (n : BitVec 3) (v : Word)
  | read (m : DebugMem) (a n : Nat)
  | write (m : DebugMem) (a : Nat) (bs : List Byte)
  deriving DecidableEq, Repr

/-- The function a host access arrives on (15 R291): the PF, or VF n of sealed world n with what its link shows. -/
structure HostFn where
  vf       : Nat := 0
  ideMatch : Bool := true
  deriving DecidableEq, Repr

/-- RUN or SKIP (12 R246). -/
inductive Mark where
  | run | skip
  deriving DecidableEq, Repr

/-- TDISP states (14 R284). -/
inductive Tdi where
  | unlocked | locked | run | error
  deriving DecidableEq, Repr

/-- What the driver gives when it creates a job (02 R28, 18 R329, 19 R358, 22 R399). -/
structure JobSpec where
  job      : Nat
  limit    : Nat
  policy   : Option (Sparse W32) := none
  dumpBase : Nat := 0
  dumpLen  : Nat := 0
  ctxBase  : Nat := 0
  ctxLen   : Nat := 0
  worlds   : List (Nat × Nat) := []
  deriving DecidableEq, Repr

/-- One `.extent` directive (07 R153). -/
structure ExtentDecl where
  arg   : Nat
  bytes : Nat
  rw    : Bool
  deriving DecidableEq, Repr

/-- A `.channel` directive: its keywords (07 R153, 13 R261, Table 13.2); depth in slots and slot in bytes, FMT and CLASS by their codes. -/
structure ChanDecl where
  peer   : Nat
  module : Nat
  base   : Word
  depth  : Nat
  slot   : Nat
  fmt    : Nat
  cls    : Nat
  fill   : Option Nat := none
  free   : Option Nat := none
  pch    : Nat := 0
  hop    : Nat := 0
  tensor : Nat := 0
  deriving DecidableEq, Repr

/-- What IMAGE_LOAD is asked to load: where the image lies, and the directives its header does not carry (07 R153, 14 R277); `relocs` are the
offsets of the 8-byte words of `.data` that hold addresses in it (log 47). -/
structure ImageSpec where
  job      : Nat
  world    : Nat
  image    : Nat
  va       : Nat
  nseats   : Nat
  debug    : Nat := 0
  entry    : Nat := 0
  dataVa   : Nat := 0
  relocs   : List Nat := []
  channels : List (Nat × ChanDecl) := []
  extents  : List ExtentDecl := []
  regions  : List Nat := []
  deriving DecidableEq, Repr

/-- The instruction set: one constructor per row of spec/opcode_table.json. -/
inductive Instr where
  -- A slot (08 R156 to R160, 07 R142, R144)
  | add (g : Guard) (d : SReg) (a b : SSrc)
  | sub (g : Guard) (d : SReg) (a b : SSrc)
  | addi (g : Guard) (d : SReg) (a : SSrc) (imm : BitVec 16)
  | mul (g : Guard) (d : SReg) (a b : SSrc)
  | mulh (g : Guard) (d : SReg) (a b : SSrc) (u : Bool)
  | and (g : Guard) (d : SReg) (a b : SSrc)
  | or (g : Guard) (d : SReg) (a b : SSrc)
  | xor (g : Guard) (d : SReg) (a b : SSrc)
  | andn (g : Guard) (d : SReg) (a b : SSrc)
  | shl (g : Guard) (d : SReg) (a : SSrc) (k : SCount)
  | shr (g : Guard) (d : SReg) (a : SSrc) (k : SCount)
  | sar (g : Guard) (d : SReg) (a : SSrc) (k : SCount)
  | min (g : Guard) (d : SReg) (a b : SSrc)
  | max (g : Guard) (d : SReg) (a b : SSrc)
  | minu (g : Guard) (d : SReg) (a b : SSrc)
  | maxu (g : Guard) (d : SReg) (a b : SSrc)
  | sel (g : Guard) (d : SReg) (q : PReg) (a b : SSrc)
  | clz (g : Guard) (d : SReg) (a : SSrc)
  | popc (g : Guard) (d : SReg) (a : SSrc)
  | extr (g : Guard) (d : SReg) (a : SSrc) (pos : BitVec 6) (lenM1 : BitVec 6) (s : Bool)
  | lea (g : Guard) (d : SReg) (a b : SSrc) (sh : BitVec 3) (disp : BitVec 13)
  | mov (g : Guard) (d : SReg) (a : SSrc)
  | li (g : Guard) (d : SReg) (imm : W32)
  | lih (d : SReg) (imm : W32)
  | cmp (g : Guard) (cc : SCond) (d : PReg) (a b : SSrc)
  | cmpi (g : Guard) (cc : SCond) (d : PReg) (a : SSrc) (imm : BitVec 12)
  | pand (g : Guard) (d : PReg) (a : PReg) (na : Bool) (b : PReg) (nb : Bool)
  | por (g : Guard) (d : PReg) (a : PReg) (na : Bool) (b : PReg) (nb : Bool)
  | pxor (g : Guard) (d : PReg) (a : PReg) (na : Bool) (b : PReg) (nb : Bool)
  | pmov (g : Guard) (d : PReg) (a : PReg) (na : Bool)
  | srrd (g : Guard) (d : SReg) (n : BitVec 10)
  | srwr (g : Guard) (n : BitVec 10) (a : SSrc)
  | gspace (g : Guard) (d : SReg) (a : SSrc)
  | gcast (g : Guard) (t : Window) (d : SReg) (a m : SSrc)
  | reps (g : Guard) (a : SSrc)
  -- V slot (09 R174 to R190)
  | vadd (g : Guard) (st : Sticky) (ty : Fmt) (d : VReg) (a b : VSrc)
  | vsub (g : Guard) (st : Sticky) (ty : Fmt) (d : VReg) (a b : VSrc)
  | vmul (g : Guard) (st : Sticky) (ty : Fmt) (d : VReg) (a b : VSrc)
  | vfma (g : Guard) (st : Sticky) (ty : Fmt) (d : VReg) (a b : VSrc)
  | vfms (g : Guard) (st : Sticky) (ty : Fmt) (d : VReg) (a b : VSrc)
  | vfnma (g : Guard) (st : Sticky) (ty : Fmt) (d : VReg) (a b : VSrc)
  | vmin (g : Guard) (st : Sticky) (ty : Fmt) (d : VReg) (a b : VSrc)
  | vmax (g : Guard) (st : Sticky) (ty : Fmt) (d : VReg) (a b : VSrc)
  | vabs (g : Guard) (st : Sticky) (ty : Fmt) (d : VReg) (a : VSrc)
  | vneg (g : Guard) (st : Sticky) (ty : Fmt) (d : VReg) (a : VSrc)
  | vscale (g : Guard) (st : Sticky) (ty : Fmt) (d : VReg) (a b : VSrc)
  | vrint (g : Guard) (st : Sticky) (ty : Fmt) (d : VReg) (a : VSrc)
  | vadds (g : Guard) (st : Sticky) (ty : Fmt) (d : VReg) (a b : VSrc)
  | vsubs (g : Guard) (st : Sticky) (ty : Fmt) (d : VReg) (a b : VSrc)
  | vmullo (g : Guard) (st : Sticky) (ty : Fmt) (d : VReg) (a b : VSrc)
  | vmulhi (g : Guard) (st : Sticky) (ty : Fmt) (d : VReg) (a b : VSrc)
  | vand (g : Guard) (st : Sticky) (d : VReg) (a b : VSrc)
  | vor (g : Guard) (st : Sticky) (d : VReg) (a b : VSrc)
  | vxor (g : Guard) (st : Sticky) (d : VReg) (a b : VSrc)
  | vandn (g : Guard) (st : Sticky) (d : VReg) (a b : VSrc)
  | vnot (g : Guard) (st : Sticky) (d : VReg) (a : VSrc)
  | vshl (g : Guard) (st : Sticky) (ty : Fmt) (d : VReg) (a : VSrc) (k : VCount)
  | vshr (g : Guard) (st : Sticky) (ty : Fmt) (d : VReg) (a : VSrc) (k : VCount)
  | vsar (g : Guard) (st : Sticky) (ty : Fmt) (d : VReg) (a : VSrc) (k : VCount)
  | vmov (g : Guard) (st : Sticky) (d : VReg) (a : VSrc)
  | vbcst (g : Guard) (ty : Fmt) (d : VReg) (a : SSrc)
  | vli (g : Guard) (ty : Fmt) (d : VReg) (imm : W32)
  | viota (g : Guard) (ty : Fmt) (d : VReg) (a : SSrc)
  | vsel (g : Guard) (d : VReg) (q : BitVec 3) (a b : VSrc)
  | vcmp (g : Guard) (cc : VCond) (ty : Fmt) (d : PReg) (a b : VSrc)
  | vclass (g : Guard) (d : PReg) (a : VSrc) (mask : BitVec 9)
  | vpset (g : Guard) (d : PReg) (a : SSrc)
  | vpand (g : Guard) (d : PReg) (a : PReg) (na : Bool) (b : PReg) (nb : Bool)
  | vpor (g : Guard) (d : PReg) (a : PReg) (na : Bool) (b : PReg) (nb : Bool)
  | vpxor (g : Guard) (d : PReg) (a : PReg) (na : Bool) (b : PReg) (nb : Bool)
  | vpnot (g : Guard) (d : PReg) (a : PReg)
  | vcvt (g : Guard) (d : VReg) (a : VSrc) (c : Cvt)
  | vrcp (g : Guard) (d : VReg) (a : VSrc)
  | vrsq (g : Guard) (d : VReg) (a : VSrc)
  | vexp2 (g : Guard) (d : VReg) (a : VSrc)
  | vsum (g : Guard) (ty : Fmt) (d : VReg) (a : VSrc)
  | vrmax (g : Guard) (ty : Fmt) (idx : Bool) (d : VReg) (a : VSrc)
  | vrmin (g : Guard) (ty : Fmt) (idx : Bool) (d : VReg) (a : VSrc)
  | defer (g : Guard) (a : VReg) (n : BitVec 3)
  | drq (g : Guard) (d : VReg) (n : BitVec 3) (flush : Bool) (p : PReg)
  -- X slot (09 R191 to R197)
  | xpose (g : Guard) (st : Sticky) (clr : Bool) (op : Xpose)
  | cxs (g : Guard) (ty : Fmt) (k i : VReg) (q : PReg) (dl : BitVec 3)
  | xperm (g : Guard) (d : VReg) (a b : VSrc)
  | xrot (g : Guard) (d : VReg) (a : VSrc) (n : LaneNo)
  | xshuf (g : Guard) (p : Shuffle) (ty : Fmt) (d : VReg) (a b : VSrc)
  | xbcst (g : Guard) (d : VReg) (a : VSrc) (n : LaneNo)
  | xpack (g : Guard) (st : Sticky) (ty : Fmt) (d : VReg) (a : VSrc) (grp : BitVec 3)
  | xunpk (g : Guard) (st : Sticky) (ty : Fmt) (d : VReg) (a : VSrc) (grp : BitVec 3) (s : Bool)
  | xcmpr (g : Guard) (d : VReg) (a : VSrc) (q : PReg)
  -- M slot (10 R199 to R208)
  | mma (g : Guard) (st : Sticky) (d : TReg) (a b : MOperand)
  | mmaz (g : Guard) (st : Sticky) (d : TReg) (a b : MOperand)
  | tld (g : Guard) (st : Sticky) (d : TReg) (a : TSource)
  | tstMemory (g : Guard) (st : Sticky) (p : SReg) (a : TReg)
  | tstRegister (g : Guard) (st : Sticky) (d : VReg) (a : TReg)
  | tzero (g : Guard) (d : TReg)
  | tscale (g : Guard) (c : Bool) (d : TReg) (a : VReg)
  | tadd (g : Guard) (ty : Fmt) (d b : TReg)
  -- L slot (11 R211 to R218)
  | ld (g : Guard) (st : Sticky) (sz : Size) (sx : Bool) (d : XReg) (a : SSrc) (disp : BitVec 10)
  | st (g : Guard) (st : Sticky) (sz : Size) (x : XSrc) (a : SSrc) (disp : BitVec 10)
  | ldv (g : Guard) (st : Sticky) (sz : Size) (sx : Bool) (d : XReg) (a : SSrc) (disp : BitVec 10)
  | stv (g : Guard) (st : Sticky) (sz : Size) (x : XSrc) (a : SSrc) (disp : BitVec 10)
  | ldg (g : Guard) (sz : Size) (sx : Bool) (d : XReg) (a : SSrc) (x : SReg) (t : BitVec 10) (e : BitVec 6)
  | stg (g : Guard) (sz : Size) (hk : HostKind) (x : XSrc) (a : SSrc) (i : SReg)
  | stNb (g : Guard) (ty : Fmt) (v : VSrc) (a : SSrc) (i : SReg) (grp : BitVec 3) (q : PReg)
  | gath (g : Guard) (d : VReg) (a : SSrc) (vi : VSrc) (t : BitVec 10) (e : BitVec 6)
  | scat (g : Guard) (va : VSrc) (a : SSrc) (vi : VSrc) (q : PReg)
  | fetch (g : Guard) (sz : Size) (sx : Bool) (d : XReg) (a : SSrc) (x : SReg) (t : BitVec 10) (e : BitVec 6)
  | ldc (g : Guard) (sz : Size) (sx : Bool) (d : XReg) (a : SSrc) (disp : BitVec 10)
  -- C slot (11 R219 to R229)
  | wfree (g : Guard) (ch : ChReg) (nM1 : BitVec 8)
  | send (g : Guard) (sz : Size) (ch : ChReg) (v : VSrc) (off : BitVec 10)
  | pubw (g : Guard) (ch : ChReg) (nM1 : BitVec 8)
  | recv (g : Guard) (ch : ChReg) (d : SReg) (nM1 : BitVec 8) (vd : Option VReg)
  | radd (g : Guard) (ch : ChReg) (d : VReg) (a : VSrc) (off : BitVec 10)
  | advr (g : Guard) (ch : ChReg) (nM1 : BitVec 8)
  | put (g : Guard) (st : Sticky) (sz : Size) (x : XSrc) (a : SSrc)
  | putf (g : Guard) (sz : Size) (x : XSrc) (a : SSrc) (f : FReg) (incM1 : BitVec 5) (pos : BitVec 3)
  | fadd (g : Guard) (f : FReg) (v : FOperand)
  | faddRemote (g : Guard) (p : SReg) (v : FOperand)
  | faddb (g : Guard) (d : SReg) (f : FReg) (incM1 : BitVec 4) (bound : SReg)
  | faddbRemote (g : Guard) (d : SReg) (p : SReg) (incM1 : BitVec 4) (bound : SReg) (t : BitVec 10) (e : BitVec 6)
  | fset (g : Guard) (f : FReg) (v : FOperand)
  | fsetRemote (g : Guard) (p : SReg) (v : FOperand)
  | fsetM (g : Guard) (f : FReg) (v : FMOperand) (m : SSrc) (blk : BitVec 4)
  | seqGo (g : Guard) (addr : BitVec 16) (f : FReg) (k : SReg)
  | chset (g : Guard) (ch : ChReg) (a : SReg)
  -- B slot (08 R161 to R172, 14 R286)
  | br (g : Guard) (off : BitVec 16)
  | bri (g : Guard) (a : SSrc)
  | call (g : Guard) (off : BitVec 16)
  | calli (g : Guard) (a : SSrc)
  | ret (g : Guard)
  | loop (g : Guard) (off : BitVec 16)
  | loopR (g : Guard) (off : BitVec 16) (epi : BitVec 2)
  | wait (g : Guard) (fc : FCond) (f : FReg) (v : FOperand)
  | waitany (g : Guard) (fc : FCond) (f : FReg) (nM1 : BitVec 3) (v : FOperand)
  | delay (g : Guard) (n : BitVec 16)
  | fence (g : Guard) (sc : Scope)
  | fenceQueue (g : Guard) (q : Queue)
  | drain (g : Guard) (sc : Scope)
  | qfence (g : Guard) (qs : BitVec 4)
  | rgnBegin (g : Guard) (limit : BitVec 4)
  | rgnKeep (g : Guard) (a b : SSrc)
  | rgnEnd (g : Guard)
  | launch (g : Guard) (a : SSrc) (f : Option FReg)
  | trigger (g : Guard)
  | tend (g : Guard)
  | yield (g : Guard)
  | trap (g : Guard) (code : BitVec 8) (a : SSrc)
  | sealOpen (g : Guard) (a : SSrc)
  | sealAdd (g : Guard) (a : SSrc)
  | sealClose (g : Guard) (a : SSrc)
  | bkpt (g : Guard) (id : BitVec 8)
  -- copy sequencer (07 R150, 11 R230 to R236)
  | cpMove (ca cb : BitVec 3) (inc : Bool) (len : BitVec 16)
  | cpStr (ca cb pitch : BitVec 3) (rows : BitVec 10) (rowlen : BitVec 9)
  | cpPut (ca cb pitch : BitVec 3) (rows : BitVec 10) (rowlen : BitVec 9)
  | cpLoop (lvl : BitVec 2) (back : BitVec 10) (n : BitVec 16)
  | cpAdd (ca : BitVec 3) (imm : BitVec 25)
  | cpFlag (ca : BitVec 3) (loc : Bool) (val : BitVec 16) (f : FReg)
  | cpWait (val : BitVec 16) (f : FReg)
  | cpChk (ca : BitVec 3) (cls : ChkClass) (len : BitVec 16)
  -- steps of a core's engines (95); `c` is the physical core number
  | seqProgramStart (c : Nat)
  | correctFreezeEnd (c : Nat)
  | landingArrival (c e : Nat)
  | landingDue (c : Nat)
  | walkComplete (hall k : Nat)
  | migRepoll (hall k : Nat)
  | mxqEntryStart (c : Nat)
  | tileClearPoint (c : Nat)
  | cmqEntryLeave (c : Nat)
  | hxqEntryLeave (c k : Nat)
  | hopComparison (c ch : Nat)
  | lockstepCompare (c : Nat) (even odd : Word)
  | postedStoreFail (c k : Nat)
  -- GMC (18 R326 to R330); `m` is the mailbox slot of gallery `gal`
  | gmcStateWrite (c : Nat) (w : GmcWrite)
  | gmcReplyResume (gal m : Nat)
  | gmcReplyRedirect (gal m : Nat) (npc : BitVec 16)
  | gmcReplyRollback (gal m : Nat)
  | gmcReplyKill (gal m : Nat)
  | gmcReplyAbort (gal m : Nat)
  | gmcWatchdog (gal : Nat)
  -- Concourse (02 R29 to R36, 12 R249 to R257, 22 R402 to R407)
  | seatDump (c : Nat)
  | taskCompletionEffects (t : Nat)
  | checkpoint (t : Nat)
  | checkpointTimer (t : Nat)
  | preemptDrain (t : Nat)
  | drainTimeout (t : Nat)
  | seatSave (c : Nat)
  | vaultWindowSave (t k : Nat)
  | taskReplace (t : Nat)
  -- Foyer (12 R239 to R242)
  | foyerBind (slot : Nat)
  | packetAdmit (slot : Nat)
  | foyerSliceExpiry (slot : Nat)
  | foyerSlotFree (slot : Nat)
  -- graphs (12 R245 to R252)
  | nodeRelease (gr n : Nat) (m : Mark)
  | nodeKernel (gr n : Nat)
  | nodeCond (gr n : Nat)
  | nodeLoop (gr n : Nat)
  | nodeLoopIterate (gr n : Nat)
  | nodeWait (gr n : Nat)
  | nodeSignal (gr n : Nat)
  | nodeKernelComplete (gr n : Nat)
  | spawn (gr n : Nat)
  -- host registers (15 R298 to R302)
  | doorbell (fn : HostFn) (q : Nat)
  | pcap (v : Word)
  | clockStep (mhz : Nat)
  | diaginj (v : Word)
  | vaperture (fn : HostFn) (v : Word)
  | mmap (m : Nat) (v : Word)
  | segtab (k w : Nat) (v : Word)
  | registerWrite (off : Nat) (v : Word)
  | bar2Read (fn : HostFn) (off n : Nat)
  | bar2Write (fn : HostFn) (off : Nat) (data : List Byte)
  | bar2AtomicCas (fn : HostFn) (off : Nat) (wide : Bool) (old new : Word)
  | bar2AtomicFetchadd (fn : HostFn) (off : Nat) (wide : Bool) (v : Word)
  -- root of trust (14 R278 to R285, 15 R300)
  | keyNew (owner : Nat × Nat) (slot job world : Nat)
  | keyImport (owner : Nat × Nat) (slot job world : Nat) (wrapped : Nat)
  | keyDestroy (owner : Nat × Nat) (slot : Nat)
  | getMeasurements (world : Nat)
  | imageLoad (spec : ImageSpec)
  | tdiStateChange (world : Nat) (t : Tdi)
  -- fabric (14 R283, 15 R293 to R297, 21 R379 to R387)
  | linkKeyDerive (port : Nat)
  | linkRekey (port : Nat)
  | flitCrcFail (port : Nat)
  | linkdown (port : Nat)
  | linkRetrainTimeout (port : Nat)
  | flightWriteArrival (p : Packet)
  | flightWritefArrival (p : Packet)
  | flightFaddArrival (p : Packet)
  | flightFsetArrival (p : Packet)
  | flightFaddbArrival (p : Packet)
  | flightFaddbRspArrival (p : Packet)
  | flightFetchArrival (p : Packet)
  | flightFetchRspArrival (p : Packet)
  | flightSendArrival (p : Packet)
  | flightPubwArrival (p : Packet)
  | flightLinkArrival (p : Packet)
  | rejectArrival (p : Packet)
  -- encodings without an instruction (20 R361, R362, R366)
  | undefopc (slot : BitVec 3) (w : Word)
  -- accesses that complete later, and outside commands
  | postedWritePerformed (c k : Nat)
  | keepCopyComplete (c : Nat)
  | jobCreate (spec : JobSpec)
  | jobAbort (job : Nat)
  | hostTransferEngineCopy (src dst n slot : Nat) (dstHost : Bool) (srcHost : Bool)
  | debuggerRelease (c : Nat) (act : DebugAct)
  | signerHashSet (job world : Nat) (hash : Nat)
  | faultPolicySet (job world : Nat) (table : Sparse W32)
  -- operations that need no field: the empty bundle, CP.END, and steps that act on what the state holds
  | emptyBundle
  | cpEnd
  | poolEntryFree
  | taskPlace
  | ctlNeg
  | ctlGo
  | invalidateCommand
  | invalidateComplete
  | pstateP0Run
  | pstateP1Gated
  | pstateP2Retention
  | pstateP3Off
  | pstateTransitionDone
  | powerOn
  | hotReset
  | bootStageComplete
  | headerEvent
  | preemptDecide
  | completionWordAdd
  | deadline
  | cpUndefopc
  deriving DecidableEq, Repr

end Sys2Proof
end

