-- ==== Sys2Proof/WellFormed.lean ====
section
/-! DEFINITION. Which slot operations a word may hold: the limits that the word alone fixes (20 R363) and that the field types of
Syntax do not already keep. Steps that no word names are always well-formed. -/

namespace Sys2Proof

/-- A guard of the scalar cluster (03 R51). -/
def Guard.scalarOk (g : Guard) : Bool := g.pred == 0 || 8 ≤ g.pred.toNat
/-- A guard of the vector cluster (03 R51). -/
def Guard.vectorOk (g : Guard) : Bool := g.pred.toNat < 8
/-- K = 0 has STEP = 0 (07 R141). -/
def Sticky.ok (st : Sticky) : Bool := st.k || st.step == 0
/-- 0x3FF with its hold bit is the held marker, so a latch never names v1023 (07 R139). -/
def VSrc.ok : VSrc → Bool
  | .latch n => n.toNat != 0x3FF
  | _ => true
/-- Destination of the scalar cluster. -/
def PReg.dstS (p : PReg) : Bool := 8 ≤ p.toNat
/-- Source of the scalar cluster or p0. -/
def PReg.srcS (p : PReg) : Bool := p == 0 || 8 ≤ p.toNat
/-- Destination of the vector cluster. -/
def PReg.dstV (p : PReg) : Bool := 1 ≤ p.toNat && p.toNat ≤ 7
/-- Source of the vector cluster. -/
def PReg.srcV (p : PReg) : Bool := p.toNat ≤ 7

/-- Element width of a format in bits (05 R89, 09 Table 9.1). -/
def Fmt.width : Fmt → Nat
  | .f32 | .int32 | .uint32 => 32
  | .bf16 | .fp16 => 16
  | .fp8a | .fp8b | .int8 | .uint8 | .bk8a | .bk8b => 8
  | .fp6a | .fp6b | .bk6a | .bk6b => 6
  | .fp4 | .bk4 => 4

/-- Groups of 64 elements in a register (09 Table 9.1). -/
def Fmt.groups (f : Fmt) : Nat :=
  match f.width with
  | 32 => 1
  | 16 => 2
  | 8 => 4
  | 6 => 5
  | _ => 8

def Fmt.isFloat : Fmt → Bool
  | .int32 | .uint32 | .int8 | .uint8 => false
  | _ => true

/-- The element formats, codes 0x0 to 0xB. -/
def Fmt.isElem : Fmt → Bool
  | .bk8a | .bk8b | .bk6a | .bk6b | .bk4 => false
  | _ => true

/-- Type sets of Table 9.3 and Table 9.8. -/
def Fmt.isFp3 (f : Fmt) : Bool := [Fmt.f32, .bf16, .fp16].contains f
def Fmt.isInt4 (f : Fmt) : Bool := [Fmt.int32, .uint32, .int8, .uint8].contains f
def Fmt.isI32 (f : Fmt) : Bool := [Fmt.int32, .uint32].contains f
def Fmt.isW32 (f : Fmt) : Bool := [Fmt.f32, .int32, .uint32].contains f
def Fmt.isBcst (f : Fmt) : Bool := [Fmt.f32, .bf16, .fp16, .fp8a, .fp8b, .int32, .uint32, .int8, .uint8].contains f
def Fmt.isPack (f : Fmt) : Bool := [Fmt.bf16, .fp16, .fp8a, .fp8b, .fp6a, .fp6b, .fp4, .int8, .uint8].contains f
def Fmt.isNarrow (f : Fmt) : Bool := [Fmt.fp8a, .fp8b, .fp6a, .fp6b, .fp4].contains f

/-- Matrix format classes (10 R204, Table 10.3). -/
inductive MClass where
  | fp8 | int8 | fp4 | half
  deriving DecidableEq, Repr

def Fmt.mclass : Fmt → Option MClass
  | .fp8a | .fp8b | .bk8a | .bk8b | .bk6a | .bk6b => some .fp8
  | .int8 | .uint8 => some .int8
  | .fp4 | .bk4 => some .fp4
  | .bf16 | .fp16 => some .half
  | _ => none

def memScalar (n : SReg) : Bool := 1 ≤ n.toNat && n.toNat ≤ 62

def MOperand.ok : MOperand → Bool
  | .reg f _ => f.mclass.isSome
  | .mem s => memScalar s

/-- Two register operands are of one class (20 R363). -/
def MOperand.pairOk : MOperand → MOperand → Bool
  | .reg f _, .reg h _ => f.mclass == h.mclass
  | _, _ => true

def TSource.ok : TSource → Bool
  | .reg _ => true
  | .mem s => memScalar s

/-- Sizes whose register is scalar (11 R212). -/
def Size.scalar : Size → Bool
  | .b1 | .b2 | .b4 | .b8 => true
  | _ => false

def Size.bytes : Size → Nat
  | .b1 => 1
  | .b2 => 2
  | .b4 => 4
  | .b8 => 8
  | .b256 => 256
  | .b64 => 64
  | .b128 => 128

/-- The size codes an L-slot instruction accepts (11 R212). -/
def Size.lOk : Size → Bool
  | .b64 | .b128 => false
  | _ => true

/-- SX goes with SZ 0 to 2 only (11 R212). -/
def Size.sxOk (sz : Size) (sx : Bool) : Bool := !sx || [Size.b1, .b2, .b4].contains sz

def XReg.ok (sz : Size) : XReg → Bool
  | .s _ => sz.scalar
  | .v _ => !sz.scalar

def XSrc.ok (sz : Size) : XSrc → Bool
  | .s _ => sz.scalar
  | .v a => !sz.scalar && a.ok

def VCount.ok (f : Fmt) : VCount → Bool
  | .imm n => n.toNat < f.width
  | .reg b => b.ok

/-- VCVT limits (09 R185). -/
def Cvt.ok : Cvt → Bool
  | .plain dst src mode gd gs =>
    dst.isElem && src.isElem && gd.toNat < dst.groups && gs.toNat < src.groups &&
      (mode != .sr || [Fmt.bf16, .fp16, .fp8a, .fp8b, .fp6a, .fp6b, .fp4].contains dst)
  | .block e _ gd _ => e.isNarrow && gd.toNat < e.groups

def Xpose.ok : Xpose → Bool
  | .w a => a.ok
  | .r _ => true
  | .wr _ a => a.ok

/-- The limits of each slot operation that its word alone fixes. -/
def wellFormed : Instr → Bool
  | .add g _ _ _ | .sub g _ _ _ | .addi g _ _ _ | .mul g _ _ _ | .mulh g _ _ _ _ | .and g _ _ _ | .or g _ _ _
  | .xor g _ _ _ | .andn g _ _ _ | .shl g _ _ _ | .shr g _ _ _ | .sar g _ _ _ | .min g _ _ _ | .max g _ _ _
  | .minu g _ _ _ | .maxu g _ _ _ | .clz g _ _ | .popc g _ _ | .lea g _ _ _ _ _ | .mov g _ _ | .li g _ _
  | .srrd g _ _ | .srwr g _ _ | .gspace g _ _ | .gcast g _ _ _ _ | .reps g _ => g.scalarOk
  | .sel g _ q _ _ => g.scalarOk && PReg.srcS q
  | .extr g _ _ pos lenM1 _ => g.scalarOk && decide (pos.toNat + lenM1.toNat + 1 ≤ 64)
  | .lih _ _ => true
  | .cmp g _ d _ _ => g.scalarOk && PReg.dstS d
  | .cmpi g _ d _ _ => g.scalarOk && PReg.dstS d
  | .pand g d a _ b _ | .por g d a _ b _ | .pxor g d a _ b _ => g.scalarOk && PReg.dstS d && PReg.srcS a && PReg.srcS b
  | .pmov g d _ _ => g.scalarOk && d != 0
  | .vadd g st ty _ a b | .vsub g st ty _ a b | .vmin g st ty _ a b | .vmax g st ty _ a b =>
    g.vectorOk && st.ok && (ty.isFp3 || ty.isInt4) && a.ok && b.ok
  | .vmul g st ty _ a b | .vfma g st ty _ a b | .vfms g st ty _ a b | .vfnma g st ty _ a b =>
    g.vectorOk && st.ok && ty.isFp3 && a.ok && b.ok
  | .vabs g st ty _ a | .vneg g st ty _ a =>
    g.vectorOk && st.ok && (ty.isFp3 || ty == .int32 || ty == .int8) && a.ok
  | .vscale g st ty _ a b => g.vectorOk && st.ok && ty == .f32 && a.ok && b.ok
  | .vrint g st ty _ a => g.vectorOk && st.ok && ty.isFp3 && a.ok
  | .vadds g st ty _ a b | .vsubs g st ty _ a b => g.vectorOk && st.ok && ty.isInt4 && a.ok && b.ok
  | .vmullo g st ty _ a b | .vmulhi g st ty _ a b => g.vectorOk && st.ok && ty.isI32 && a.ok && b.ok
  | .vand g st _ a b | .vor g st _ a b | .vxor g st _ a b | .vandn g st _ a b => g.vectorOk && st.ok && a.ok && b.ok
  | .vnot g st _ a | .vmov g st _ a => g.vectorOk && st.ok && a.ok
  | .vshl g st ty _ a k | .vshr g st ty _ a k | .vsar g st ty _ a k =>
    g.vectorOk && st.ok && ty.isInt4 && a.ok && k.ok ty
  | .vbcst g ty _ _ => g.vectorOk && ty.isBcst
  | .vli g ty _ imm => g.vectorOk && ty.isBcst && decide (imm.toNat < 2 ^ ty.width)
  | .viota g ty _ _ => g.vectorOk && ty.isI32
  | .vsel g _ _ a b => g.vectorOk && a.ok && b.ok
  | .vcmp g cc ty d a b => g.vectorOk && ty.isW32 && PReg.dstV d && a.ok && b.ok && (cc != .un || ty == .f32)
  | .vclass g d a _ => g.vectorOk && PReg.dstV d && a.ok
  | .vpset g d _ => g.vectorOk && PReg.dstV d
  | .vpand g d a _ b _ | .vpor g d a _ b _ | .vpxor g d a _ b _ => g.vectorOk && PReg.dstV d && PReg.srcV a && PReg.srcV b
  | .vpnot g d a => g.vectorOk && PReg.dstV d && PReg.srcV a
  | .vcvt g _ a c => g.vectorOk && a.ok && c.ok
  | .vrcp g _ a | .vrsq g _ a | .vexp2 g _ a => g.vectorOk && a.ok
  | .vsum g ty _ a | .vrmax g ty _ _ a | .vrmin g ty _ _ a => g.vectorOk && ty.isW32 && a.ok
  | .defer g _ n => g.vectorOk && decide (n.toNat ≤ 4)
  | .drq g _ n _ p => g.pred == 0 && decide (n.toNat ≤ 4) && PReg.dstV p
  | .xpose g st _ op => g.vectorOk && st.ok && op.ok
  | .cxs g ty _ _ q dl => g.vectorOk && ty.isW32 && PReg.srcV q && decide (dl.toNat ≤ 5)
  | .xperm g _ a b => g.vectorOk && a.ok && b.ok
  | .xrot g _ a _ | .xbcst g _ a _ => g.vectorOk && a.ok
  | .xshuf g _ ty _ a b => g.vectorOk && ty.isBcst && a.ok && b.ok
  | .xpack g st ty _ a grp | .xunpk g st ty _ a grp _ =>
    g.vectorOk && st.ok && ty.isPack && a.ok && decide (grp.toNat < ty.groups)
  | .xcmpr g _ a q => g.vectorOk && a.ok && PReg.srcV q
  | .mma g st _ a b | .mmaz g st _ a b => g.vectorOk && st.ok && a.ok && b.ok && a.pairOk b
  | .tld g st _ a => g.vectorOk && st.ok && a.ok
  | .tstMemory g st p _ => g.vectorOk && st.ok && memScalar p
  | .tstRegister g st _ _ => g.vectorOk && st.ok
  | .tzero g _ => g.vectorOk
  | .tscale g _ _ _ => g.vectorOk
  | .tadd g ty _ _ => g.vectorOk && (ty == .f32 || ty == .int32)
  | .ld g st sz sx d _ _ | .ldv g st sz sx d _ _ => g.scalarOk && st.ok && sz.lOk && sz.sxOk sx && d.ok sz
  | .st g st sz x _ _ | .stv g st sz x _ _ => g.scalarOk && st.ok && sz.lOk && x.ok sz
  | .ldg g sz sx d _ _ t _ | .fetch g sz sx d _ _ t _ => g.scalarOk && sz.lOk && sz.sxOk sx && d.ok sz && t != 0
  | .stg g sz _ x _ _ => g.scalarOk && sz.lOk && x.ok sz
  | .stNb g ty v _ _ grp q =>
    g.scalarOk && (ty.isNarrow || ty == .int8 || ty == .uint8) && v.ok && decide (grp.toNat < ty.groups) && PReg.srcS q
  | .gath g _ _ vi t _ => g.scalarOk && vi.ok && t != 0
  | .scat g va _ vi q => g.scalarOk && va.ok && vi.ok && PReg.srcS q
  | .ldc g sz sx d _ _ => g.scalarOk && sz.lOk && sz.sxOk sx && d.ok sz
  | .wfree g _ _ | .pubw g _ _ | .recv g _ _ _ _ | .advr g _ _ => g.scalarOk
  | .send g sz _ v _ => g.scalarOk && !sz.scalar && v.ok
  | .radd g _ _ a _ => g.scalarOk && a.ok
  | .put g st sz x _ => g.scalarOk && st.ok && x.ok sz
  | .putf g sz x _ _ _ _ => g.scalarOk && x.ok sz
  | .fadd g _ _ | .fset g _ _ | .faddb g _ _ _ _ | .fsetM g _ _ _ _ => g.scalarOk
  | .faddRemote g p _ | .fsetRemote g p _ => g.scalarOk && p != 0
  | .faddbRemote g _ p _ _ t _ => g.scalarOk && p != 0 && t != 0
  | .seqGo g _ _ k => g.scalarOk && decide (1 ≤ k.toNat ∧ k.toNat ≤ 56)
  | .chset g _ a => g.scalarOk && decide (1 ≤ a.toNat ∧ a.toNat ≤ 60)
  | .br g _ | .bri g _ | .call g _ | .calli g _ | .ret g | .loop g _ | .loopR g _ _ | .wait g _ _ _ | .delay g _
  | .fence g _ | .fenceQueue g _ | .drain g _ | .rgnBegin g _ | .rgnKeep g _ _ | .rgnEnd g | .launch g _ _
  | .trigger g | .tend g | .yield g | .sealOpen g _ | .sealAdd g _ | .sealClose g _ | .bkpt g _ => g.scalarOk
  | .waitany g _ f n _ => g.scalarOk && decide (f.toNat + n.toNat ≤ 255)
  | .qfence g qs => g.scalarOk && qs != 0
  | .trap g code _ => g.scalarOk && !(decide (0xC0 ≤ code.toNat ∧ code.toNat ≤ 0xC2))
  | _ => true

end Sys2Proof
end

