-- ==== Sys2Proof/Decode.lean ====
section
/-! DEFINITION. From bits to instructions and back: slot words (07 R138 to R149), their encoding checks (20 R362, R363), bundle headers
(07 R137), copy-sequencer words (07 R150) and the encoder of the same tables. -/

namespace Sys2Proof

/-- The encoding codes a word can raise, in the order of Table 20.3 (20 R363). -/
inductive EncFail where
  | predCluster | rsvdField | hold
  deriving DecidableEq, Repr

/-- The fields of a slot word (07 Table 7.2). -/
structure Fields where
  opc  : BitVec 10
  pred : BitVec 4 := 0
  neg  : Bool := false
  d    : BitVec 10 := 0
  s1   : BitVec 10 := 0
  s2   : BitVec 10 := 0
  h    : BitVec 3 := 0
  mod  : BitVec 16 := 0
  deriving DecidableEq, Repr

def Fields.ofWord (w : Word) : Fields :=
  { opc := w.extractLsb' 54 10, pred := w.extractLsb' 50 4, neg := w.getLsbD 49, d := w.extractLsb' 39 10
    s1 := w.extractLsb' 29 10, s2 := w.extractLsb' 19 10, h := w.extractLsb' 16 3, mod := w.extractLsb' 0 16 }

def Fields.toWord (f : Fields) : Word :=
  f.opc ++ f.pred ++ BitVec.ofBool f.neg ++ f.d ++ f.s1 ++ f.s2 ++ f.h ++ f.mod

/-! Codes of the small sets. -/

/-- Table 7.4. -/
def Fmt.code : Fmt → BitVec 6
  | .f32 => 0x00 | .bf16 => 0x01 | .fp16 => 0x02 | .fp8a => 0x03 | .fp8b => 0x04 | .fp6a => 0x05 | .fp6b => 0x06
  | .fp4 => 0x07 | .int32 => 0x08 | .uint32 => 0x09 | .int8 => 0x0A | .uint8 => 0x0B
  | .bk8a => 0x10 | .bk8b => 0x11 | .bk6a => 0x12 | .bk6b => 0x13 | .bk4 => 0x14

def Fmt.ofCode (c : BitVec 6) : Option Fmt :=
  match c.toNat with
  | 0x00 => some .f32 | 0x01 => some .bf16 | 0x02 => some .fp16 | 0x03 => some .fp8a | 0x04 => some .fp8b
  | 0x05 => some .fp6a | 0x06 => some .fp6b | 0x07 => some .fp4 | 0x08 => some .int32 | 0x09 => some .uint32
  | 0x0A => some .int8 | 0x0B => some .uint8 | 0x10 => some .bk8a | 0x11 => some .bk8b | 0x12 => some .bk6a
  | 0x13 => some .bk6b | 0x14 => some .bk4 | _ => none

/-- TYPE and SRC: the low four bits of an element format code (07 R141). -/
def Fmt.ofType (c : BitVec 4) : Option Fmt := Fmt.ofCode (c.setWidth 6)
def Fmt.type (f : Fmt) : BitVec 4 := f.code.setWidth 4
/-- FA and FB carry five bits (10 Table 10.4). -/
def Fmt.code5 (f : Fmt) : BitVec 5 := f.code.setWidth 5

/-- Table 8.2. -/
def SCond.code : SCond → BitVec 4
  | .eq => 0 | .ne => 1 | .lt => 2 | .ge => 3 | .le => 4 | .gt => 5 | .ltu => 6 | .geu => 7 | .leu => 8 | .gtu => 9
def SCond.ofCode (c : BitVec 4) : Option SCond :=
  match c.toNat with
  | 0 => some .eq | 1 => some .ne | 2 => some .lt | 3 => some .ge | 4 => some .le | 5 => some .gt | 6 => some .ltu
  | 7 => some .geu | 8 => some .leu | 9 => some .gtu | _ => none

/-- Table 9.4. -/
def VCond.code : VCond → BitVec 4
  | .eq => 0 | .ne => 1 | .lt => 2 | .ge => 3 | .le => 4 | .gt => 5 | .un => 6 | .rb => 7
def VCond.ofCode (c : BitVec 4) : Option VCond :=
  match c.toNat with
  | 0 => some .eq | 1 => some .ne | 2 => some .lt | 3 => some .ge | 4 => some .le | 5 => some .gt | 6 => some .un
  | 7 => some .rb | _ => none

/-- Table 8.6. -/
def FCond.code : FCond → BitVec 3
  | .ge => 0 | .eq => 1 | .ne => 2 | .geu => 3
def FCond.ofCode (c : BitVec 3) : Option FCond :=
  match c.toNat with
  | 0 => some .ge | 1 => some .eq | 2 => some .ne | 3 => some .geu | _ => none

/-- Table 6.2, hierarchical scopes. -/
def Scope.code : Scope → BitVec 4
  | .core => 0 | .quad => 1 | .gallery => 2 | .hall => 3 | .chip => 4 | .group => 5 | .pod => 6 | .system => 7
def Scope.ofCode (c : BitVec 4) : Option Scope :=
  match c.toNat with
  | 0 => some .core | 1 => some .quad | 2 => some .gallery | 3 => some .hall | 4 => some .chip | 5 => some .group
  | 6 => some .pod | 7 => some .system | _ => none

/-- Table 6.2, queue scopes. -/
def Queue.code : Queue → BitVec 4
  | .mxq => 8 | .cpq => 9 | .cmq => 10 | .hxq => 11
def Queue.ofCode (c : BitVec 4) : Option Queue :=
  match c.toNat with
  | 8 => some .mxq | 9 => some .cpq | 10 => some .cmq | 11 => some .hxq | _ => none

/-- Table 9.5, MODE. -/
def RMode.code : RMode → BitVec 3
  | .rne => 0 | .rtz => 1 | .rdn => 2 | .rup => 3 | .sr => 4
def RMode.ofCode (c : BitVec 3) : Option RMode :=
  match c.toNat with
  | 0 => some .rne | 1 => some .rtz | 2 => some .rdn | 3 => some .rup | 4 => some .sr | _ => none

/-- The target tags of GCAST (08 R160). -/
def Window.code : Window → BitVec 4
  | .global => 0x0 | .priv => 0x8 | .scratch => 0x9 | .gallery => 0xA | .pod => 0xC
def Window.ofCode (c : BitVec 4) : Option Window :=
  match c.toNat with
  | 0x0 => some .global | 0x8 => some .priv | 0x9 => some .scratch | 0xA => some .gallery | 0xC => some .pod | _ => none

/-- Table 11.1. -/
def Size.code : Size → BitVec 3
  | .b1 => 0 | .b2 => 1 | .b4 => 2 | .b8 => 3 | .b256 => 4 | .b64 => 5 | .b128 => 6
def Size.ofCode (c : BitVec 3) : Option Size :=
  match c.toNat with
  | 0 => some .b1 | 1 => some .b2 | 2 => some .b4 | 3 => some .b8 | 4 => some .b256 | 5 => some .b64 | 6 => some .b128
  | _ => none

/-- HK (11 R216). -/
def HostKind.code : HostKind → BitVec 2
  | .ordinary => 0 | .nonTemporal => 1 | .writeCombining => 2
def HostKind.ofCode (c : BitVec 2) : Option HostKind :=
  match c.toNat with
  | 0 => some .ordinary | 1 => some .nonTemporal | 2 => some .writeCombining | _ => none

/-- P of XSHUF (09 R195). -/
def Shuffle.code : Shuffle → BitVec 2
  | .ilo => 0 | .ihi => 1 | .even => 2 | .odd => 3
def Shuffle.ofCode (c : BitVec 2) : Shuffle :=
  match c.toNat with
  | 0 => .ilo | 1 => .ihi | 2 => .even | _ => .odd

/-- CLASS of CP.CHK (11 R235). -/
def ChkClass.code : ChkClass → BitVec 2
  | .bf16 => 0 | .fp32 => 1 | .exact => 2 | .masked => 3
def ChkClass.ofCode (c : BitVec 2) : ChkClass :=
  match c.toNat with
  | 0 => .bf16 | 1 => .fp32 | 2 => .exact | _ => .masked

/-! Operand fields. -/

def SSrc.of (h : Bool) (f : BitVec 10) : SSrc :=
  if h then (if f = 0x3FF then .held else .latch (f.setWidth 6)) else .reg (f.setWidth 6)
def SSrc.field : SSrc → BitVec 10
  | .reg n => n.setWidth 10 | .latch n => n.setWidth 10 | .held => 0x3FF
def SSrc.hbit : SSrc → Bool
  | .reg _ => false | .latch _ => true | .held => true

def VSrc.of (h : Bool) (f : BitVec 10) : VSrc :=
  if h then (if f = 0x3FF then .held else .latch f) else .reg f
def VSrc.field : VSrc → BitVec 10
  | .reg n => n | .latch n => n | .held => 0x3FF
def VSrc.hbit : VSrc → Bool
  | .reg _ => false | .latch _ => true | .held => true

/-- A data register whose class the size gives (11 R212). -/
def XSrc.of (sz : Size) (h : Bool) (f : BitVec 10) : XSrc := if sz.scalar then .s (SSrc.of h f) else .v (VSrc.of h f)
def XSrc.field : XSrc → BitVec 10
  | .s a => a.field | .v a => a.field
def XSrc.hbit : XSrc → Bool
  | .s a => a.hbit | .v a => a.hbit
def XReg.of (sz : Size) (f : BitVec 10) : XReg := if sz.scalar then .s (f.setWidth 6) else .v f
def XReg.field : XReg → BitVec 10
  | .s n => n.setWidth 10 | .v n => n

namespace Fields
def g (f : Fields) : Guard := ⟨f.pred, f.neg⟩
def hd (f : Fields) : Bool := f.h.getLsbD 2
def h1 (f : Fields) : Bool := f.h.getLsbD 1
def h2 (f : Fields) : Bool := f.h.getLsbD 0
/-- S1 as a scalar source. -/
def a (f : Fields) : SSrc := SSrc.of f.h1 f.s1
/-- S2 as a scalar source. -/
def b (f : Fields) : SSrc := SSrc.of f.h2 f.s2
/-- S1 as a vector source. -/
def va (f : Fields) : VSrc := VSrc.of f.h1 f.s1
/-- S2 as a vector source. -/
def vb (f : Fields) : VSrc := VSrc.of f.h2 f.s2
def sd (f : Fields) : SReg := f.d.setWidth 6
def st (f : Fields) : Sticky := ⟨f.mod.getLsbD 15, f.mod.extractLsb' 8 7⟩
def ty (f : Fields) : Option Fmt := Fmt.ofType (f.mod.extractLsb' 0 4)
end Fields

/-! Bits that a field of each class may set (07 Table 7.3). -/
def mS : BitVec 10 := 0x03F
def mP : BitVec 10 := 0x00F
def mT : BitVec 10 := 0x007
def mF : BitVec 10 := 0x0FF
def mV : BitVec 10 := 0x3FF
/-- A scalar source: six bits, or the held marker. -/
def mSrc (h : Bool) (f : BitVec 10) : BitVec 10 := if h && f == 0x3FF then 0x3FF else 0x03F
/-- A data field whose class the size gives. -/
def mX (sz : Option Size) (h : Bool) (f : BitVec 10) : BitVec 10 :=
  match sz with
  | some z => if z.scalar then mSrc h f else mV
  | none => mV
/-- A destination whose class the size gives. -/
def mXd (sz : Option Size) : BitVec 10 :=
  match sz with
  | some z => if z.scalar then mS else mV
  | none => mV

/-- What a defined opcode makes of a word: bits it may set, fields it may hold, whether its predicate fields are in the cluster of the
row, and the operation it stands for. -/
structure Row where
  ud   : BitVec 10 := 0
  us1  : BitVec 10 := 0
  us2  : BitVec 10 := 0
  um   : BitVec 16 := 0
  hold : BitVec 3 := 0
  pf   : Bool := true
  ins  : Option Instr

/-- A predicate field of the scalar cluster, by its register number (07 Table 7.3); p0 as a destination is another check's. -/
def pfS (f : BitVec 10) : Bool := PReg.srcS (f.setWidth 4)
/-- A predicate field of the vector cluster. -/
def pfV (f : BitVec 10) : Bool := PReg.srcV (f.setWidth 4)

/-! A slot (08 R156 to R160, 07 R142). -/

def rowA3 (f : Fields) (mk : Guard → SReg → SSrc → SSrc → Instr) : Row :=
  { ud := mS, us1 := mSrc f.h1 f.s1, us2 := mSrc f.h2 f.s2, hold := 3, ins := some (mk f.g f.sd f.a f.b) }
def rowA2 (f : Fields) (mk : Guard → SReg → SSrc → Instr) : Row :=
  { ud := mS, us1 := mSrc f.h1 f.s1, hold := 2, ins := some (mk f.g f.sd f.a) }
def rowAShift (f : Fields) (mk : Guard → SReg → SSrc → SCount → Instr) : Row :=
  if f.mod.getLsbD 6 then
    { ud := mS, us1 := mSrc f.h1 f.s1, um := 0x007F, hold := 2, ins := some (mk f.g f.sd f.a (.imm (f.mod.extractLsb' 0 6))) }
  else { ud := mS, us1 := mSrc f.h1 f.s1, us2 := mSrc f.h2 f.s2, hold := 3, ins := some (mk f.g f.sd f.a (.reg f.b)) }
def rowAPred (f : Fields) (mk : Guard → PReg → PReg → Bool → PReg → Bool → Instr) : Row :=
  { ud := mP, us1 := mP, us2 := mP, um := 3, pf := pfS f.d && pfS f.s1 && pfS f.s2
    ins := some (mk f.g (f.d.setWidth 4) (f.s1.setWidth 4) (f.mod.getLsbD 0) (f.s2.setWidth 4) (f.mod.getLsbD 1)) }

/-- IMM of LI and LIH (07 R142). -/
def liImm (f : Fields) : W32 := (f.s2.setWidth 6 : BitVec 6) ++ f.s1 ++ f.mod

def rowA (f : Fields) : Option Row :=
  match f.opc.toNat with
  | 0x000 => some (rowA3 f .add)
  | 0x001 => some (rowA3 f .sub)
  | 0x002 => some { rowA2 f (.addi · · · f.mod) with um := 0xFFFF }
  | 0x003 => some (rowA3 f .mul)
  | 0x004 => some { rowA3 f (.mulh · · · · (f.mod.getLsbD 0)) with um := 1 }
  | 0x005 => some (rowA3 f .and)
  | 0x006 => some (rowA3 f .or)
  | 0x007 => some (rowA3 f .xor)
  | 0x008 => some (rowA3 f .andn)
  | 0x009 => some (rowAShift f .shl)
  | 0x00A => some (rowAShift f .shr)
  | 0x00B => some (rowAShift f .sar)
  | 0x00C => some (rowA3 f .min)
  | 0x00D => some (rowA3 f .max)
  | 0x00E => some (rowA3 f .minu)
  | 0x00F => some (rowA3 f .maxu)
  | 0x010 => some { rowA3 f (.sel · · (f.mod.extractLsb' 0 4) · ·) with um := 0xF, pf := PReg.srcS (f.mod.extractLsb' 0 4) }
  | 0x011 => some (rowA2 f .clz)
  | 0x012 => some (rowA2 f .popc)
  | 0x013 => some { rowA2 f (.extr · · · (f.mod.extractLsb' 0 6) (f.mod.extractLsb' 6 6) (f.mod.getLsbD 12)) with um := 0x1FFF }
  | 0x014 => some { rowA3 f (.lea · · · · (f.mod.extractLsb' 0 3) (f.mod.extractLsb' 3 13)) with um := 0xFFFF }
  | 0x015 => some (rowA2 f .mov)
  | 0x016 => some { ud := mS, us1 := mV, us2 := mS, um := 0xFFFF, ins := some (.li f.g f.sd (liImm f)) }
  | 0x017 => some { ud := mS, us1 := mV, us2 := mS, um := 0xFFFF
                    ins := if f.pred == 0 && !f.neg then some (.lih f.sd (liImm f)) else none }
  | 0x018 => some { ud := mP, us1 := mSrc f.h1 f.s1, us2 := mSrc f.h2 f.s2, um := 0xF, hold := 3, pf := pfS f.d
                    ins := (SCond.ofCode (f.mod.extractLsb' 0 4)).map (.cmp f.g · (f.d.setWidth 4) f.a f.b) }
  | 0x019 => some { ud := mP, us1 := mSrc f.h1 f.s1, um := 0xFFFF, hold := 2, pf := pfS f.d
                    ins := (SCond.ofCode (f.mod.extractLsb' 0 4)).map (.cmpi f.g · (f.d.setWidth 4) f.a (f.mod.extractLsb' 4 12)) }
  | 0x01A => some (rowAPred f .pand)
  | 0x01B => some (rowAPred f .por)
  | 0x01C => some (rowAPred f .pxor)
  | 0x01D => some { ud := mP, us1 := mP, um := 1, ins := some (.pmov f.g (f.d.setWidth 4) (f.s1.setWidth 4) (f.mod.getLsbD 0)) }
  | 0x01E => some { ud := mS, us1 := mV, ins := some (.srrd f.g f.sd f.s1) }
  | 0x01F => some { ud := mV, us1 := mSrc f.h1 f.s1, hold := 2, ins := some (.srwr f.g f.d f.a) }
  | 0x020 => some (rowA2 f .gspace)
  | 0x021 => some { rowA3 f .add with um := 0xF, ins := (Window.ofCode (f.mod.extractLsb' 0 4)).map (.gcast f.g · f.sd f.a f.b) }
  | 0x022 => some { us1 := mSrc f.h1 f.s1, hold := 2, ins := some (.reps f.g f.a) }
  | _ => none

/-! V slot (09 R176 to R190). -/

def rowV3 (f : Fields) (mk : Guard → Sticky → Fmt → VReg → VSrc → VSrc → Instr) : Row :=
  { ud := mV, us1 := mV, us2 := mV, um := 0xFF0F, hold := 3, ins := f.ty.map (mk f.g f.st · f.d f.va f.vb) }
def rowV2 (f : Fields) (mk : Guard → Sticky → Fmt → VReg → VSrc → Instr) : Row :=
  { ud := mV, us1 := mV, um := 0xFF0F, hold := 2, ins := f.ty.map (mk f.g f.st · f.d f.va) }
def rowVLogic (f : Fields) (mk : Guard → Sticky → VReg → VSrc → VSrc → Instr) : Row :=
  { ud := mV, us1 := mV, us2 := mV, um := 0xFF00, hold := 3, ins := some (mk f.g f.st f.d f.va f.vb) }
def rowVMove (f : Fields) (mk : Guard → Sticky → VReg → VSrc → Instr) : Row :=
  { ud := mV, us1 := mV, um := 0xFF00, hold := 2, ins := some (mk f.g f.st f.d f.va) }
def rowVShift (f : Fields) (mk : Guard → Sticky → Fmt → VReg → VSrc → VCount → Instr) : Row :=
  if f.mod.getLsbD 4 then
    { ud := mV, us1 := mV, us2 := 0x1F, um := 0xFF1F, hold := 2
      ins := f.ty.map (mk f.g f.st · f.d f.va (.imm (f.s2.setWidth 5))) }
  else { ud := mV, us1 := mV, us2 := mV, um := 0xFF1F, hold := 3, ins := f.ty.map (mk f.g f.st · f.d f.va (.reg f.vb)) }
def rowVPred (f : Fields) (mk : Guard → PReg → PReg → Bool → PReg → Bool → Instr) : Row :=
  { ud := mP, us1 := mP, us2 := mP, um := 0x30, pf := pfV f.d && pfV f.s1 && pfV f.s2
    ins := some (mk f.g (f.d.setWidth 4) (f.s1.setWidth 4) (f.mod.getLsbD 4) (f.s2.setWidth 4) (f.mod.getLsbD 5)) }
def rowVSpec (f : Fields) (mk : Guard → VReg → VSrc → Instr) : Row :=
  { ud := mV, us1 := mV, hold := 2, ins := some (mk f.g f.d f.va) }
def rowVRed (f : Fields) (mk : Fmt → Guard → VReg → VSrc → Instr) (um : BitVec 16) : Row :=
  { ud := mV, us1 := mV, um := um, hold := 2, ins := f.ty.map (mk · f.g f.d f.va) }

def rowCvt (f : Fields) : Row :=
  let gd : BitVec 3 := f.mod.extractLsb' 12 3
  if f.mod.getLsbD 11 then
    { ud := mV, us1 := mV, us2 := mV, um := 0x7F0F, hold := 2
      ins := do
        let e ← f.ty
        let m ← RMode.ofCode (f.mod.extractLsb' 8 3)
        some (.vcvt f.g f.d f.va (.block e m gd f.s2)) }
  else
    { ud := mV, us1 := mV, us2 := 0x7, um := 0x7FFF, hold := 2
      ins := do
        let dst ← f.ty
        let src ← Fmt.ofType (f.mod.extractLsb' 4 4)
        let m ← RMode.ofCode (f.mod.extractLsb' 8 3)
        some (.vcvt f.g f.d f.va (.plain dst src m gd (f.s2.setWidth 3))) }

def rowV (f : Fields) : Option Row :=
  match f.opc.toNat with
  | 0x000 => some (rowV3 f .vadd)
  | 0x001 => some (rowV3 f .vsub)
  | 0x002 => some (rowV3 f .vmul)
  | 0x003 => some (rowV3 f .vfma)
  | 0x004 => some (rowV3 f .vfms)
  | 0x005 => some (rowV3 f .vfnma)
  | 0x006 => some (rowV3 f .vmin)
  | 0x007 => some (rowV3 f .vmax)
  | 0x008 => some (rowV2 f .vabs)
  | 0x009 => some (rowV2 f .vneg)
  | 0x00A => some (rowV3 f .vscale)
  | 0x00B => some (rowV2 f .vrint)
  | 0x00C => some (rowV3 f .vadds)
  | 0x00D => some (rowV3 f .vsubs)
  | 0x00E => some (rowV3 f .vmullo)
  | 0x00F => some (rowV3 f .vmulhi)
  | 0x010 => some (rowVLogic f .vand)
  | 0x011 => some (rowVLogic f .vor)
  | 0x012 => some (rowVLogic f .vxor)
  | 0x013 => some (rowVLogic f .vandn)
  | 0x014 => some (rowVMove f .vnot)
  | 0x015 => some (rowVShift f .vshl)
  | 0x016 => some (rowVShift f .vshr)
  | 0x017 => some (rowVShift f .vsar)
  | 0x018 => some (rowVMove f .vmov)
  | 0x019 => some { ud := mV, us1 := mSrc f.h1 f.s1, um := 0xF, hold := 2, ins := f.ty.map (.vbcst f.g · f.d f.a) }
  | 0x01A => some { ud := mV, us1 := mV, us2 := mV, um := 0xFFFF
                    ins := f.ty.map (.vli f.g · f.d (f.s2 ++ f.s1 ++ (f.mod.extractLsb' 4 12 : BitVec 12))) }
  | 0x01B => some { ud := mV, us1 := mSrc f.h1 f.s1, um := 0xF, hold := 2, ins := f.ty.map (.viota f.g · f.d f.a) }
  | 0x01C => some { ud := mV, us1 := mV, us2 := mV, um := 0x70, hold := 3
                    ins := some (.vsel f.g f.d (f.mod.extractLsb' 4 3) f.va f.vb) }
  | 0x01D => some { ud := mP, us1 := mV, us2 := mV, um := 0xFF, hold := 3, pf := pfV f.d
                    ins := do
                      let ty ← f.ty
                      let cc ← VCond.ofCode (f.mod.extractLsb' 4 4)
                      some (.vcmp f.g cc ty (f.d.setWidth 4) f.va f.vb) }
  | 0x01E => some { ud := mP, us1 := mV, um := 0x1FF0, hold := 2, pf := pfV f.d
                    ins := some (.vclass f.g (f.d.setWidth 4) f.va (f.mod.extractLsb' 4 9)) }
  | 0x01F => some { ud := mP, us1 := mSrc f.h1 f.s1, hold := 2, pf := pfV f.d, ins := some (.vpset f.g (f.d.setWidth 4) f.a) }
  | 0x020 => some (rowVPred f .vpand)
  | 0x021 => some (rowVPred f .vpor)
  | 0x022 => some (rowVPred f .vpxor)
  | 0x023 => some { ud := mP, us1 := mP, pf := pfV f.d && pfV f.s1, ins := some (.vpnot f.g (f.d.setWidth 4) (f.s1.setWidth 4)) }
  | 0x030 => some (rowCvt f)
  | 0x031 => some (rowVSpec f .vrcp)
  | 0x032 => some (rowVSpec f .vrsq)
  | 0x033 => some (rowVSpec f .vexp2)
  | 0x038 => some (rowVRed f (fun ty g d a => .vsum g ty d a) 0x0F)
  | 0x039 => some (rowVRed f (fun ty g d a => .vrmax g ty (f.mod.getLsbD 4) d a) 0x1F)
  | 0x03A => some (rowVRed f (fun ty g d a => .vrmin g ty (f.mod.getLsbD 4) d a) 0x1F)
  | 0x040 => some { us1 := mV, um := 0x70, ins := some (.defer f.g f.s1 (f.mod.extractLsb' 4 3)) }
  | 0x041 => some { ud := mV, us2 := mP, um := 0xF0, pf := pfV f.s2
                    ins := some (.drq f.g f.d (f.mod.extractLsb' 4 3) (f.mod.getLsbD 7) (f.s2.setWidth 4)) }
  | _ => none

/-! X slot (09 R191 to R197). -/

/-- The lane number of XROT and XBCST: SR is MOD[10], N is MOD[9:4] (09 R194). DEDUCED (log 109): with SR = 1 N is an unused field, and not zero
it raises RSVDFIELD (Table 20.3). -/
def rowXLane (f : Fields) (mk : Guard → VReg → VSrc → LaneNo → Instr) : Row :=
  if f.mod.getLsbD 10 then
    { ud := mV, us1 := mV, us2 := mSrc f.h2 f.s2, um := 0x0400, hold := 3, ins := some (mk f.g f.d f.va (.reg f.b)) }
  else { ud := mV, us1 := mV, um := 0x03F0, hold := 2, ins := some (mk f.g f.d f.va (.imm (f.mod.extractLsb' 4 6))) }

def rowXpose (f : Fields) : Row :=
  let clr := f.mod.getLsbD 6
  match (f.mod.extractLsb' 4 2 : BitVec 2).toNat with
  | 1 => { us1 := mV, um := 0xFF70, hold := 2, ins := some (.xpose f.g f.st clr (.w f.va)) }
  | 2 => { ud := mV, um := 0xFF70, ins := some (.xpose f.g f.st clr (.r f.d)) }
  | 3 => { ud := mV, us1 := mV, um := 0xFF70, hold := 2, ins := some (.xpose f.g f.st clr (.wr f.d f.va)) }
  | _ => { ins := none }

def rowX (f : Fields) : Option Row :=
  match f.opc.toNat with
  | 0x000 => some (rowXpose f)
  | 0x001 => some { ud := mV, us1 := mV, us2 := mP, um := 0x7F, pf := pfV f.s2
                    ins := f.ty.map (.cxs f.g · f.d f.s1 (f.s2.setWidth 4) (f.mod.extractLsb' 4 3)) }
  | 0x002 => some { ud := mV, us1 := mV, us2 := mV, hold := 3, ins := some (.xperm f.g f.d f.va f.vb) }
  | 0x003 => some (rowXLane f .xrot)
  | 0x004 => some { ud := mV, us1 := mV, us2 := mV, um := 0x3F, hold := 3
                    ins := f.ty.map (.xshuf f.g (Shuffle.ofCode (f.mod.extractLsb' 4 2)) · f.d f.va f.vb) }
  | 0x005 => some (rowXLane f .xbcst)
  | 0x006 => some { ud := mV, us1 := mV, um := 0xFF7F, hold := 2
                    ins := f.ty.map (.xpack f.g f.st · f.d f.va (f.mod.extractLsb' 4 3)) }
  | 0x007 => some { ud := mV, us1 := mV, um := 0xFFFF, hold := 2
                    ins := f.ty.map (.xunpk f.g f.st · f.d f.va (f.mod.extractLsb' 4 3) (f.mod.getLsbD 7)) }
  | 0x008 => some { ud := mV, us1 := mV, us2 := mP, hold := 2, pf := pfV f.s2
                    ins := some (.xcmpr f.g f.d f.va (f.s2.setWidth 4)) }
  | _ => none

/-! M slot (10 R205 to R208). -/

/-- An operand of MMA: a register of format code `fc`, or a memory pair when `m` is set (10 Table 10.4). -/
def mOperand (m : Bool) (fc : BitVec 5) (s : BitVec 10) : Option MOperand :=
  if m then some (.mem (s.setWidth 6)) else (Fmt.ofCode (fc.setWidth 6)).map (.reg · s)

def rowMma (f : Fields) (mk : Guard → Sticky → TReg → MOperand → MOperand → Instr) : Row :=
  let ma := f.mod.getLsbD 7
  let mb := f.mod.getLsbD 6
  { ud := if mb then mT else 0x0FF, us1 := if ma then mS else mV, us2 := if mb then mS else mV
    um := if ma then 0xFFC0 else 0xFFDF
    ins := do
      let a ← mOperand ma (f.mod.extractLsb' 0 5) f.s1
      let b ← mOperand mb (f.d.extractLsb' 3 5) f.s2
      some (mk f.g f.st (f.d.setWidth 3) a b) }

def rowM (f : Fields) : Option Row :=
  match f.opc.toNat with
  | 0x000 => some (rowMma f .mma)
  | 0x001 => some (rowMma f .mmaz)
  | 0x002 => some (if f.mod.getLsbD 7
      then { ud := mT, us1 := mS, um := 0xFF80, ins := some (.tld f.g f.st (f.d.setWidth 3) (.mem (f.s1.setWidth 6))) }
      else { ud := mT, us1 := mV, um := 0xFF80, ins := some (.tld f.g f.st (f.d.setWidth 3) (.reg f.s1)) })
  | 0x003 => some (if f.mod.getLsbD 7
      then { ud := mS, us1 := mT, um := 0xFF80, ins := some (.tstMemory f.g f.st (f.d.setWidth 6) (f.s1.setWidth 3)) }
      else { ud := mV, us1 := mT, um := 0xFF80, ins := some (.tstRegister f.g f.st f.d (f.s1.setWidth 3)) })
  | 0x004 => some { ud := mT, ins := some (.tzero f.g (f.d.setWidth 3)) }
  | 0x005 => some { ud := mT, us1 := mV, um := 0x1F
                    ins := if f.mod.extractLsb' 0 4 == (0 : BitVec 4)
                           then some (.tscale f.g (f.mod.getLsbD 4) (f.d.setWidth 3) f.s1) else none }
  | 0x006 => some { ud := mT, us1 := mT, um := 0x0F, ins := f.ty.map (.tadd f.g · (f.d.setWidth 3) (f.s1.setWidth 3)) }
  | _ => none

/-! L slot (11 R211 to R218). -/

/-- SZ of the near forms, MOD[7:5]; of the generic forms, S2[8:6]. -/
def szL (f : Fields) : Option Size := Size.ofCode (f.mod.extractLsb' 5 3)
def szG (f : Fields) : Option Size := Size.ofCode (f.s2.extractLsb' 6 3)

def rowLd (f : Fields) (mk : Guard → Sticky → Size → Bool → XReg → SSrc → BitVec 10 → Instr) : Row :=
  { ud := mXd (szL f), us1 := mSrc f.h1 f.s1, us2 := mV, um := 0xFFF0, hold := 2
    ins := (szL f).map fun sz => mk f.g f.st sz (f.mod.getLsbD 4) (XReg.of sz f.d) f.a f.s2 }
def rowSt (f : Fields) (mk : Guard → Sticky → Size → XSrc → SSrc → BitVec 10 → Instr) : Row :=
  { ud := mX (szL f) f.hd f.d, us1 := mSrc f.h1 f.s1, us2 := mV, um := 0xFFE0, hold := 6
    ins := (szL f).map fun sz => mk f.g f.st sz (XSrc.of sz f.hd f.d) f.a f.s2 }
def rowLdg (f : Fields) (mk : Guard → Size → Bool → XReg → SSrc → SReg → BitVec 10 → BitVec 6 → Instr) : Row :=
  { ud := mXd (szG f), us1 := mSrc f.h1 f.s1, us2 := mV, um := 0xFFFF, hold := 2
    ins := (szG f).map fun sz => mk f.g sz (f.s2.getLsbD 9) (XReg.of sz f.d) f.a (f.s2.setWidth 6)
      (f.mod.extractLsb' 6 10) (f.mod.extractLsb' 0 6) }

def rowL (f : Fields) : Option Row :=
  match f.opc.toNat with
  | 0x000 => some (rowLd f .ld)
  | 0x001 => some (rowSt f .st)
  | 0x002 => some (rowLd f .ldv)
  | 0x003 => some (rowSt f .stv)
  | 0x004 => some (rowLdg f .ldg)
  | 0x005 => some { ud := mX (szG f) f.hd f.d, us1 := mSrc f.h1 f.s1, us2 := 0x1FF, um := 0x18, hold := 6
                    ins := do
                      let sz ← szG f
                      let hk ← HostKind.ofCode (f.mod.extractLsb' 3 2)
                      some (.stg f.g sz hk (XSrc.of sz f.hd f.d) f.a (f.s2.setWidth 6)) }
  | 0x006 => some { ud := mV, us1 := mSrc f.h1 f.s1, us2 := 0x1FF, um := 0xFF, hold := 6, pf := PReg.srcS (f.mod.extractLsb' 4 4)
                    ins := f.ty.map (.stNb f.g · (VSrc.of f.hd f.d) f.a (f.s2.setWidth 6) (f.s2.extractLsb' 6 3)
                      (f.mod.extractLsb' 4 4)) }
  | 0x007 => some { ud := mV, us1 := mSrc f.h1 f.s1, us2 := mV, um := 0xFFFF, hold := 3
                    ins := some (.gath f.g f.d f.a f.vb (f.mod.extractLsb' 6 10) (f.mod.extractLsb' 0 6)) }
  | 0x008 => some { ud := mV, us1 := mSrc f.h1 f.s1, us2 := mV, um := 0xF, hold := 7, pf := PReg.srcS (f.mod.extractLsb' 0 4)
                    ins := some (.scat f.g (VSrc.of f.hd f.d) f.a f.vb (f.mod.extractLsb' 0 4)) }
  | 0x009 => some (rowLdg f .fetch)
  | 0x00A => some { ud := mXd (szL f), us1 := mSrc f.h1 f.s1, us2 := mV, um := 0x00F0, hold := 2
                    ins := (szL f).map fun sz => .ldc f.g sz (f.mod.getLsbD 4) (XReg.of sz f.d) f.a f.s2 }
  | _ => none

/-! C slot (11 R219 to R229). -/

def Fields.ch (f : Fields) : ChReg := f.mod.extractLsb' 0 6
def rowCh (f : Fields) (mk : Guard → ChReg → BitVec 8 → Instr) : Row :=
  { um := 0x3FFF, ins := some (mk f.g f.ch (f.mod.extractLsb' 6 8)) }

/-- FADD and FSET: local when S2 is s0, remote otherwise; I is MOD[14] (11 R226). -/
def rowFlag (f : Fields) (loc : Guard → FReg → FOperand → Instr) (rem : Guard → SReg → FOperand → Instr) : Row :=
  let i := f.mod.getLsbD 14
  let v : FOperand := if i then .imm (f.mod.extractLsb' 0 12) else .reg f.a
  { ud := if f.s2 == 0 then mF else 0, us1 := if i then 0 else mSrc f.h1 f.s1, us2 := mS
    um := if i then 0x4FFF else 0, hold := if i then 0 else 2
    ins := some (if f.s2 == 0 then loc f.g (f.d.setWidth 8) v else rem f.g (f.s2.setWidth 6) v) }

def rowC (f : Fields) : Option Row :=
  match f.opc.toNat with
  | 0x000 => some (rowCh f .wfree)
  | 0x001 => some { us1 := mV, us2 := 7, um := 0xFFFF, hold := 2
                    ins := (Size.ofCode (f.s2.setWidth 3)).map fun sz => .send f.g sz f.ch f.va (f.mod.extractLsb' 6 10) }
  | 0x002 => some (rowCh f .pubw)
  | 0x003 => some (if f.mod.getLsbD 14
      then { ud := mS, us1 := mV, um := 0x7FFF, ins := some (.recv f.g f.ch f.sd (f.mod.extractLsb' 6 8) (some f.s1)) }
      else { ud := mS, um := 0x7FFF, ins := some (.recv f.g f.ch f.sd (f.mod.extractLsb' 6 8) none) })
  | 0x004 => some { ud := mV, us1 := mV, um := 0xFFFF, hold := 2, ins := some (.radd f.g f.ch f.d f.va (f.mod.extractLsb' 6 10)) }
  | 0x005 => some (rowCh f .advr)
  | 0x006 => some { ud := mX (szL f) f.hd f.d, us1 := mSrc f.h1 f.s1, um := 0xFFE0, hold := 6
                    ins := (szL f).map fun sz => .put f.g f.st sz (XSrc.of sz f.hd f.d) f.a }
  | 0x007 => some { ud := mX (szL f) f.hd f.d, us1 := mSrc f.h1 f.s1, us2 := mF, um := 0xFFE0, hold := 6
                    ins := (szL f).map fun sz => .putf f.g sz (XSrc.of sz f.hd f.d) f.a (f.s2.setWidth 8)
                      (f.mod.extractLsb' 8 5) (f.mod.extractLsb' 13 3) }
  | 0x008 => some (rowFlag f .fadd .faddRemote)
  | 0x009 => some (if f.s2 == 0
      then { ud := mS, us1 := mV, us2 := mS, um := 0xFF
             ins := some (.faddb f.g f.sd (f.mod.setWidth 8) (f.s1.extractLsb' 6 4) (f.s1.setWidth 6)) }
      else { ud := mS, us1 := mV, us2 := mS, um := 0xFFFF
             ins := some (.faddbRemote f.g f.sd (f.s2.setWidth 6) (f.s1.extractLsb' 6 4) (f.s1.setWidth 6)
               (f.mod.extractLsb' 6 10) (f.mod.extractLsb' 0 6)) })
  | 0x00A => some (rowFlag f .fset .fsetRemote)
  | 0x00B => some (if f.mod.getLsbD 11
      then { ud := mF, us2 := mSrc f.h2 f.s2, um := 0xFFFF, hold := 1
             ins := some (.fsetM f.g (f.d.setWidth 8) (.imm (f.mod.extractLsb' 0 11)) f.b (f.mod.extractLsb' 12 4)) }
      else { ud := mF, us1 := mSrc f.h1 f.s1, us2 := mSrc f.h2 f.s2, um := 0xF800, hold := 3
             ins := some (.fsetM f.g (f.d.setWidth 8) (.reg f.a) f.b (f.mod.extractLsb' 12 4)) })
  | 0x00C => some { ud := mF, us2 := mS, um := 0xFFFF, ins := some (.seqGo f.g f.mod (f.d.setWidth 8) (f.s2.setWidth 6)) }
  | 0x00D => some { ud := mS, us1 := mS, ins := some (.chset f.g (f.d.setWidth 6) (f.s1.setWidth 6)) }
  | _ => none

/-! B slot (08 R161 to R172, 14 R286). -/

/-- WAIT and WAITANY: FC is MOD[2:0], I is MOD[3], IMM is MOD[15:4] (08 R163). -/
def rowWait (f : Fields) (us2 : BitVec 10) (mk : FCond → FOperand → Instr) : Row :=
  let fc := FCond.ofCode (f.mod.extractLsb' 0 3)
  if f.mod.getLsbD 3 then { ud := mF, us2 := us2, um := 0xFFFF, ins := fc.map (mk · (.imm (f.mod.extractLsb' 4 12))) }
  else { ud := mF, us1 := mSrc f.h1 f.s1, us2 := us2, um := 0x000F, hold := 2, ins := fc.map (mk · (.reg f.a)) }

/-- The scope code of MOD[3:0]: a FENCE takes scopes and queues (08 R165). -/
def fenceOf (g : Guard) (c : BitVec 4) : Option Instr :=
  match Scope.ofCode c with
  | some s => some (.fence g s)
  | none => (Queue.ofCode c).map (.fenceQueue g ·)

/-- TRAP, the seal requests among its codes (08 R172, 14 R286). -/
def trapOf (g : Guard) (code : BitVec 8) (a : SSrc) : Instr :=
  match code.toNat with
  | 0xC0 => .sealOpen g a
  | 0xC1 => .sealAdd g a
  | 0xC2 => .sealClose g a
  | _ => .trap g code a

def rowB (f : Fields) : Option Row :=
  match f.opc.toNat with
  | 0x000 => some { um := 0xFFFF, ins := some (.br f.g f.mod) }
  | 0x001 => some { us1 := mSrc f.h1 f.s1, hold := 2, ins := some (.bri f.g f.a) }
  | 0x002 => some { um := 0xFFFF, ins := some (.call f.g f.mod) }
  | 0x003 => some { us1 := mSrc f.h1 f.s1, hold := 2, ins := some (.calli f.g f.a) }
  | 0x004 => some { ins := some (.ret f.g) }
  | 0x005 => some (if f.d.getLsbD 0 then { ud := 1, us1 := 3, um := 0xFFFF, ins := some (.loopR f.g f.mod (f.s1.setWidth 2)) }
                   else { ud := 1, um := 0xFFFF, ins := some (.loop f.g f.mod) })
  | 0x006 => some (rowWait f 0 (fun fc v => .wait f.g fc (f.d.setWidth 8) v))
  | 0x007 => some (rowWait f 7 (fun fc v => .waitany f.g fc (f.d.setWidth 8) (f.s2.setWidth 3) v))
  | 0x008 => some { um := 0xFFFF, ins := some (.delay f.g f.mod) }
  | 0x009 => some { um := 0xF, ins := fenceOf f.g (f.mod.extractLsb' 0 4) }
  | 0x00A => some { um := 0xF, ins := (Scope.ofCode (f.mod.extractLsb' 0 4)).map (.drain f.g ·) }
  | 0x00B => some { um := 0xF, ins := some (.qfence f.g (f.mod.extractLsb' 0 4)) }
  | 0x00C => some { um := 0xF, ins := some (.rgnBegin f.g (f.mod.extractLsb' 0 4)) }
  | 0x00D => some { us1 := mSrc f.h1 f.s1, us2 := mSrc f.h2 f.s2, hold := 3, ins := some (.rgnKeep f.g f.a f.b) }
  | 0x00E => some { ins := some (.rgnEnd f.g) }
  | 0x00F => some (if f.mod.getLsbD 0
      then { ud := mF, us1 := mSrc f.h1 f.s1, um := 1, hold := 2, ins := some (.launch f.g f.a (some (f.d.setWidth 8))) }
      else { us1 := mSrc f.h1 f.s1, um := 1, hold := 2, ins := some (.launch f.g f.a none) })
  | 0x010 => some { ins := some (.trigger f.g) }
  | 0x011 => some { ins := some (.tend f.g) }
  | 0x012 => some { ins := some (.yield f.g) }
  | 0x013 => some { us1 := mSrc f.h1 f.s1, um := 0xFF, hold := 2, ins := some (trapOf f.g (f.mod.extractLsb' 0 8) f.a) }
  | 0x014 => some { um := 0xFF, ins := some (.bkpt f.g (f.mod.extractLsb' 0 8)) }
  | _ => none

/-- The opcode maps by slot index: A0, A1, V, X, M, L, C, B (07 Tables 7.6 to 7.12). -/
def rowOf (slot : Nat) (f : Fields) : Option Row :=
  match slot with
  | 0 | 1 => rowA f
  | 2 => rowV f
  | 3 => rowX f
  | 4 => rowM f
  | 5 => rowL f
  | 6 => rowC f
  | 7 => rowB f
  | _ => none

/-- The guard lies in the slot's cluster: p0 and p8 to p15 in A, L, C and B, p0 to p7 in V, X and M (03 R51). -/
def guardOk (slot : Nat) (g : Guard) : Bool :=
  match slot with
  | 2 | 3 | 4 => g.vectorOk
  | _ => g.scalarOk

/-- An LIH stands in A1 beside an A0 LI with the same D (07 R142); `a0` is the bundle's A0 word. -/
def lihOk (slot : Nat) (a0 : Option Word) (f : Fields) : Bool :=
  slot == 1 && (match a0 with
    | some w => (Fields.ofWord w).opc == 0x016 && (Fields.ofWord w).d == f.d
    | none => false)

/-- A bit outside those the row names is set (20 Table 20.3, row 2). -/
def Row.stray (r : Row) (f : Fields) : Bool :=
  f.d &&& ~~~r.ud != 0 || f.s1 &&& ~~~r.us1 != 0 || f.s2 &&& ~~~r.us2 != 0 || f.mod &&& ~~~r.um != 0

/-- Table 20.3 on the fields of a word with a defined opcode, up to the checks that need a latch. -/
def checkRow (slot : Nat) (a0 : Option Word) (f : Fields) (r : Row) : Except EncFail Instr :=
  if !(guardOk slot f.g && r.pf) then .error .predCluster
  else if r.stray f || (slot ≤ 1 && f.opc == 0x017 && !lihOk slot a0 f) then .error .rsvdField
  else match r.ins with
    | none => .error .rsvdField
    | some i => if !wellFormed i then .error .rsvdField
                else if f.h &&& ~~~r.hold != 0 then .error .hold else .ok i

/-- The decoder of slot words: total; an opcode of no row is UNDEFOPC, which is an instruction of its own (20 R362), and a word that
breaks a check is refused by the code it raises. -/
def decodeSlot (slot : Nat) (a0 : Option Word) (w : Word) : Except EncFail Instr :=
  let f := Fields.ofWord w
  match rowOf slot f with
  | none => .ok (.undefopc (BitVec.ofNat 3 slot) w)
  | some r => checkRow slot a0 f r

/-! Bundle headers (07 R137). -/

/-- The fields of a header. -/
structure Header where
  present : BitVec 8
  sticky  : BitVec 8
  rep     : BitVec 8
  repreg  : Bool
  holdclr : Bool
  rsvd    : BitVec 6
  deriving DecidableEq, Repr

def Header.ofWord (h : W32) : Header :=
  { present := h.extractLsb' 0 8, sticky := h.extractLsb' 8 8, rep := h.extractLsb' 16 8, repreg := h.getLsbD 24
    holdclr := h.getLsbD 25, rsvd := h.extractLsb' 26 6 }

/-- Number of slot words of a PRESENT field. -/
def wordsOf (present : BitVec 8) : Nat := ((List.range 8).filter (fun k => present.getLsbD k)).length

/-- A bundle with n words is 4 + 8n bytes long (07 R136). -/
def Header.bytes (h : Header) : Nat := 4 + 8 * wordsOf h.present

/-- The reserved, sticky and repeat conditions of Table 20.1 that the header alone fixes. -/
def Header.fieldsOk (h : Header) : Bool :=
  h.rsvd == 0 && h.sticky &&& h.present == 0 && h.sticky &&& 0x83 == 0 && (!h.repreg || h.rep == 0)

/-! Copy-sequencer words (07 R150, Table 7.13). -/

def decodeCp (w : W32) : Except EncFail Instr :=
  let ca : BitVec 3 := w.extractLsb' 25 3
  let cb : BitVec 3 := w.extractLsb' 22 3
  let rows : BitVec 10 := (w.extractLsb' 16 3 : BitVec 3) ++ (w.extractLsb' 9 7 : BitVec 7)
  match (w.extractLsb' 28 4 : BitVec 4).toNat with
  | 1 => if w.extractLsb' 16 5 != (0 : BitVec 5) then .error .rsvdField
         else .ok (.cpMove ca cb (w.getLsbD 21) (w.extractLsb' 0 16))
  | 2 => .ok (.cpStr ca cb (w.extractLsb' 19 3) rows (w.extractLsb' 0 9))
  | 3 => .ok (.cpPut ca cb (w.extractLsb' 19 3) rows (w.extractLsb' 0 9))
  | 4 => .ok (.cpLoop (w.extractLsb' 26 2) (w.extractLsb' 16 10) (w.extractLsb' 0 16))
  | 5 => .ok (.cpAdd ca (w.extractLsb' 0 25))
  | 6 => .ok (.cpFlag ca (w.getLsbD 24) (w.extractLsb' 8 16) (w.extractLsb' 0 8))
  | 7 => if w.extractLsb' 24 4 != (0 : BitVec 4) then .error .rsvdField
         else .ok (.cpWait (w.extractLsb' 8 16) (w.extractLsb' 0 8))
  | 8 => if w.extractLsb' 16 7 != (0 : BitVec 7) then .error .rsvdField
         else .ok (.cpChk ca (ChkClass.ofCode (w.extractLsb' 23 2)) (w.extractLsb' 0 16))
  | 15 => if w.extractLsb' 0 28 != (0 : BitVec 28) then .error .rsvdField else .ok .cpEnd
  | _ => .ok .cpUndefopc

/-! The encoder, from the same tables. -/

/-- H from its three bits (07 Table 7.2). -/
def hBits (d s1 s2 : Bool) : BitVec 3 := BitVec.ofBool d ++ BitVec.ofBool s1 ++ BitVec.ofBool s2

/-- K, STEP and the low byte of MOD (07 R141). -/
def stMod (st : Sticky) (low : BitVec 8) : BitVec 16 := BitVec.ofBool st.k ++ st.step ++ low
def tyMod (st : Sticky) (hi : BitVec 4) (ty : Fmt) : BitVec 16 := stMod st (hi ++ ty.type)
def lowMod (low : BitVec 8) : BitVec 16 := (0 : BitVec 8) ++ low
def bitMod (b : Bool) : BitVec 16 := (0 : BitVec 15) ++ BitVec.ofBool b
def padP (p : PReg) : BitVec 10 := p.setWidth 10

def encA3 (opc : BitVec 10) (g : Guard) (d : SReg) (a b : SSrc) (mod : BitVec 16 := 0) : Fields :=
  { opc := opc, pred := g.pred, neg := g.neg, d := d.setWidth 10, s1 := a.field, s2 := b.field, h := hBits false a.hbit b.hbit, mod := mod }
def encA2 (opc : BitVec 10) (g : Guard) (d : BitVec 10) (a : SSrc) (mod : BitVec 16 := 0) : Fields :=
  { opc := opc, pred := g.pred, neg := g.neg, d := d, s1 := a.field, h := hBits false a.hbit false, mod := mod }
def encAShift (opc : BitVec 10) (g : Guard) (d : SReg) (a : SSrc) (k : SCount) : Fields :=
  match k with
  | .imm n => encA2 opc g (d.setWidth 10) a ((0 : BitVec 9) ++ BitVec.ofBool true ++ n)
  | .reg b => encA3 opc g d a b
def encPred (opc : BitVec 10) (g : Guard) (d a b : PReg) (mod : BitVec 16) : Fields :=
  { opc := opc, pred := g.pred, neg := g.neg, d := padP d, s1 := padP a, s2 := padP b, mod := mod }
def encLi (opc : BitVec 10) (g : Guard) (d : SReg) (imm : W32) : Fields :=
  { opc := opc, pred := g.pred, neg := g.neg, d := d.setWidth 10, s1 := imm.extractLsb' 16 10
    s2 := (imm.extractLsb' 26 6 : BitVec 6).setWidth 10, mod := imm.extractLsb' 0 16 }
def encV3 (opc : BitVec 10) (g : Guard) (d : VReg) (a b : VSrc) (mod : BitVec 16) : Fields :=
  { opc := opc, pred := g.pred, neg := g.neg, d := d, s1 := a.field, s2 := b.field, h := hBits false a.hbit b.hbit, mod := mod }
def encV2 (opc : BitVec 10) (g : Guard) (d : BitVec 10) (a : VSrc) (mod : BitVec 16) : Fields :=
  { opc := opc, pred := g.pred, neg := g.neg, d := d, s1 := a.field, h := hBits false a.hbit false, mod := mod }
def encVShift (opc : BitVec 10) (g : Guard) (st : Sticky) (ty : Fmt) (d : VReg) (a : VSrc) (k : VCount) : Fields :=
  match k with
  | .imm n => { encV2 opc g d a (tyMod st 1 ty) with s2 := n.setWidth 10 }
  | .reg b => encV3 opc g d a b (tyMod st 0 ty)
def predMod (na nb : Bool) : BitVec 16 := (0 : BitVec 10) ++ BitVec.ofBool nb ++ BitVec.ofBool na ++ (0 : BitVec 4)
def encLane (opc : BitVec 10) (g : Guard) (d : VReg) (a : VSrc) (n : LaneNo) : Fields :=
  match n with
  | .imm k => encV2 opc g d a ((0 : BitVec 6) ++ k ++ (0 : BitVec 4))
  | .reg b => { encV2 opc g d a 0x0400 with s2 := b.field, h := hBits false a.hbit b.hbit }
def MOperand.field : MOperand → BitVec 10
  | .reg _ v => v | .mem s => s.setWidth 10
def MOperand.isMem : MOperand → Bool
  | .reg _ _ => false | .mem _ => true
def MOperand.fcode : MOperand → BitVec 5
  | .reg f _ => f.code5 | .mem _ => 0
def encMma (opc : BitVec 10) (g : Guard) (st : Sticky) (d : TReg) (a b : MOperand) : Fields :=
  { opc := opc, pred := g.pred, neg := g.neg, d := (0 : BitVec 2) ++ b.fcode ++ d, s1 := a.field, s2 := b.field
    mod := stMod st (BitVec.ofBool a.isMem ++ BitVec.ofBool b.isMem ++ (0 : BitVec 1) ++ a.fcode) }
def encTile (opc : BitVec 10) (g : Guard) (d s1 : BitVec 10) (mod : BitVec 16) : Fields :=
  { opc := opc, pred := g.pred, neg := g.neg, d := d, s1 := s1, mod := mod }
def encLd (opc : BitVec 10) (g : Guard) (st : Sticky) (sz : Size) (sx : Bool) (d : XReg) (a : SSrc) (disp : BitVec 10) : Fields :=
  { opc := opc, pred := g.pred, neg := g.neg, d := d.field, s1 := a.field, s2 := disp, h := hBits false a.hbit false
    mod := stMod st (sz.code ++ BitVec.ofBool sx ++ (0 : BitVec 4)) }
def encSt (opc : BitVec 10) (g : Guard) (st : Sticky) (sz : Size) (x : XSrc) (a : SSrc) (disp : BitVec 10) : Fields :=
  { opc := opc, pred := g.pred, neg := g.neg, d := x.field, s1 := a.field, s2 := disp, h := hBits x.hbit a.hbit false
    mod := stMod st (sz.code ++ (0 : BitVec 5)) }
def encLdg (opc : BitVec 10) (g : Guard) (sz : Size) (sx : Bool) (d : XReg) (a : SSrc) (x : SReg) (t : BitVec 10) (e : BitVec 6) : Fields :=
  { opc := opc, pred := g.pred, neg := g.neg, d := d.field, s1 := a.field, s2 := BitVec.ofBool sx ++ sz.code ++ x
    h := hBits false a.hbit false, mod := t ++ e }
def encCh (opc : BitVec 10) (g : Guard) (ch : ChReg) (nM1 : BitVec 8) : Fields :=
  { opc := opc, pred := g.pred, neg := g.neg, mod := (0 : BitVec 2) ++ nM1 ++ ch }
def encFlag (opc : BitVec 10) (g : Guard) (d s2 : BitVec 10) (v : FOperand) : Fields :=
  match v with
  | .imm n => { opc := opc, pred := g.pred, neg := g.neg, d := d, s2 := s2, mod := (4 : BitVec 4) ++ n }
  | .reg a => { opc := opc, pred := g.pred, neg := g.neg, d := d, s1 := a.field, s2 := s2, h := hBits false a.hbit false }
def encB (opc : BitVec 10) (g : Guard) (mod : BitVec 16 := 0) : Fields :=
  { opc := opc, pred := g.pred, neg := g.neg, mod := mod }
def encB1 (opc : BitVec 10) (g : Guard) (a : SSrc) (mod : BitVec 16 := 0) : Fields :=
  { opc := opc, pred := g.pred, neg := g.neg, s1 := a.field, h := hBits false a.hbit false, mod := mod }
def encWait (opc : BitVec 10) (g : Guard) (fc : FCond) (f : FReg) (v : FOperand) (s2 : BitVec 10) : Fields :=
  match v with
  | .imm n => { opc := opc, pred := g.pred, neg := g.neg, d := f.setWidth 10, s2 := s2, mod := n ++ BitVec.ofBool true ++ fc.code }
  | .reg a => { opc := opc, pred := g.pred, neg := g.neg, d := f.setWidth 10, s1 := a.field, s2 := s2, h := hBits false a.hbit false
                mod := (0 : BitVec 13) ++ fc.code }

/-- The slot an instruction's word stands in: 0 stands for A0 and A1, but for LIH, which stands in A1 only. -/
def slotOf : Instr → Option Nat
  | .add .. | .sub .. | .addi .. | .mul .. | .mulh .. | .and .. | .or .. | .xor .. | .andn .. | .shl .. | .shr .. | .sar ..
  | .min .. | .max .. | .minu .. | .maxu .. | .sel .. | .clz .. | .popc .. | .extr .. | .lea .. | .mov .. | .li .. | .cmp ..
  | .cmpi .. | .pand .. | .por .. | .pxor .. | .pmov .. | .srrd .. | .srwr .. | .gspace .. | .gcast .. | .reps .. => some 0
  | .lih .. => some 1
  | .vadd .. | .vsub .. | .vmul .. | .vfma .. | .vfms .. | .vfnma .. | .vmin .. | .vmax .. | .vabs .. | .vneg ..
  | .vscale .. | .vrint .. | .vadds .. | .vsubs .. | .vmullo .. | .vmulhi .. | .vand .. | .vor .. | .vxor .. | .vandn ..
  | .vnot .. | .vshl .. | .vshr .. | .vsar .. | .vmov .. | .vbcst .. | .vli .. | .viota .. | .vsel .. | .vcmp ..
  | .vclass .. | .vpset .. | .vpand .. | .vpor .. | .vpxor .. | .vpnot .. | .vcvt .. | .vrcp .. | .vrsq .. | .vexp2 ..
  | .vsum .. | .vrmax .. | .vrmin .. | .defer .. | .drq .. => some 2
  | .xpose .. | .cxs .. | .xperm .. | .xrot .. | .xshuf .. | .xbcst .. | .xpack .. | .xunpk .. | .xcmpr .. => some 3
  | .mma .. | .mmaz .. | .tld .. | .tstMemory .. | .tstRegister .. | .tzero .. | .tscale .. | .tadd .. => some 4
  | .ld .. | .st .. | .ldv .. | .stv .. | .ldg .. | .stg .. | .stNb .. | .gath .. | .scat .. | .fetch .. | .ldc .. => some 5
  | .wfree .. | .send .. | .pubw .. | .recv .. | .radd .. | .advr .. | .put .. | .putf .. | .fadd .. | .faddRemote ..
  | .faddb .. | .faddbRemote .. | .fset .. | .fsetRemote .. | .fsetM .. | .seqGo .. | .chset .. => some 6
  | .br .. | .bri .. | .call .. | .calli .. | .ret .. | .loop .. | .loopR .. | .wait .. | .waitany .. | .delay ..
  | .fence .. | .fenceQueue .. | .drain .. | .qfence .. | .rgnBegin .. | .rgnKeep .. | .rgnEnd .. | .launch .. | .trigger ..
  | .tend .. | .yield .. | .trap .. | .sealOpen .. | .sealAdd .. | .sealClose .. | .bkpt .. => some 7
  | _ => none

/-- The fields of an A-slot instruction's word. -/
def encodeA : Instr → Fields
  | .add g d a b => encA3 0x000 g d a b
  | .sub g d a b => encA3 0x001 g d a b
  | .addi g d a imm => encA2 0x002 g (d.setWidth 10) a imm
  | .mul g d a b => encA3 0x003 g d a b
  | .mulh g d a b u => encA3 0x004 g d a b (bitMod u)
  | .and g d a b => encA3 0x005 g d a b
  | .or g d a b => encA3 0x006 g d a b
  | .xor g d a b => encA3 0x007 g d a b
  | .andn g d a b => encA3 0x008 g d a b
  | .shl g d a k => encAShift 0x009 g d a k
  | .shr g d a k => encAShift 0x00A g d a k
  | .sar g d a k => encAShift 0x00B g d a k
  | .min g d a b => encA3 0x00C g d a b
  | .max g d a b => encA3 0x00D g d a b
  | .minu g d a b => encA3 0x00E g d a b
  | .maxu g d a b => encA3 0x00F g d a b
  | .sel g d q a b => encA3 0x010 g d a b ((0 : BitVec 12) ++ q)
  | .clz g d a => encA2 0x011 g (d.setWidth 10) a
  | .popc g d a => encA2 0x012 g (d.setWidth 10) a
  | .extr g d a pos lenM1 s => encA2 0x013 g (d.setWidth 10) a ((0 : BitVec 3) ++ BitVec.ofBool s ++ lenM1 ++ pos)
  | .lea g d a b sh disp => encA3 0x014 g d a b (disp ++ sh)
  | .mov g d a => encA2 0x015 g (d.setWidth 10) a
  | .li g d imm => encLi 0x016 g d imm
  | .lih d imm => encLi 0x017 ⟨0, false⟩ d imm
  | .cmp g cc d a b =>
    { opc := 0x018, pred := g.pred, neg := g.neg, d := padP d, s1 := a.field, s2 := b.field, h := hBits false a.hbit b.hbit
      mod := (0 : BitVec 12) ++ cc.code }
  | .cmpi g cc d a imm => encA2 0x019 g (padP d) a (imm ++ cc.code)
  | .pand g d a na b nb => encPred 0x01A g d a b ((0 : BitVec 14) ++ BitVec.ofBool nb ++ BitVec.ofBool na)
  | .por g d a na b nb => encPred 0x01B g d a b ((0 : BitVec 14) ++ BitVec.ofBool nb ++ BitVec.ofBool na)
  | .pxor g d a na b nb => encPred 0x01C g d a b ((0 : BitVec 14) ++ BitVec.ofBool nb ++ BitVec.ofBool na)
  | .pmov g d a na => encPred 0x01D g d a 0 (bitMod na)
  | .srrd g d n => { opc := 0x01E, pred := g.pred, neg := g.neg, d := d.setWidth 10, s1 := n }
  | .srwr g n a => encA2 0x01F g n a
  | .gspace g d a => encA2 0x020 g (d.setWidth 10) a
  | .gcast g t d a m => encA3 0x021 g d a m ((0 : BitVec 12) ++ t.code)
  | .reps g a => encA2 0x022 g 0 a
  | _ => { opc := 0 }

/-- The fields of a V-slot instruction's word. -/
def encodeV : Instr → Fields
  | .vadd g st ty d a b => encV3 0x000 g d a b (tyMod st 0 ty)
  | .vsub g st ty d a b => encV3 0x001 g d a b (tyMod st 0 ty)
  | .vmul g st ty d a b => encV3 0x002 g d a b (tyMod st 0 ty)
  | .vfma g st ty d a b => encV3 0x003 g d a b (tyMod st 0 ty)
  | .vfms g st ty d a b => encV3 0x004 g d a b (tyMod st 0 ty)
  | .vfnma g st ty d a b => encV3 0x005 g d a b (tyMod st 0 ty)
  | .vmin g st ty d a b => encV3 0x006 g d a b (tyMod st 0 ty)
  | .vmax g st ty d a b => encV3 0x007 g d a b (tyMod st 0 ty)
  | .vabs g st ty d a => encV2 0x008 g d a (tyMod st 0 ty)
  | .vneg g st ty d a => encV2 0x009 g d a (tyMod st 0 ty)
  | .vscale g st ty d a b => encV3 0x00A g d a b (tyMod st 0 ty)
  | .vrint g st ty d a => encV2 0x00B g d a (tyMod st 0 ty)
  | .vadds g st ty d a b => encV3 0x00C g d a b (tyMod st 0 ty)
  | .vsubs g st ty d a b => encV3 0x00D g d a b (tyMod st 0 ty)
  | .vmullo g st ty d a b => encV3 0x00E g d a b (tyMod st 0 ty)
  | .vmulhi g st ty d a b => encV3 0x00F g d a b (tyMod st 0 ty)
  | .vand g st d a b => encV3 0x010 g d a b (stMod st 0)
  | .vor g st d a b => encV3 0x011 g d a b (stMod st 0)
  | .vxor g st d a b => encV3 0x012 g d a b (stMod st 0)
  | .vandn g st d a b => encV3 0x013 g d a b (stMod st 0)
  | .vnot g st d a => encV2 0x014 g d a (stMod st 0)
  | .vshl g st ty d a k => encVShift 0x015 g st ty d a k
  | .vshr g st ty d a k => encVShift 0x016 g st ty d a k
  | .vsar g st ty d a k => encVShift 0x017 g st ty d a k
  | .vmov g st d a => encV2 0x018 g d a (stMod st 0)
  | .vbcst g ty d a => encA2 0x019 g d a (lowMod ((0 : BitVec 4) ++ ty.type))
  | .vli g ty d imm =>
    { opc := 0x01A, pred := g.pred, neg := g.neg, d := d, s1 := imm.extractLsb' 12 10, s2 := imm.extractLsb' 22 10
      mod := (imm.extractLsb' 0 12 : BitVec 12) ++ ty.type }
  | .viota g ty d a => encA2 0x01B g d a (lowMod ((0 : BitVec 4) ++ ty.type))
  | .vsel g d q a b => encV3 0x01C g d a b ((0 : BitVec 9) ++ q ++ (0 : BitVec 4))
  | .vcmp g cc ty d a b => encV3 0x01D g (padP d) a b (lowMod (cc.code ++ ty.type))
  | .vclass g d a mask => encV2 0x01E g (padP d) a ((0 : BitVec 3) ++ mask ++ (0 : BitVec 4))
  | .vpset g d a => encA2 0x01F g (padP d) a
  | .vpand g d a na b nb => encPred 0x020 g d a b (predMod na nb)
  | .vpor g d a na b nb => encPred 0x021 g d a b (predMod na nb)
  | .vpxor g d a na b nb => encPred 0x022 g d a b (predMod na nb)
  | .vpnot g d a => encPred 0x023 g d a 0 0
  | .vcvt g d a (.plain dst src m gd gs) =>
    { encV2 0x030 g d a ((0 : BitVec 1) ++ gd ++ (0 : BitVec 1) ++ m.code ++ src.type ++ dst.type) with s2 := gs.setWidth 10 }
  | .vcvt g d a (.block e m gd vs) =>
    { encV2 0x030 g d a ((0 : BitVec 1) ++ gd ++ (1 : BitVec 1) ++ m.code ++ (0 : BitVec 4) ++ e.type) with s2 := vs }
  | .vrcp g d a => encV2 0x031 g d a 0
  | .vrsq g d a => encV2 0x032 g d a 0
  | .vexp2 g d a => encV2 0x033 g d a 0
  | .vsum g ty d a => encV2 0x038 g d a (lowMod ((0 : BitVec 4) ++ ty.type))
  | .vrmax g ty idx d a => encV2 0x039 g d a (lowMod ((0 : BitVec 3) ++ BitVec.ofBool idx ++ ty.type))
  | .vrmin g ty idx d a => encV2 0x03A g d a (lowMod ((0 : BitVec 3) ++ BitVec.ofBool idx ++ ty.type))
  | .defer g a n => { opc := 0x040, pred := g.pred, neg := g.neg, s1 := a, mod := (0 : BitVec 9) ++ n ++ (0 : BitVec 4) }
  | .drq g d n flush p =>
    { opc := 0x041, pred := g.pred, neg := g.neg, d := d, s2 := padP p
      mod := (0 : BitVec 8) ++ BitVec.ofBool flush ++ n ++ (0 : BitVec 4) }
  | _ => { opc := 0 }

/-- The fields of an X-slot or M-slot instruction's word. -/
def encodeXM : Instr → Fields
  | .xpose g st clr (.w a) => encV2 0x000 g 0 a (stMod st ((0 : BitVec 1) ++ BitVec.ofBool clr ++ (1 : BitVec 2) ++ (0 : BitVec 4)))
  | .xpose g st clr (.r d) =>
    { opc := 0x000, pred := g.pred, neg := g.neg, d := d
      mod := stMod st ((0 : BitVec 1) ++ BitVec.ofBool clr ++ (2 : BitVec 2) ++ (0 : BitVec 4)) }
  | .xpose g st clr (.wr d a) => encV2 0x000 g d a (stMod st ((0 : BitVec 1) ++ BitVec.ofBool clr ++ (3 : BitVec 2) ++ (0 : BitVec 4)))
  | .cxs g ty k i q dl => { opc := 0x001, pred := g.pred, neg := g.neg, d := k, s1 := i, s2 := padP q, mod := (0 : BitVec 9) ++ dl ++ ty.type }
  | .xperm g d a b => encV3 0x002 g d a b 0
  | .xrot g d a n => encLane 0x003 g d a n
  | .xshuf g p ty d a b => encV3 0x004 g d a b ((0 : BitVec 10) ++ p.code ++ ty.type)
  | .xbcst g d a n => encLane 0x005 g d a n
  | .xpack g st ty d a grp => encV2 0x006 g d a (stMod st ((0 : BitVec 1) ++ grp ++ ty.type))
  | .xunpk g st ty d a grp s => encV2 0x007 g d a (stMod st (BitVec.ofBool s ++ grp ++ ty.type))
  | .xcmpr g d a q => { encV2 0x008 g d a 0 with s2 := padP q }
  | .mma g st d a b => encMma 0x000 g st d a b
  | .mmaz g st d a b => encMma 0x001 g st d a b
  | .tld g st d (.reg v) => encTile 0x002 g (d.setWidth 10) v (stMod st 0)
  | .tld g st d (.mem s) => encTile 0x002 g (d.setWidth 10) (s.setWidth 10) (stMod st 0x80)
  | .tstMemory g st p a => encTile 0x003 g (p.setWidth 10) (a.setWidth 10) (stMod st 0x80)
  | .tstRegister g st d a => encTile 0x003 g d (a.setWidth 10) (stMod st 0)
  | .tzero g d => encTile 0x004 g (d.setWidth 10) 0 0
  | .tscale g c d a => encTile 0x005 g (d.setWidth 10) a (lowMod ((0 : BitVec 3) ++ BitVec.ofBool c ++ (0 : BitVec 4)))
  | .tadd g ty d b => encTile 0x006 g (d.setWidth 10) (b.setWidth 10) (lowMod ((0 : BitVec 4) ++ ty.type))
  | _ => { opc := 0 }

/-- The fields of an L-slot instruction's word. -/
def encodeL : Instr → Fields
  | .ld g st sz sx d a disp => encLd 0x000 g st sz sx d a disp
  | .st g st sz x a disp => encSt 0x001 g st sz x a disp
  | .ldv g st sz sx d a disp => encLd 0x002 g st sz sx d a disp
  | .stv g st sz x a disp => encSt 0x003 g st sz x a disp
  | .ldg g sz sx d a x t e => encLdg 0x004 g sz sx d a x t e
  | .stg g sz hk x a i =>
    { opc := 0x005, pred := g.pred, neg := g.neg, d := x.field, s1 := a.field, s2 := (0 : BitVec 1) ++ sz.code ++ i
      h := hBits x.hbit a.hbit false, mod := (0 : BitVec 11) ++ hk.code ++ (0 : BitVec 3) }
  | .stNb g ty v a i grp q =>
    { opc := 0x006, pred := g.pred, neg := g.neg, d := v.field, s1 := a.field, s2 := (0 : BitVec 1) ++ grp ++ i
      h := hBits v.hbit a.hbit false, mod := (0 : BitVec 8) ++ q ++ ty.type }
  | .gath g d a vi t e =>
    { opc := 0x007, pred := g.pred, neg := g.neg, d := d, s1 := a.field, s2 := vi.field, h := hBits false a.hbit vi.hbit, mod := t ++ e }
  | .scat g va a vi q =>
    { opc := 0x008, pred := g.pred, neg := g.neg, d := va.field, s1 := a.field, s2 := vi.field
      h := hBits va.hbit a.hbit vi.hbit, mod := (0 : BitVec 12) ++ q }
  | .fetch g sz sx d a x t e => encLdg 0x009 g sz sx d a x t e
  | .ldc g sz sx d a disp => encLd 0x00A g ⟨false, 0⟩ sz sx d a disp
  | _ => { opc := 0 }

/-- The fields of a C-slot instruction's word. -/
def encodeC : Instr → Fields
  | .wfree g ch n => encCh 0x000 g ch n
  | .send g sz ch v off =>
    { opc := 0x001, pred := g.pred, neg := g.neg, s1 := v.field, s2 := (0 : BitVec 7) ++ sz.code, h := hBits false v.hbit false
      mod := off ++ ch }
  | .pubw g ch n => encCh 0x002 g ch n
  | .recv g ch d n none => { encCh 0x003 g ch n with d := d.setWidth 10 }
  | .recv g ch d n (some v) =>
    { opc := 0x003, pred := g.pred, neg := g.neg, d := d.setWidth 10, s1 := v, mod := (1 : BitVec 2) ++ n ++ ch }
  | .radd g ch d a off =>
    { opc := 0x004, pred := g.pred, neg := g.neg, d := d, s1 := a.field, h := hBits false a.hbit false, mod := off ++ ch }
  | .advr g ch n => encCh 0x005 g ch n
  | .put g st sz x a =>
    { opc := 0x006, pred := g.pred, neg := g.neg, d := x.field, s1 := a.field, h := hBits x.hbit a.hbit false
      mod := stMod st (sz.code ++ (0 : BitVec 5)) }
  | .putf g sz x a f incM1 pos =>
    { opc := 0x007, pred := g.pred, neg := g.neg, d := x.field, s1 := a.field, s2 := f.setWidth 10, h := hBits x.hbit a.hbit false
      mod := pos ++ incM1 ++ sz.code ++ (0 : BitVec 5) }
  | .fadd g f v => encFlag 0x008 g (f.setWidth 10) 0 v
  | .faddRemote g p v => encFlag 0x008 g 0 (p.setWidth 10) v
  | .faddb g d f incM1 bound =>
    { opc := 0x009, pred := g.pred, neg := g.neg, d := d.setWidth 10, s1 := incM1 ++ bound, mod := (0 : BitVec 8) ++ f }
  | .faddbRemote g d p incM1 bound t e =>
    { opc := 0x009, pred := g.pred, neg := g.neg, d := d.setWidth 10, s1 := incM1 ++ bound, s2 := p.setWidth 10, mod := t ++ e }
  | .fset g f v => encFlag 0x00A g (f.setWidth 10) 0 v
  | .fsetRemote g p v => encFlag 0x00A g 0 (p.setWidth 10) v
  | .fsetM g f (.imm n) m blk =>
    { opc := 0x00B, pred := g.pred, neg := g.neg, d := f.setWidth 10, s2 := m.field, h := hBits false false m.hbit
      mod := blk ++ (1 : BitVec 1) ++ n }
  | .fsetM g f (.reg a) m blk =>
    { opc := 0x00B, pred := g.pred, neg := g.neg, d := f.setWidth 10, s1 := a.field, s2 := m.field, h := hBits false a.hbit m.hbit
      mod := blk ++ (0 : BitVec 12) }
  | .seqGo g addr f k => { opc := 0x00C, pred := g.pred, neg := g.neg, d := f.setWidth 10, s2 := k.setWidth 10, mod := addr }
  | .chset g ch a => { opc := 0x00D, pred := g.pred, neg := g.neg, d := ch.setWidth 10, s1 := a.setWidth 10 }
  | _ => { opc := 0 }

/-- The fields of a B-slot instruction's word. -/
def encodeB : Instr → Fields
  | .br g off => encB 0x000 g off
  | .bri g a => encB1 0x001 g a
  | .call g off => encB 0x002 g off
  | .calli g a => encB1 0x003 g a
  | .ret g => encB 0x004 g
  | .loop g off => encB 0x005 g off
  | .loopR g off epi => { opc := 0x005, pred := g.pred, neg := g.neg, d := 1, s1 := epi.setWidth 10, mod := off }
  | .wait g fc f v => encWait 0x006 g fc f v 0
  | .waitany g fc f n v => encWait 0x007 g fc f v (n.setWidth 10)
  | .delay g n => encB 0x008 g n
  | .fence g sc => encB 0x009 g ((0 : BitVec 12) ++ sc.code)
  | .fenceQueue g q => encB 0x009 g ((0 : BitVec 12) ++ q.code)
  | .drain g sc => encB 0x00A g ((0 : BitVec 12) ++ sc.code)
  | .qfence g qs => encB 0x00B g ((0 : BitVec 12) ++ qs)
  | .rgnBegin g n => encB 0x00C g ((0 : BitVec 12) ++ n)
  | .rgnKeep g a b =>
    { opc := 0x00D, pred := g.pred, neg := g.neg, s1 := a.field, s2 := b.field, h := hBits false a.hbit b.hbit }
  | .rgnEnd g => encB 0x00E g
  | .launch g a none => encB1 0x00F g a
  | .launch g a (some f) => { encB1 0x00F g a 1 with d := f.setWidth 10 }
  | .trigger g => encB 0x010 g
  | .tend g => encB 0x011 g
  | .yield g => encB 0x012 g
  | .trap g code a => encB1 0x013 g a (lowMod code)
  | .sealOpen g a => encB1 0x013 g a (lowMod 0xC0)
  | .sealAdd g a => encB1 0x013 g a (lowMod 0xC1)
  | .sealClose g a => encB1 0x013 g a (lowMod 0xC2)
  | .bkpt g id => encB 0x014 g (lowMod id)
  | _ => { opc := 0 }

/-- The fields of a slot instruction's word; the zero word for what no slot word names. -/
def encodeFields (i : Instr) : Fields :=
  match slotOf i with
  | some 0 | some 1 => encodeA i
  | some 2 => encodeV i
  | some 3 | some 4 => encodeXM i
  | some 5 => encodeL i
  | some 6 => encodeC i
  | some 7 => encodeB i
  | _ => { opc := 0 }

/-- The slot word of a slot instruction. -/
def encode (i : Instr) : Word := (encodeFields i).toWord

/-- The A0 word beside which an instruction's word may stand: an LI of the same register for LIH (07 R142). -/
def partner : Instr → Option Word
  | .lih d _ => some (encode (.li ⟨0, false⟩ d 0))
  | _ => none

/-- The word of a copy-sequencer micro-instruction (07 Table 7.13). -/
def encodeCp : Instr → Option W32
  | .cpMove ca cb inc len => some ((1 : BitVec 4) ++ ca ++ cb ++ BitVec.ofBool inc ++ (0 : BitVec 5) ++ len)
  | .cpStr ca cb pitch rows rowlen =>
    some ((2 : BitVec 4) ++ ca ++ cb ++ pitch ++ (rows.extractLsb' 7 3 : BitVec 3) ++ (rows.extractLsb' 0 7 : BitVec 7) ++ rowlen)
  | .cpPut ca cb pitch rows rowlen =>
    some ((3 : BitVec 4) ++ ca ++ cb ++ pitch ++ (rows.extractLsb' 7 3 : BitVec 3) ++ (rows.extractLsb' 0 7 : BitVec 7) ++ rowlen)
  | .cpLoop lvl back n => some ((4 : BitVec 4) ++ lvl ++ back ++ n)
  | .cpAdd ca imm => some ((5 : BitVec 4) ++ ca ++ imm)
  | .cpFlag ca loc val f => some ((6 : BitVec 4) ++ ca ++ BitVec.ofBool loc ++ val ++ f)
  | .cpWait val f => some ((7 : BitVec 4) ++ (0 : BitVec 4) ++ val ++ f)
  | .cpChk ca cls len => some ((8 : BitVec 4) ++ ca ++ cls.code ++ (0 : BitVec 7) ++ len)
  | .cpEnd => some 0xF0000000
  | _ => none

/-- The decoder's answer for a row of the opcode table with fixed bits: a header of zero is the empty bundle, any other word is a
copy-sequencer word. -/
def decodeTableWord (nbits w : Nat) : Option Instr :=
  if nbits = 32 then
    if w = 0 then some .emptyBundle
    else match decodeCp (BitVec.ofNat 32 w) with
      | .ok i => some i
      | .error _ => none
  else none

end Sys2Proof
end

