-- ==== Sys2Proof/Machine/State.lean ====
section
/-! DEFINITION. The state of one module as plain data: its cores, galleries, walkers, schedulers, root of trust, fabric ports and host
registers, the outside steps still to come, and the state right after reset. -/

namespace Sys2Proof.Machine

/-- Bytes by address, strictly rising, zero bytes not listed (log 2). -/
abbrev Mem := List Host.Cell

/-- Event codes (18 R322, Table 18.1). -/
inductive Code where
  | trap (c : BitVec 8)
  | undefopc | rsvdfield | header | predcluster | hold | specreg
  | vregrange | limit | landbusy | deferfull | cpqfull | retstack | target | repcount | region | channel | launchdepth
  | tendshape | feature
  | tag | winlimit | foreignscr | align | nopage | writeprot | execpage | pteformat | keyempty | keygen | segment | podtarget
  | poison | sramue | hbmue | corrected
  | resarrive | reshop | chkfail | lockstep | genretired
  | deadline | descriptor
  | linkdown | linkauth | bankretire | galfence | gmcwatch | tdierror
  deriving DecidableEq, Repr

/-- Actions of a fault policy (18 R329). -/
inductive Action where
  | resume | redirect | rollback | kill | abort
  deriving DecidableEq, Repr

/-- Where a register result goes: its physical register, fixed at issue (03 R44, R56). -/
inductive Dest where
  | s (n : Nat)
  | p (n : Nat)
  | v (phys : Nat)
  | special (n : Nat)
  | prc
  deriving DecidableEq, Repr

/-- One register result in flight, which is also its snapshot entry (03 R44, 19 R342; log 8). -/
structure Pend where
  due    : Nat
  slot   : Nat
  iss    : Nat
  dest   : Dest
  value  : Vec := 0
  mask   : Vec := BitVec.allOnes 2048
  poison : Word := 0
  /-- A row of a register-form TST, and which one. -/
  tst    : Bool := false
  row    : Nat := 0
  deriving DecidableEq, Repr

/-- A hold latch (07 R147). -/
structure Latch where
  valid : Bool := false
  vec   : Bool := false
  value : Vec := 0
  deriving DecidableEq, Repr

/-- Sticky state of a slot: SV, SW, SO and SA (07 R145). -/
structure StickyState where
  sv : Bool := false
  sw : Word := 0
  so : Nat := 0
  sa : List Word := []
  deriving DecidableEq, Repr

/-- A channel-table entry: its four words and its hidden state (13 R258, R262, 21 R382). -/
structure Chan where
  w0    : Word := 0
  w1    : Word := 0
  w2    : Word := 0
  w3    : Word := 0
  ores  : Word := 0
  ares  : Word := 0
  left  : Word := 0
  right : Word := 0
  rejected : Bool := false
  /-- Schedule cycle by which its RADDs have formed their terms (13 R267). -/
  formed : Nat := 0
  deriving DecidableEq, Repr

/-- The registers that a bundle reads as its sources (03 R44, R46, R48). -/
structure RegFile where
  s       : Sparse Word := []
  sPoison : List Nat := []
  p       : Sparse Word := []
  near    : Mem := []
  nearPoison : List Nat := []
  /-- Bit errors not found yet, by word: 1 single, 2 uncorrectable (19 R349, R352; log 14). -/
  soft    : Sparse Nat := []
  allot   : Nat := 1
  rbase   : Nat := 0
  rsize   : Nat := 0
  rrb     : Nat := 0
  lcnt    : W32 := 0
  latches : Sparse Latch := []
  chans   : Sparse Chan := []
  prc     : Nat := 0
  prcv    : Bool := false
  deriving DecidableEq, Repr

/-- How a value that arrives becomes the register's (11 Table 11.1). -/
structure LoadForm where
  sz : Size := .b8
  sx : Bool := false
  deriving DecidableEq, Repr

/-- A flag operation that has arrived at a seat's port: an add, a set, or a bounded add with the request that it answers (03 R60, 11 R227). -/
inductive FlagOp where
  | add (v : W32)
  | set (v : W32)
  | bounded (p : Packet)
  deriving DecidableEq, Repr

/-- What a timed request asked for, kept so that it can be sent again (19 R347). -/
inductive TimedReq where
  | memory (ptr : Word) (n : Nat)
  | gather (ptrs : List Word)
  | fetch (ptr : Word) (n : Nat)
  | faddb (ptr : Word) (inc : Nat) (bound : W32)
  deriving DecidableEq, Repr

/-- A landing-buffer entry (03 R58, 19 R347, 22 R397). -/
structure Landing where
  due     : Nat
  dest    : Dest
  form    : LoadForm := {}
  arrived : Bool := false
  data    : Vec := 0
  poison  : Word := 0
  /-- A failed read: its code, its effective pointer, and the address concerned. -/
  failed  : Option (Code × Word × Word) := none
  pc      : Nat := 0
  slot    : Nat := 0
  iss     : Nat := 0
  word    : Word := 0
  req     : TimedReq
  /-- Number of the request, so that a response to an earlier one is told apart. -/
  serial  : Nat := 0
  /-- Clock before which the response does not arrive unloaded (04 R88). -/
  ready   : Nat := 0
  /-- Pieces whose value has not been taken yet. -/
  left    : Nat := 0
  /-- Request tag of a FETCH or FADDB (22 R397). -/
  tag     : Nat := 0
  /-- Its packet was discarded because no port reaches the module: no response comes (21 R386). -/
  lost    : Bool := false
  /-- The unit that its failed read concerns (18 R422). -/
  unit    : Nat := 0
  deriving DecidableEq, Repr

/-- The home of a byte outside the core port (06 R112). -/
inductive Home where
  | near (c : Nat) (off : Nat)
  | vault (gal : Nat) (off : Nat)
  | hbm (pa : Nat) (key : Nat) (va : Nat)
  | host (ba : Nat) (key : Nat) (va : Nat)
  deriving DecidableEq, Repr

/-- A piece of an L-slot access outside the core port, not yet performed (06 R113, R117). -/
structure Piece where
  iss   : Nat
  write : Bool
  ptr   : Word
  /-- Its place in the datum. -/
  pos   : Nat
  n     : Nat
  /-- The address it stands at: none while a walk has still to give it. -/
  home  : Option Home
  va    : Nat := 0
  /-- Byte and bit enables of a write. -/
  data  : List (Byte × Byte) := []
  poison : Bool := false
  entry : Nat := 0
  serial : Nat := 0
  word  : Word := 0
  pc    : Nat := 0
  kind  : HostKind := .ordinary
  /-- Its instruction has raised the event of a failed piece already (21 R376). -/
  told  : Bool := false
  /-- The clock from which it may perform. -/
  ready : Nat := 0
  deriving DecidableEq, Repr

/-- A matrix operand as captured at issue: registers, or a memory pair with its stepped base (10 R202). -/
inductive MSrc where
  | regs (f : Fmt) (lines : List Vec) (scales : Vec)
  | mem (base : Word) (desc : Word)
  deriving DecidableEq, Repr

/-- An MXQ command with what it captured (10 R200, R205 to R208). -/
inductive MCmd where
  | mma (z : Bool) (d : Nat) (a b : MSrc)
  | tldReg (d : Nat) (rows : List Vec)
  | tldMem (d : Nat) (base desc : Word)
  | tstMem (base desc : Word) (a : Nat)
  | tzero (d : Nat)
  | tscale (c : Bool) (d : Nat) (v : Vec)
  | tadd (ty : Fmt) (d b : Nat)
  deriving DecidableEq, Repr

/-- An MXQ entry (10 R200). -/
structure MEntry where
  cmd   : MCmd
  guard : Word
  enq   : Nat
  iss   : Nat
  word  : Word := 0
  pc    : Nat := 0
  deriving DecidableEq, Repr

/-- The entry that the matrix engine runs, and when it is done with it (10 R201). -/
structure MRun where
  entry : MEntry
  /-- Clock at which it ends, and the schedule cycle at which its occupancy of Table 10.1 does. -/
  endClock : Nat
  endSched : Nat := 0
  /-- Its operands came late: the clear point of Table 10.1, and whether poison cancelled it. -/
  late     : Option (Nat × Bool) := none
  deriving DecidableEq, Repr

/-- A CMQ operation, with the packets that have still to leave: FSET.M has one for each destination, ascending (06 R121, 11 R228). -/
structure Remote where
  pkts  : List Packet
  iss   : Nat
  word  : Word := 0
  pc    : Nat := 0
  deriving DecidableEq, Repr

/-- A remote operation that has left its queue and not performed yet (06 R124, R423). -/
structure Flight where
  pkt   : Packet
  /-- The destination is the own module, so that no packet is formed (04 R73). -/
  own   : Bool
  iss   : Nat := 0
  word  : Word := 0
  pc    : Nat := 0
  ready : Nat := 0
  deriving DecidableEq, Repr

/-- A rollback in progress: waiting for the engine and the writes, or writing the kept bytes back (22 R394, R398). -/
inductive Rolling where
  | drain
  | writeBack (fin : Nat)
  deriving DecidableEq, Repr

/-- A deferral-queue entry (02 R42, 09 R189). -/
structure DEntry where
  lane : Nat
  vals : List W32
  deriving DecidableEq, Repr

/-- The hop record that an ADVR closed: its schedule cycle, both sides, and the header of the oldest chunk (13 R267, 21 R383). -/
structure Hop where
  ch    : Nat
  due   : Nat
  left  : Word
  right : Word
  value : Word := 0
  info  : Word := 0
  addr  : Word := 0
  /-- Slot word of the ADVR (18 R327), and its issue number. -/
  word  : Word := 0
  iss   : Nat := 0
  deriving DecidableEq, Repr

/-- A recovery-region frame (22 R390). -/
structure Frame where
  s       : Sparse Word := []
  sPoison : List Nat := []
  p       : Sparse Word := []
  lcnt    : W32 := 0
  dom     : List Word := []
  allot   : Nat := 1
  rbase   : Nat := 0
  rsize   : Nat := 0
  rrb     : Nat := 0
  phase   : Nat := 0
  rstack  : List Nat := []
  srg     : W32 := 1
  dq      : List DEntry := []
  dqRetained : List DEntry := []
  chans   : Sparse Chan := []
  restart : Nat := 0
  limit   : Nat := 0
  retry   : Nat := 0
  /-- Issue number of RGN.BEGIN, which tells the entries enqueued since. -/
  iss     : Nat := 0
  /-- Keep records with the bytes they copied, newest first (22 R391). -/
  keeps   : List (Word × Nat × List Byte × List Nat) := []
  deriving DecidableEq, Repr

/-- A late event that has not stopped its seat yet (18 R326, 21 R376, R381). -/
structure LateEvent where
  code  : Code
  src   : Nat := 2
  opSlot : Nat := 5
  value : Word := 0
  addr  : Word := 0
  word  : Word := 0
  info  : Word := 0
  /-- The PC that its message names where it is not the seat's own (18 R333). -/
  pc    : Option Nat := none
  /-- UNIT of its record (18 R422). -/
  unit  : Nat := 0
  deriving DecidableEq, Repr

/-- A SEQ.GO request (03 R62). -/
structure SeqReq where
  addr : Nat
  flag : Nat
  c    : List Word
  iss  : Nat
  deriving DecidableEq, Repr

/-- STATE of the sequencer (03 Table 3.8). -/
inductive SeqMode where
  | idle | running | waiting
  deriving DecidableEq, Repr

/-- The copy sequencer (03 R61). -/
structure Seq where
  mpc   : Nat := 0
  c     : List Word := [0, 0, 0, 0, 0, 0, 0, 0]
  lc    : List Nat := [0, 0, 0, 0]
  prog  : Nat := 0
  cflag : Nat := 0
  mode  : SeqMode := .idle
  cpq   : List SeqReq := []
  /-- Start address and issue number of the running program. -/
  start : Nat := 0
  iss   : Nat := 0
  halted : Bool := false
  /-- Rejects that halt it at its next unit boundary (21 R381). -/
  faults : List LateEvent := []
  /-- Clock before which the next micro-instruction does not start. -/
  ready : Nat := 0
  deriving DecidableEq, Repr

/-- A translation-cache entry (04 R82). -/
structure TcEntry where
  world : Nat
  vbase : Nat
  len   : Nat
  pbase : Nat
  host  : Bool
  key   : Nat
  w     : Bool
  x     : Bool
  d     : Bool
  deriving DecidableEq, Repr

/-- An extent with its hidden copy (04 R79, R80). -/
structure Extent where
  reg   : Word := 0
  pbase : Nat := 0
  key   : Nat := 0
  host  : Bool := false
  deriving DecidableEq, Repr

/-- Why a seat's issue stream stands still until a reply or a walk. -/
inductive StopKind where
  /-- A split bundle (19 R341). -/
  | split
  /-- A TRAP whose bundle has committed (08 R172). -/
  | trap
  /-- A failed landing of an entry (19 R347). -/
  | landing (e : Nat)
  /-- An event at a bundle boundary: R353, R376, R381 to R383. -/
  | boundary
  /-- A store that waits for its walk (19 R346). -/
  | walk
  deriving DecidableEq, Repr

/-- A trap message (18 R327), with the reply's way back. -/
structure Msg where
  gal    : Nat
  slot   : Nat
  core   : Nat
  kind   : StopKind := .boundary
  code   : Code
  src    : Nat := 0
  opSlot : Nat := 0
  mseq   : Nat := 0
  pc     : Nat := 0
  npc    : Nat := 0
  mpc    : Nat := 0
  cst    : Word := 0
  value  : Word := 0
  identity : Word := 0
  word   : Word := 0
  cyc    : Nat := 0
  addr   : Word := 0
  info   : Word := 0
  unit   : Nat := 0
  posted : Nat := 0
  /-- I/O-die time of its posting, from which the GMC's own clock counts (18 R330). -/
  wall   : Nat := 0
  /-- REPLY: zero until the GMC writes it with VALID = 1 (18 Table 18.3). -/
  reply  : Word := 0
  deriving DecidableEq, Repr

/-- One slot operation of the bundle that issues. -/
structure SlotOp where
  slot   : Nat
  ins    : Instr
  word   : Word := 0
  /-- Step count j (07 R146). -/
  step   : Nat := 0
  /-- Re-issue of sticky state, with its captured address sources. -/
  sticky : Bool := false
  sa     : List Word := []
  /-- The event that presentation found for this word (20 R360). -/
  event  : Option (Code × Word) := none
  deriving DecidableEq, Repr

/-- What a split bundle needs to go on: replay registers (19 R342; log 8). -/
structure Replay where
  hdr    : W32 := 0
  rep    : Nat := 0
  count  : Nat := 1
  pc     : Nat := 0
  len    : Nat := 4
  cyc    : Nat := 0
  src    : RegFile := {}
  ops    : List SlotOp := []
  /-- Latches that the bundle has written (07 R148). -/
  latched : List Nat := []
  npc    : Option Nat := none
  gap    : Nat := 0
  /-- Bytes of the own vault before this bundle's store (06 R115). -/
  under  : List (Nat × Byte) := []
  /-- Generator and deferral queue as the bundle reads them (22 R390). -/
  srg    : W32 := 1
  dq     : List DEntry := []
  dqRetained : List DEntry := []
  deriving DecidableEq, Repr

/-- A physical core with the seat on it. -/
structure Core where
  /-- A seat is placed here, and its task by pool number. -/
  placed : Bool := false
  /-- Clock from which its first bundle may issue, and whether that has come. -/
  startAt : Nat := 0
  started : Bool := false
  /-- The present clock is no frozen one. -/
  ran    : Bool := false
  task   : Nat := 0
  seat   : Nat := 0
  nseats : Nat := 1
  job    : Nat := 0
  taskid : Nat := 0
  world  : Nat := 0
  gen    : Nat := 0
  lock   : Bool := false
  debug  : Nat := 0
  rf     : RegFile := {}
  dom    : List Word := [0, 0, 0, 0]
  phase  : Nat := 0
  cyc    : Nat := 0
  frz    : Nat := 0
  resume : Nat := 8
  repleft : Nat := 0
  frzcause : Nat := 0
  rgd    : Nat := 0
  feat   : BitVec 128 := 0
  srg    : W32 := 1
  flags  : Sparse W32 := []
  /-- Flag operations that have arrived at the port and not applied yet, by flag, in their arrival order (03 R60). -/
  flagBuf : List (Nat × FlagOp) := []
  tiles  : Sparse (List Vec) := []
  tilePoison : List Nat := []
  tileBusy : List Nat := []
  /-- Clear points not reached yet: tile, schedule cycle, issue number of the command (10 R201). -/
  tileClear : List (Nat × Nat × Nat) := []
  /-- Clear points of entries that poison cancelled, with their words (19 R353). -/
  poisonClear : List (Nat × Word) := []
  /-- A rollback in progress (22 R394). -/
  rolling : Option Rolling := none
  xpWr   : Nat := 0
  xpRd   : Nat := 0
  xpBank : Nat := 0
  xpose  : Sparse Vec := []
  dq     : List DEntry := []
  dqRetained : List DEntry := []
  landing : Sparse (Option Landing) := []
  sticky : Sparse StickyState := []
  pc     : Nat := 0
  rep    : Nat := 0
  /-- Repeat count of the bundle in progress, once it has been presented. -/
  count  : Option Nat := none
  /-- Schedule cycle before which no bundle issues. -/
  nextIssue : Nat := 0
  /-- Latches that earlier repetitions of the bundle in progress wrote (07 R148). -/
  latched : List Nat := []
  issued : Nat := 0
  /-- Issue numbers and clocks of the latest bundles, newest first (19 R354). -/
  recent : List (Nat × Nat) := []
  /-- PC of each of those bundles, and of the bundle behind it (18 R327). -/
  recentPcs : List (Nat × Nat × Nat) := []
  rstack : List Nat := []
  inflight : List Pend := []
  replay : Option Replay := none
  /-- The replay cycle is next (19 R343). -/
  replayNow : Bool := false
  stop   : Option StopKind := none
  late   : List LateEvent := []
  mseq   : Nat := 0
  /-- Clock at which the present CORRECT freeze ends (19 R349). -/
  correct : Nat := 0
  /-- Single errors not found yet in the core's arrays but near SRAM: array of 18 R422, place (19 R349; log 14). Places: tile row, 64 to a tile;
  word of instruction memory or constants; scalar n, 64 + predicate, 256 + flag; entry of the landing buffer or the deferral queue. -/
  weak   : List (Nat × Nat) := []
  /-- Uncorrectable errors not found yet in tile rows and in words of instruction memory, by the same arrays and places (18 R335; log 14). -/
  broken : List (Nat × Nat) := []
  /-- Own-vault bytes from before the stores of the latest bundles of a LOCK pair, newest first: issue number, gallery, bytes (19 R354; log 11). -/
  released : List (Nat × Nat × List (Nat × Byte)) := []
  dump   : Bool := false
  debugHalt : Bool := false
  mxq    : List MEntry := []
  run    : Option MRun := none
  cmq    : List Remote := []
  hxq    : List (List Piece) := []
  wc     : List (List Piece) := []
  /-- Combining buffers, counted from the oldest, that are to be posted when HXQ has room (06 R121, R132). -/
  wcDue  : Nat := 0
  hold   : List (Nat × Remote) := []
  frames : List Frame := []
  keep   : Option (Word × Nat) := none
  /-- Slot word of that RGN.KEEP (18 R327). -/
  keepWord : Word := 0
  /-- PC of its bundle (18 R327). -/
  keepPc : Nat := 0
  /-- Clock before which the copy of a RGN.KEEP does not go on, and the access cost that it has taken (08 R167). -/
  keepReady : Nat := 0
  keepCost : Nat := 0
  /-- What the copy of a RGN.KEEP has moved so far, with its poison (22 R391). -/
  keepGot : List (Byte × Bool) := []
  pend   : List Piece := []
  seq    : Seq := {}
  imem   : Mem := []
  const  : Mem := []
  textLen : Nat := 0
  regions : List Nat := []
  exts   : List Extent := []
  /-- The job's context pool, which no address of the seat reaches: its start and bytes (22 R399). -/
  ctxBase : Nat := 0
  ctxLen  : Nat := 0
  tcache : List TcEntry := []
  image  : Nat := 0
  pbase  : Nat := 0
  pstride : Nat := 0
  psize  : Nat := 0
  vsize  : Nat := 0
  depth  : Nat := 0
  triggered : Bool := false
  /-- Issue number of a TRIGGER whose earlier writes have still to perform (06 R134). -/
  trigAt : Option Nat := none
  ended  : Bool := false
  /-- ADVRs whose hop comparison is still to come (13 R267). -/
  hops   : List Hop := []
  /-- Completion flags of attached children that still run: task, flag (02 R34). -/
  children : List (Nat × Nat) := []
  /-- A save has been asked for at the next boundary (12 R255). -/
  saveAsked : Bool := false
  /-- Clock in which the image has been written and the core is released, once the save has come so far (22 R402). -/
  saveAt : Option Nat := none
  /-- The seat's task is killed: it stops at its next boundary (22 R405). -/
  killed : Bool := false
  /-- The job is aborted: the event's code, and the seat's number among those dumped (19 R357, R358). -/
  abort  : Option (Code × Nat) := none
  /-- Its first bundle since placement has issued. -/
  begun  : Bool := false
  /-- World key in the fetch-decrypt unit, by load number; 0 none (14 R279, log 6). -/
  fetchKey : Nat := 0
  deriving DecidableEq, Repr

/-- A gallery: its vault, fence and retired banks (01 R13, 18 R335 to R337). -/
structure Gallery where
  vault  : Mem := []
  poison : List Nat := []
  /-- Bit errors not found yet, by word: 1 single, 2 uncorrectable (19 R350; log 14). -/
  soft   : Sparse Nat := []
  retired : List Nat := []
  fenced : Bool := false
  /-- Team vault windows: task, team gallery, base, bytes (04 R71). -/
  windows : List (Nat × Nat × Nat × Nat) := []
  deriving DecidableEq, Repr

/-- One walk or waiting request of a hall walker (04 R82, R83). -/
structure Walk where
  core  : Nat
  /-- Store of the issue stream, load piece, or sequencer. -/
  who   : Nat
  va    : Nat
  write : Bool
  /-- The effective pointer, for the event of a store's walk. -/
  ptr   : Word := 0
  ready : Nat
  deriving DecidableEq, Repr

structure Hall where
  walks : List Walk := []
  waiting : List Walk := []
  /-- Level-3 and level-2 entries: job, world, level, index path, entry (04 R82). -/
  cache : List (Nat × Nat × Nat × Nat × Word) := []
  deriving DecidableEq, Repr

/-- Check bits of an HBM sector and the pair and tweak that each of its two 16-byte blocks was encrypted under (04 R76, R86, R87; log 5). -/
structure Sector where
  gen    : Nat := 0
  poison : Bool := false
  serial : Nat := 0
  tweak  : Nat := 0
  serial1 : Nat := 0
  tweak1 : Nat := 0
  /-- A bit error not found yet: 1 single, 2 uncorrectable (21 R377; log 14). -/
  soft   : Nat := 0
  deriving DecidableEq, Repr

/-- A key slot (14 R280, 04 R87). -/
structure KeySlot where
  live  : Bool := false
  gen   : Nat := 0
  job   : Nat := 0
  world : Nat := 0
  owner : Nat × Nat := (0, 0)
  /-- Which key pair the slot holds: a number of its own for each load. -/
  serial : Nat := 0
  deriving DecidableEq, Repr

/-- A loaded image (07 R153, 14 R277). -/
structure Image where
  id     : Nat
  world  : Nat
  va     : Nat := 0
  /-- Plaintext of its code pages, which hold it encrypted under the pair and nonce of number `key` (14 R278, R279; log 64). -/
  text   : List Byte := []
  const  : List Byte := []
  key    : Nat := 0
  entry  : Nat := 0
  nseats : Nat := 1
  lock   : Bool := false
  debug  : Nat := 0
  channels : List (Nat × List Word) := []
  extents : List ExtentDecl := []
  regions : List Nat := []
  deriving DecidableEq, Repr

/-- A world of a job (14 R275 to R278, R284, 18 R329). -/
structure World where
  num    : Nat
  troot  : Nat := 0
  hash   : Option Nat := none
  measurement : Nat := 0
  policy : Option (Sparse W32) := none
  /-- Segment-table entries: word by index (14 R276). -/
  segs   : Sparse Word := []
  tdi    : Tdi := .unlocked
  debug  : Nat := 0
  /-- World key pair and load nonce of the latest load, by a number of their own; 0 none (14 R278, log 6). -/
  worldKey : Nat := 0
  deriving DecidableEq, Repr

/-- A job (02 R28, R29). -/
structure Job where
  id      : Nat
  limit   : Nat := 0
  dlc     : Nat := 0
  dumpBase : Nat := 0
  dumpLen : Nat := 0
  ctxBase : Nat := 0
  ctxLen  : Nat := 0
  worlds  : List World := []
  images  : List Image := []
  aborted : Bool := false
  deriving DecidableEq, Repr

/-- Task states (02 Table 2.5). -/
inductive TaskState where
  | pending | ready | placed | running | saved | ended
  deriving DecidableEq, Repr

/-- What created a task, and so what learns of its end. -/
inductive Creator where
  | packet (queue : Nat) (index : Nat)
  | node (graph node : Nat)
  | tile (graph node : Nat) (k : Nat)
  | launch (core : Nat) (parent : Nat) (seat : Nat) (flag : Option Nat)
  deriving DecidableEq, Repr

/-- A task of the pending-launch pool (02 R30 to R33, 12 R243). -/
structure Task where
  id      : Nat
  state   : TaskState := .pending
  creator : Creator
  job     : Nat
  taskid  : Nat := 0
  world   : Nat := 0
  prio    : Nat := 0
  gen     : Nat := 1
  depth   : Nat := 0
  args    : List Word := []
  image   : Nat := 0
  nseats  : Nat := 1
  lock    : Bool := false
  allot   : Nat := 1
  rst     : Bool := false
  dom     : List Nat := []
  vsize   : Nat := 1
  pbase   : Nat := 0
  pstride : Nat := 0
  psize   : Nat := 0
  est     : Nat := 1
  /-- GLOBAL address of its descriptor, read again after a KILL (12 R255). -/
  desc    : Word := 0
  /-- Effective pointer that a LAUNCH gave, VALUE of an event of that descriptor (20 Table 20.4). -/
  lptr    : Word := 0
  /-- PC and slot word of that LAUNCH (18 R333). -/
  lpc     : Nat := 0
  lword   : Word := 0
  /-- Cycle in which it entered READY, and in which it was created. -/
  readyAt : Nat := 0
  born    : Nat := 0
  /-- Physical core of each seat while placed. -/
  cores   : List Nat := []
  ended   : List Nat := []
  triggered : List Nat := []
  saved   : List Nat := []
  /-- LAUNCH and TRIGGER writes that have still to perform: core and issue number (06 R134). -/
  fence   : Option (Nat × Nat) := none
  /-- What created the task at the head of its chain of launches, and the tasks of that chain. -/
  origin  : Creator := creator
  ancestors : List Nat := []
  /-- First MiB of each seat block and of each gallery block in the context pool (22 R399). -/
  blocks  : List Nat := []
  galBlocks : List Nat := []
  /-- Team galleries whose windows are being saved, each with the clock in which that ends (22 R403). -/
  winAt   : List (Nat × Nat) := []
  /-- Clock in which it entered RUNNING. -/
  runAt   : Nat := 0
  /-- A KILL waits for its seats' boundaries; an ABORT has taken it. -/
  killing : Bool := false
  aborted : Bool := false
  deriving DecidableEq, Repr

/-- Graph node states (12 Table 12.6). -/
inductive NodeState where
  | pending | acting | skipped | complete
  deriving DecidableEq, Repr

structure Node where
  state  : NodeState := .pending
  count  : Nat := 0
  run    : Bool := false
  iter   : Nat := 0
  /-- Work of the node: KERNEL has created its task; LOOP waits for TAIL; WAIT polls from a clock. -/
  begun  : Bool := false
  sentRun : Bool := false
  since  : Nat := 0
  /-- Next tile of a spawn, and the tile tasks made. -/
  tile   : Nat := 0
  tiles  : List Nat := []
  word   : Word := 0
  /-- It waits for a pool entry since `since`. -/
  waits  : Bool := false
  deriving DecidableEq, Repr

/-- An armed graph with its packet (12 R245, R246). -/
structure Graph where
  id     : Nat
  queue  : Nat
  index  : Nat
  job    : Nat
  world  : Nat
  prio   : Nat
  slot   : Nat := 0
  ptr    : Word
  nodes  : List Node := []
  halted : Bool := false
  done   : Bool := false
  deriving DecidableEq, Repr

/-- Foyer slot states (12 Table 12.3). -/
inductive FoyerState where
  | free | bound | active | retiring
  deriving DecidableEq, Repr

structure FoyerSlot where
  state : FoyerState := .free
  queue : Nat := 0
  /-- I/O-die time in which its slice began, and clock from which its packet waits for a pool entry. -/
  start : Nat := 0
  since : Nat := 0
  waits : Bool := false
  deriving DecidableEq, Repr

/-- An admitted packet whose completion is still to come (12 R240). -/
structure Admitted where
  queue : Nat
  index : Nat
  slot  : Nat
  saddr : Word
  sval  : W32
  job   : Nat
  world : Nat
  /-- COMPLETE, but the completion word has not been added to. -/
  due   : Bool := false
  done  : Bool := false
  deriving DecidableEq, Repr

/-- A pre-emption in progress (12 R253 to R256). -/
inductive PreemptKind where
  | checkpoint | drain
  deriving DecidableEq, Repr

structure Preempt where
  task  : Nat
  kind  : PreemptKind
  since : Nat
  deriving DecidableEq, Repr

/-- A seal session (14 R286 to R288). -/
structure Seal where
  job    : Nat
  taskid : Nat
  seat   : Nat
  out    : Word
  chlen  : Nat
  nonce  : List Byte := []
  chunks : Nat := 0
  bytes  : List Byte := []
  deriving DecidableEq, Repr

/-- An error record (18 R331, Table 18.4). -/
structure Record where
  seq      : Nat
  code     : Code
  src      : Nat := 0
  slot     : Nat := 0
  sev      : Nat := 0
  action   : Nat := 0
  unit     : Nat := 0
  pcn      : Nat := 0
  pc       : Nat := 0
  mpc      : Nat := 0
  identity : Word := 0
  addr     : Word := 0
  value    : Word := 0
  cyc      : Nat := 0
  info     : Word := 0
  deriving DecidableEq, Repr

/-- A fabric port: its link's key of each direction by a number of its own, the salt of its nonces, and the records sent and received under
those keys (14 R283, 21 R385). -/
structure Port where
  inService : Bool := true
  keyed     : Bool := false
  keyOut    : Nat := 0
  keyIn     : Nat := 0
  salt      : W32 := 0
  sent      : Nat := 0
  recvd     : Nat := 0
  linkUp    : Bool := true
  /-- I/O-die time at which its link went down (18 R335). -/
  downSince : Nat := 0
  crcFails  : Nat := 0
  /-- Fabric addresses that the pod's wiring does not let it reach (21 R385; log 94). -/
  misses    : List Nat := []
  deriving DecidableEq, Repr

/-- A pair as its packets name it, with the run's tag (06 R124, 15 R296). -/
structure PairKey where
  job    : Nat
  taskid : Nat
  gen    : Nat
  smod   : Nat
  seat   : Nat
  sq     : Bool
  dmod   : Nat
  gal    : Nat
  deriving DecidableEq, Repr

/-- A request that has no response yet: its requester and its tag (22 R397). -/
structure Asked where
  job    : Nat
  taskid : Nat
  seat   : Nat
  gen    : Nat
  tag    : Nat
  deriving DecidableEq, Repr

/-- How a host access completes (15 R292, 21 R374). -/
inductive Completion where
  | done
  | data (bs : List Byte)
  | unsupported
  | completerAbort
  deriving DecidableEq, Repr

/-- Host-visible registers (15 R298). -/
structure HostRegs where
  featDrv  : BitVec 128 := 0
  featAcc  : BitVec 128 := 0
  stage    : Nat := 0
  replace  : Bool := false
  qtBase   : Word := 0
  jobSel   : Nat := 0
  worldSel : Nat := 0
  inv      : Sparse Word := []
  /-- Job, world, address and length of the command in progress, latched at INVGO (04 R84). -/
  invNow   : Nat × Nat × Nat × Nat := (0, 0, 0, 0)
  invBusy  : Bool := false
  aperture : Word := 0
  vaperture : Sparse Word := []
  pstate   : Nat := 0
  /-- The power cap, and one written in P2 that applies at its exit (15 R302). -/
  pcap     : Nat := 6000
  pcapNext : Option Nat := none
  freq     : Nat := 1600
  /-- A power transition in progress, its end, and the request that waits for it (15 R301). -/
  ptarget  : Option Nat := none
  pready   : Nat := 0
  pnext    : Option Nat := none
  /-- Clock in which the present boot stage ends, unloaded: 20 ms for RESET (15 Table 15.6). -/
  stageAt  : Nat := 32000000
  /-- Issue number of each core when the invalidate command began (04 R84). -/
  invMarks : List (Nat × Nat) := []
  diaginj  : Word := 0
  mmap     : Sparse Word := []
  /-- SEGTAB words by job, world, entry and word; and the MSI-X table's words, each as it differs from its value at reset. -/
  segtab   : Sparse Word := []
  msixTab  : Sparse Word := []
  /-- I/O-die time when FREQ last changed, and the core clock of that moment (15 R302). -/
  wallBase  : Nat := 0
  wallClock : Nat := 0
  /-- Doorbells kept until RUN: function (0 the PF), queue (15 R300). -/
  doorbells : List (Nat × Nat) := []
  /-- The module's own physical fabric address, as PMOD names it (log 13). -/
  fabric   : Nat := 0
  deriving DecidableEq, Repr

/-- The issue context: the bundle in progress, as the slots see it (03 R44, 06 R115; log 16). -/
structure Ctx where
  active : Bool := false
  core   : Nat := 0
  slot   : Nat := 0
  word   : Word := 0
  step   : Nat := 0
  sticky : Bool := false
  sa     : List Word := []
  hdr    : W32 := 0
  pc     : Nat := 0
  len    : Nat := 4
  rep    : Nat := 0
  count  : Nat := 1
  /-- Schedule cycle that the results are timed from. -/
  cyc    : Nat := 0
  src    : RegFile := {}
  todo   : List SlotOp := []
  /-- Latches that the bundle has written (07 R148). -/
  latched : List Nat := []
  /-- Slot at which the bundle split. -/
  split  : Option Nat := none
  replay : Bool := false
  /-- Next PC and the empty cycles that a taken branch or a DELAY asks for. -/
  npc    : Option Nat := none
  gap    : Nat := 0
  under  : List (Nat × Byte) := []
  srg    : W32 := 1
  dq     : List DEntry := []
  dqRetained : List DEntry := []
  deriving DecidableEq, Repr

/-- What acts next in the present clock (log 3). -/
inductive Agent where
  | cycle (c : Nat)
  | issue (c : Nat)
  | replay (c : Nat)
  | run (i : Instr)
  | engine (c : Nat)
  /-- Hop comparisons of a bundle that a walk has let go on (13 R267, 19 R346). -/
  | hops (c : Nat)
  | seq (c : Nat)
  | ports (c : Nat)
  | walker (h : Nat)
  | gmc (g : Nat)
  | lateral
  | concourse
  | foyer
  | graphs
  | host
  deriving DecidableEq, Repr

/-- One module (00 R1), and what the model adds to it. -/
structure State where
  cores    : Sparse Core := []
  gals     : Sparse Gallery := []
  halls    : Sparse Hall := []
  hbm      : Mem := []
  sectors  : Sparse Sector := []
  hostMem  : Mem := []
  hostTags : Sparse Sector := []
  keys     : Sparse KeySlot := []
  jobs     : List Job := []
  tasks    : List Task := []
  graphs   : List Graph := []
  foyer    : Sparse FoyerSlot := []
  waiting  : List (Nat × Nat) := []
  admitted : List Admitted := []
  launches : List (Nat × Nat) := []
  preempts : List Preempt := []
  mail     : List Msg := []
  /-- Answered messages as they stand in their mailbox slots with REPLY written, by 32 × gallery + slot (18 R326, R327). -/
  box      : List (Nat × Msg) := []
  sessions : List Seal := []
  log      : List Record := []
  /-- Full records of sealed worlds, as their owners' sessions receive them (18 R331). -/
  ownerLog : List Record := []
  seq      : Nat := 1
  corrected : Sparse Nat := []
  /-- SRAMUE and LOCKSTEP events since reset, by unit (18 R335). -/
  sramue   : Sparse Nat := []
  lockMis  : Sparse Nat := []
  msix     : List (Nat × Nat) := []
  /-- Vectors of the PF that were raised while their mask bits were set (15 Table 15.4; log 76). -/
  msixPend : List (Nat × Nat) := []
  host     : HostRegs := {}
  ports    : Sparse Port := []
  /-- Next PSEQ of each pair, at its sender and at its receiver (15 R296). -/
  sentSeq  : List (PairKey × Nat) := []
  recvSeq  : List (PairKey × Nat) := []
  /-- Packets that wait for an earlier PSEQ of their pair. -/
  early    : List Packet := []
  /-- Packets out to other modules, newest last. -/
  out      : List Packet := []
  /-- Remote operations on their way inside the module (04 R73, 06 R124). -/
  lateral  : List Flight := []
  /-- Requests that wait for a port that can send, or for the release buffer of a LOCK pair: core, issue number, packet. -/
  queued   : List (Nat × Nat × Packet) := []
  /-- Writes held for a seat that has not issued its first bundle, or is SAVED (02 R38, 22 R404). -/
  spill    : List (Nat × Packet) := []
  /-- Packets whose acknowledgement has not come; true where one has still to be sent again (21 R385). -/
  unacked  : List (Packet × Bool) := []
  /-- Responses and rejects that wait for a port that can send. -/
  replies  : List Packet := []
  /-- Requests without a response (22 R397). -/
  asked    : List Asked := []
  retired  : List (Nat × Nat × Nat) := []
  /-- Saved images of seats: task, seat, core state, vault windows (22 R400 to R403; log 15). -/
  saves    : List (Nat × Nat × Core) := []
  /-- Saved vault windows: task, team gallery, bytes, poisoned words (22 R403). -/
  saveVaults : List (Nat × Nat × Mem × List Nat) := []
  /-- Completions of host accesses, oldest first. -/
  hostOut  : List Completion := []
  /-- The host completes the I/O dies' next access to its memory with an error (21 R377; log 74). -/
  hostFails : Bool := false
  /-- Host and I/O-die steps that a page under migration holds (04 R83). -/
  heldIo   : List Instr := []
  /-- Debug trace: identity, breakpoint identifier, PC, CYC (08 R172, 14 R289). -/
  traces   : List (Word × Nat × Nat × Nat) := []
  /-- Traces flushed to the driver and to world owners' sessions before P2 (14 Table 14.7). -/
  driverTraces : List (Word × Nat × Nat × Nat) := []
  ownerTraces  : List (Word × Nat × Nat × Nat) := []
  /-- Debugger accesses held until P0, or by a page under migration. -/
  heldDebug : List Instr := []
  /-- Imported pairs: the session's owner, the wrapped value, and the pair's number (14 R280; log 6). -/
  imports  : List ((Nat × Nat) × Nat × Nat) := []
  /-- Seal records whose page is under migration: job, world, OUT, record (14 R288). -/
  sealOut  : List (Nat × Nat × Nat × List Byte) := []
  /-- Retired tags whose first discard at a port has its record: job, task number, tag, port (21 R379). -/
  discarded : List (Nat × Nat × Nat × Nat) := []
  /-- Heads, their victims so far, and the clock in which each was chosen; queues that took over a retired slot (12 R253). -/
  victims  : List (Nat × Nat × Nat) := []
  incoming : List Nat := []
  /-- The model's own: outside steps to come, agents to act, issue context, clock, free-value counter, serial number. -/
  inputs   : List Instr := []
  agenda   : List Agent := []
  ctx      : Ctx := {}
  clock    : Nat := 0
  fresh    : Nat := 0
  serial   : Nat := 1
  deriving DecidableEq, Repr

/-- Reasons a step faults. None is raised where the spec gives an effect; each constructor says who raises it. -/
inductive Fault where
  /-- Raised by no meaning; kept so that the type is not empty (safe). -/
  | unreachable
  deriving DecidableEq, Repr

/-- Reasons a step is refused. -/
inductive Refusal where
  /-- An arm of exec whose meaning has not been written (safe). -/
  | notModelled (mnemonic : String)
  deriving DecidableEq, Repr

/-- The module right after reset: every core without a seat (15 R300; log 1). -/
def State.reset : State := {}

end Sys2Proof.Machine
end

