-- ==== Sys2Proof/Machine/Sparse.lean ====
section
/-! DEFINITION. Reading and writing sparse tables and byte memories; bytes, words, lanes and elements of registers. -/

namespace Sys2Proof.Machine
open Sys2Proof

/-! Sparse tables. -/

/-- What key k holds; `d` where the table does not list it. -/
def sget {α : Type} (d : α) : Sparse α → Nat → α
  | [], _ => d
  | (a, v) :: t, k => if a = k then v else sget d t k

/-- The table with k's entry put in its place. -/
def sput {α : Type} (k : Nat) (v : α) : Sparse α → Sparse α
  | [] => [(k, v)]
  | (a, w) :: t => if k < a then (k, v) :: (a, w) :: t else if k = a then (k, v) :: t else (a, w) :: sput k v t

/-- As sput, with the entry left out when it is the default. -/
def sset {α : Type} [DecidableEq α] (d : α) (k : Nat) (v : α) (m : Sparse α) : Sparse α :=
  let m' := m.filter (fun e => e.1 != k)
  if v = d then m' else sput k v m'

/-- Members of a strictly rising list of numbers. -/
def ninsert (k : Nat) : List Nat → List Nat
  | [] => [k]
  | a :: t => if k < a then k :: a :: t else if k = a then a :: t else a :: ninsert k t
def nerase (k : Nat) (m : List Nat) : List Nat := m.filter (· != k)

/-! Byte memories. -/

/-- The byte at an address: zero where nothing is listed (log 2). -/
def Mem.byte (m : Mem) (a : Nat) : Byte := sget 0 m a

/-- The n bytes from an address. -/
def Mem.read (m : Mem) (a n : Nat) : List Byte :=
  let w := m.filter (fun e => a ≤ e.1 && decide (e.1 < a + n))
  (List.range n).map (fun i => sget 0 w (a + i))

/-- Cells of a run of bytes from an address, zero bytes left out. -/
def cellsOf (a : Nat) : List Byte → Mem
  | [] => []
  | b :: t => if b = 0 then cellsOf (a + 1) t else (a, b) :: cellsOf (a + 1) t

/-- The bytes from an address written, in the canonical form. -/
def Mem.write (m : Mem) (a : Nat) (bs : List Byte) : Mem :=
  m.filter (fun e => e.1 < a) ++ cellsOf a bs ++ m.filter (fun e => a + bs.length ≤ e.1)

/-- Bytes merged under bit enables: the bits of `x` where `m` is one. -/
def mergeByte (old x m : Byte) : Byte := (old &&& ~~~m) ||| (x &&& m)

/-- A write with bit enables. -/
def Mem.merge (m : Mem) (a : Nat) (ds : List (Byte × Byte)) : Mem :=
  Mem.write m a (List.zipWith (fun o d => mergeByte o d.1 d.2) (Mem.read m a ds.length) ds)

/-- Strictly rising addresses and no zero byte listed. -/
def Mem.wf : Mem → Bool
  | [] => true
  | [(_, b)] => b != 0
  | (a, b) :: (a', b') :: t => b != 0 && decide (a < a') && Mem.wf ((a', b') :: t)

/-! Bytes and numbers, little-endian (00 R4). -/

def bytesToNat : List Byte → Nat
  | [] => 0
  | b :: t => b.toNat + 256 * bytesToNat t

def natToBytes : Nat → Nat → List Byte
  | 0, _ => []
  | n + 1, x => BitVec.ofNat 8 x :: natToBytes n (x / 256)

def Mem.nat (m : Mem) (a n : Nat) : Nat := bytesToNat (Mem.read m a n)
def Mem.word (m : Mem) (a : Nat) : Word := BitVec.ofNat 64 (Mem.nat m a 8)
def vecOfBytes (bs : List Byte) : Vec := BitVec.ofNat 2048 (bytesToNat bs)
def vecBytes (v : Vec) (n : Nat := 256) : List Byte := natToBytes n v.toNat
def wordBytes (w : Word) (n : Nat := 8) : List Byte := natToBytes n w.toNat

/-! Lanes and elements (03 R46, 05 R94, 09 R175). -/

/-- Element e of width w of the bit stream of a register. -/
def elem (w : Nat) (v : Vec) (e : Nat) : BitVec w := v.extractLsb' (w * e) w
def lane (v : Vec) (j : Nat) : W32 := v.extractLsb' (32 * j) 32
/-- Bits packed from the least significant group up. -/
def packNat (w : Nat) : List Nat → Nat
  | [] => 0
  | x :: t => x % 2 ^ w + 2 ^ w * packNat w t
/-- The register whose elements of width w, from element 0, are given; the rest is zero. -/
def ofElems (w n : Nat) (f : Nat → Nat) : Vec := BitVec.ofNat 2048 (packNat w ((List.range n).map f))
def ofLanes (f : Nat → W32) : Vec := ofElems 32 64 (fun j => (f j).toNat)
/-- The bits of the lanes whose guard bit is one. -/
def laneMask (g : Word) : Vec := ofElems 32 64 (fun j => if g.getLsbD j then 0xFFFFFFFF else 0)
/-- The bits of the elements 64·grp + i whose guard bit i is one. -/
def groupMask (w grp : Nat) (g : Word) : Vec :=
  BitVec.ofNat 2048 (packNat w ((List.range 64).map (fun i => if g.getLsbD i then 2 ^ w - 1 else 0)) * 2 ^ (64 * w * grp))
def mixBits (old new mask : Vec) : Vec := (old &&& ~~~mask) ||| (new &&& mask)
def maskWord (g : Word) (f : Nat → Bool) : Word :=
  BitVec.ofNat 64 (packNat 1 ((List.range 64).map (fun j => if g.getLsbD j && f j then 1 else 0)))
/-- Number of one bits. -/
def onesIn (w : Word) : Nat := ((List.range 64).filter (fun j => w.getLsbD j)).length
def sx (w : Nat) (x : BitVec w) : Int := x.toInt

end Sys2Proof.Machine
end

