-- ==== Sys2Proof/Machine/Numbers.lean ====
section
/-! DEFINITION. Number formats, exact values, rounding, conversion, ranking and residues (05). -/

namespace Sys2Proof.Machine
open Sys2Proof

/-- An exact value: (−1)^neg × m × 2^e, an infinity or a NaN. -/
inductive FVal where
  | nan
  | inf (neg : Bool)
  | fin (neg : Bool) (m : Nat) (e : Int)
  deriving DecidableEq, Repr

/-- Fraction width (05 Table 5.1). -/
def Fmt.mbits : Fmt → Nat
  | .f32 => 23 | .bf16 => 7 | .fp16 => 10 | .fp8a => 3 | .fp8b => 2 | .fp6a => 2 | .fp6b => 3 | .fp4 => 1
  | .bk8a => 3 | .bk8b => 2 | .bk6a => 2 | .bk6b => 3 | .bk4 => 1
  | _ => 0

/-- Bias (05 Table 5.1). -/
def Fmt.bias : Fmt → Nat
  | .f32 | .bf16 => 127
  | .fp16 | .fp8b | .bk8b => 15
  | .fp8a | .bk8a => 7
  | .fp6a | .bk6a => 3
  | _ => 1

/-- Magnitude code of the largest finite value (05 Table 5.1). -/
def Fmt.maxCode : Fmt → Nat
  | .f32 => 0x7F7FFFFF | .bf16 => 0x7F7F | .fp16 => 0x7BFF | .fp8a | .bk8a => 0x7E | .fp8b | .bk8b => 0x7B
  | .fp6a | .fp6b | .bk6a | .bk6b => 0x1F | _ => 0x7

/-- Whether the format has infinities. -/
def Fmt.hasInf : Fmt → Bool
  | .f32 | .bf16 | .fp16 | .fp8b | .bk8b => true
  | _ => false

/-- Canonical NaN; +0 in the formats that have none (05 Tables 5.1, 5.5). -/
def Fmt.nanCode : Fmt → Nat
  | .f32 => 0x7FC00000 | .bf16 => 0x7FC0 | .fp16 => 0x7E00 | .fp8a | .bk8a => 0x7F | .fp8b | .bk8b => 0x7E
  | _ => 0

/-- Exponent of the least subnormal. -/
def Fmt.lsb (f : Fmt) : Int := 1 - (Fmt.bias f : Int) - (Fmt.mbits f : Int)

/-- The element format of a block format, and its emax (05 Table 5.3). -/
def Fmt.elemOf : Fmt → Fmt
  | .bk8a => .fp8a | .bk8b => .fp8b | .bk6a => .fp6a | .bk6b => .fp6b | .bk4 => .fp4 | f => f
def Fmt.emax : Fmt → Int
  | .fp8a => 8 | .fp8b => 15 | .fp6a => 4 | _ => 2

/-- The value of a code of a floating-point format (05 R89). -/
def decodeF (f : Fmt) (code : Nat) : FVal :=
  let neg := decide (2 ^ (Fmt.width f - 1) ≤ code)
  let c := code % 2 ^ (Fmt.width f - 1)
  let mb := Fmt.mbits f
  if Fmt.hasInf f && c == Fmt.maxCode f + 1 then .inf neg
  else if (Fmt.hasInf f || f == .fp8a || f == .bk8a) && decide (Fmt.maxCode f < c) then .nan
  else if c < 2 ^ mb then .fin neg c (Fmt.lsb f)
  else .fin neg (c % 2 ^ mb + 2 ^ mb) (Fmt.lsb f + (c / 2 ^ mb : Nat) - 1)

/-- The value of an integer code. -/
def decodeI (f : Fmt) (code : Nat) : Int :=
  match f with
  | .int32 => if 2 ^ 31 ≤ code then (code : Int) - 2 ^ 32 else code
  | .int8 => if 2 ^ 7 ≤ code then (code : Int) - 2 ^ 8 else code
  | _ => code

/-- The exact value of a code of any element format. -/
def decodeAny (f : Fmt) (code : Nat) : FVal :=
  if f.isFloat then decodeF f code else .fin (decide (decodeI f code < 0)) (decodeI f code).natAbs 0

def signBit (f : Fmt) (neg : Bool) : Nat := if neg then 2 ^ (Fmt.width f - 1) else 0

/-- The overflow rule (05 R98). -/
def overflowF (f : Fmt) (mode : RMode) (neg : Bool) : Nat :=
  let big := signBit f neg + Fmt.maxCode f
  if !Fmt.hasInf f then big
  else match mode with
    | .rne | .sr => big + 1
    | .rtz => big
    | .rdn => if neg then big + 1 else big
    | .rup => if neg then big else big + 1

/-- Whether a magnitude lo + rem/2^sh rounds up: `odd` is lo's low bit, `u` the draw of SR (05 R97, R101). -/
def roundUp (mode : RMode) (neg odd : Bool) (rem sh u : Nat) : Bool :=
  match mode with
  | .rne => decide (2 ^ sh < 2 * rem) || (decide (2 * rem = 2 ^ sh) && odd)
  | .rtz => false
  | .rdn => neg && rem != 0
  | .rup => !neg && rem != 0
  | .sr => if neg then rem != 0 && !decide (u * 2 ^ sh < (2 ^ sh - rem) * 2 ^ 32) else decide (u * 2 ^ sh < rem * 2 ^ 32)

def bitLen (m : Nat) : Nat := if m = 0 then 0 else Nat.log2 m + 1

/-- A finite value rounded to a format: its code (05 R97, R98). A zero keeps the sign given. -/
def roundFin (f : Fmt) (mode : RMode) (neg : Bool) (m : Nat) (e : Int) (u : Nat := 0) : Nat :=
  if m = 0 then signBit f neg
  else
    let mb := Fmt.mbits f
    let L := bitLen m
    let top : Int := L - 1 + e
    if top > (Fmt.lsb f) + 300 then overflowF f mode neg
    else
      let q := max (Fmt.lsb f) (top - mb)
      let n := if q ≤ e then m * 2 ^ (e - q).toNat
        else
          let sh := min (q - e).toNat (L + 40)
          let lo := m / 2 ^ sh
          if roundUp mode neg (lo % 2 == 1) (m % 2 ^ sh) sh u then lo + 1 else lo
      let code := (q - Fmt.lsb f).toNat * 2 ^ mb + n
      if Fmt.maxCode f < code then overflowF f mode neg else signBit f neg + code

/-- A value rounded to a floating-point format (05 R91, R97 to R99). -/
def roundTo (f : Fmt) (mode : RMode) (x : FVal) (u : Nat := 0) : Nat :=
  match x with
  | .nan => Fmt.nanCode f
  | .inf neg => signBit f neg + (if Fmt.hasInf f then Fmt.maxCode f + 1 else Fmt.maxCode f)
  | .fin neg m e => roundFin f mode neg m e u

def rne32 (x : FVal) : W32 := BitVec.ofNat 32 (roundTo .f32 .rne x)

/-! Exact arithmetic (05 R91, R103). -/

/-- m × 2^e with the exponent lowered to `lo`. -/
def alignTo (lo : Int) (m : Nat) (e : Int) : Nat := m * 2 ^ (e - lo).toNat

def FVal.neg : FVal → FVal
  | .nan => .nan
  | .inf n => .inf (!n)
  | .fin n m e => .fin (!n) m e

/-- Exact sum of finite values. An exact zero is +0, or −0 when both are −0. -/
def addFin (n1 : Bool) (m1 : Nat) (e1 : Int) (n2 : Bool) (m2 : Nat) (e2 : Int) : FVal :=
  if m1 = 0 then (if m2 = 0 then .fin (n1 && n2) 0 0 else .fin n2 m2 e2)
  else if m2 = 0 then .fin n1 m1 e1
  else
    let lo := min e1 e2
    let a := alignTo lo m1 e1
    let b := alignTo lo m2 e2
    if n1 = n2 then .fin n1 (a + b) lo
    else if a = b then .fin false 0 0
    else if b < a then .fin n1 (a - b) lo else .fin n2 (b - a) lo

def FVal.add : FVal → FVal → FVal
  | .nan, _ => .nan
  | _, .nan => .nan
  | .inf a, .inf b => if a = b then .inf a else .nan
  | .inf a, _ => .inf a
  | _, .inf b => .inf b
  | .fin n1 m1 e1, .fin n2 m2 e2 => addFin n1 m1 e1 n2 m2 e2

def FVal.sub (a b : FVal) : FVal := a.add b.neg

def FVal.mul : FVal → FVal → FVal
  | .nan, _ => .nan
  | _, .nan => .nan
  | .inf a, .inf b => .inf (xor a b)
  | .inf a, .fin b m _ => if m = 0 then .nan else .inf (xor a b)
  | .fin a m _, .inf b => if m = 0 then .nan else .inf (xor a b)
  | .fin a m e, .fin b k f => .fin (xor a b) (m * k) (e + f)

def FVal.scale (x : FVal) (k : Int) : FVal :=
  match x with
  | .fin n m e => .fin n m (e + k)
  | y => y

def FVal.isZero : FVal → Bool
  | .fin _ m _ => m == 0
  | _ => false
def FVal.isNan : FVal → Bool
  | .nan => true
  | _ => false
def FVal.isFinite : FVal → Bool
  | .fin _ _ _ => true
  | _ => false
/-- F(v) of the hop identity: v when finite, else 0 (05 R111). -/
def FVal.finitePart : FVal → FVal
  | .fin n m e => .fin n m e
  | _ => .fin false 0 0

/-! Rounding to an integer. -/

/-- A finite value rounded to an integer magnitude by a mode (05 Table 5.5). -/
def roundInt (mode : RMode) (neg : Bool) (m : Nat) (e : Int) (u : Nat := 0) : Nat :=
  if 0 ≤ e then m * 2 ^ (min e.toNat 300)
  else
    let sh := min (-e).toNat (bitLen m + 40)
    let lo := m / 2 ^ sh
    if roundUp mode neg (lo % 2 == 1) (m % 2 ^ sh) sh u then lo + 1 else lo

def minOf : Fmt → Int
  | .int32 => -(2 ^ 31) | .int8 => -(2 ^ 7) | _ => 0
def maxOf : Fmt → Int
  | .int32 => 2 ^ 31 - 1 | .int8 => 2 ^ 7 - 1 | .uint32 => 2 ^ 32 - 1 | _ => 2 ^ 8 - 1
def clampTo (f : Fmt) (x : Int) : Int := max (minOf f) (min (maxOf f) x)
/-- The low w bits of an integer. -/
def wrapInt (w : Nat) (x : Int) : Nat := (x % (2 ^ w : Int)).toNat

/-- convert() of VCVT: a code of `src` as a code of `dst` (05 R99, Table 5.5, 09 R186). DESIGN CHOICE (log 81): an integer that an integer
format as wide or wider does not hold is clamped to its range, as R186 clamps for a narrower one. -/
def convert (dst src : Fmt) (mode : RMode) (code u : Nat) : Nat :=
  if dst.isFloat then roundTo dst mode (decodeAny src code) u
  else if src.isFloat then
    match decodeF src code with
    | .nan => 0
    | .inf neg => wrapInt (Fmt.width dst) (if neg then minOf dst else maxOf dst)
    | .fin neg m e =>
      let n := roundInt mode neg m e u
      wrapInt (Fmt.width dst) (clampTo dst (if neg then -(n : Int) else n))
  else wrapInt (Fmt.width dst) (clampTo dst (decodeI src code))

/-! Element arithmetic, each result rounded once (09 R178). -/

def fop2 (f : Fmt) (op : FVal → FVal → FVal) (a b : Nat) : Nat := roundTo f .rne (op (decodeF f a) (decodeF f b))
def ffma (f : Fmt) (a b d : Nat) : Nat := roundTo f .rne (((decodeF f a).mul (decodeF f b)).add (decodeF f d))
def ffms (f : Fmt) (a b d : Nat) : Nat := roundTo f .rne (((decodeF f a).mul (decodeF f b)).add (decodeF f d).neg)
def ffnma (f : Fmt) (a b d : Nat) : Nat := roundTo f .rne ((decodeF f d).add ((decodeF f a).mul (decodeF f b)).neg)

/-- VRINT: the nearest integer, ties to even, with the sign of a (09 R178). -/
def frint (f : Fmt) (a : Nat) : Nat :=
  match decodeF f a with
  | .fin neg m e => roundFin f .rne neg (roundInt .rne neg m e) 0
  | x => roundTo f .rne x

/-- VSCALE: a × 2^n (09 R178). -/
def fscale (a : Nat) (n : Int) : Nat := roundTo .f32 .rne ((decodeF .f32 a).scale n)

/-- Order of the codes of a format that are no NaN: −0 below +0 when `zeros` is set (09 R178, R182). -/
def ordKey (f : Fmt) (zeros : Bool) (code : Nat) : Int :=
  let mag := code % 2 ^ (Fmt.width f - 1)
  if 2 ^ (Fmt.width f - 1) ≤ code then -(mag : Int) - (if zeros then 1 else 0) else mag

def isNanCode (f : Fmt) (code : Nat) : Bool := (decodeF f code).isNan

def fminmax (f : Fmt) (mx : Bool) (a b : Nat) : Nat :=
  if isNanCode f a || isNanCode f b then Fmt.nanCode f
  else
    let ka := ordKey f true a
    let kb := ordKey f true b
    if mx then (if ka < kb then b else a) else (if kb < ka then b else a)

/-- The element operations by format: the low w bits of the result. -/
def eAdd (f : Fmt) (a b : Nat) : Nat := if f.isFloat then fop2 f FVal.add a b else (a + b) % 2 ^ Fmt.width f
def eSub (f : Fmt) (a b : Nat) : Nat :=
  if f.isFloat then fop2 f FVal.sub a b else wrapInt (Fmt.width f) ((a : Int) - b)
def eMul (f : Fmt) (a b : Nat) : Nat := fop2 f FVal.mul a b
def eMinMax (f : Fmt) (mx : Bool) (a b : Nat) : Nat :=
  if f.isFloat then fminmax f mx a b
  else if mx then (if decodeI f a < decodeI f b then b else a) else (if decodeI f b < decodeI f a then b else a)
def eAbs (f : Fmt) (a : Nat) : Nat :=
  if f.isFloat then a % 2 ^ (Fmt.width f - 1) else wrapInt (Fmt.width f) ((decodeI f a).natAbs : Int)
def eNeg (f : Fmt) (a : Nat) : Nat :=
  if f.isFloat then (if 2 ^ (Fmt.width f - 1) ≤ a then a - 2 ^ (Fmt.width f - 1) else a + 2 ^ (Fmt.width f - 1))
  else wrapInt (Fmt.width f) (-(decodeI f a))
def eAdds (f : Fmt) (a b : Nat) : Nat := wrapInt (Fmt.width f) (clampTo f (decodeI f a + decodeI f b))
def eSubs (f : Fmt) (a b : Nat) : Nat := wrapInt (Fmt.width f) (clampTo f (decodeI f a - decodeI f b))
def eMulHi (f : Fmt) (a b : Nat) : Nat := wrapInt 32 (decodeI f a * decodeI f b / 2 ^ 32)

/-! Special functions (09 R187). -/

/-- floor(√n) for n < 4^k, bit by bit from the top. -/
def isqrt : Nat → Nat → Nat → Nat
  | 0, _, r => r
  | k + 1, n, r => if (r + 2 ^ k) * (r + 2 ^ k) ≤ n then isqrt k n (r + 2 ^ k) else isqrt k n r

/-- A truncated result with one more bit that is set when something was cut off: rounding it once gives the rounding of the exact value. -/
def withSticky (q : Nat) (inexact : Bool) : Nat := 2 * q + (if inexact then 1 else 0)

/-- 1/a. -/
def frcp (a : Nat) : Nat :=
  match decodeF .f32 a with
  | .nan => Fmt.nanCode .f32
  | .inf neg => signBit .f32 neg
  | .fin neg m e =>
    if m = 0 then signBit .f32 neg + 0x7F800000
    else
      let k := bitLen m + 30
      roundFin .f32 .rne neg (withSticky (2 ^ k / m) (2 ^ k % m != 0)) (-(k : Int) - 1 - e)

/-- 1/√a. -/
def frsq (a : Nat) : Nat :=
  match decodeF .f32 a with
  | .nan => Fmt.nanCode .f32
  | .inf neg => if neg then Fmt.nanCode .f32 else 0
  | .fin neg m e =>
    if m = 0 then signBit .f32 neg + 0x7F800000
    else if neg then Fmt.nanCode .f32
    else
      let m' := if e % 2 = 0 then m else 2 * m
      let e' := if e % 2 = 0 then e else e - 1
      let k := bitLen m' / 2 + 32
      let r := isqrt 40 (2 ^ (2 * k) / m') 0
      roundFin .f32 .rne false (withSticky r (r * r * m' != 2 ^ (2 * k))) (-(k : Int) - 1 - e' / 2)

/-- 2^(2^−i) × 2^128, rounded down, for i = 1 to 50. -/
def expRoots : Nat → Nat → List Nat
  | 0, _ => []
  | n + 1, c => let r := isqrt 130 (c * 2 ^ 128) 0; r :: expRoots n r

/-- Product of the roots whose bit of the fraction is set, from the top bit down, scaled by 2^128. -/
def expProd (frac : Nat) : List Nat → Nat → Nat → Nat
  | [], _, acc => acc
  | r :: t, i, acc => expProd frac t (i - 1) (if frac / 2 ^ (i - 1) % 2 = 1 then acc * r / 2 ^ 128 else acc)

/-- 2^a, with the roots given (log 10). -/
def fexp2 (roots : List Nat) (a : Nat) : Nat :=
  match decodeF .f32 a with
  | .nan => Fmt.nanCode .f32
  | .inf neg => if neg then 0 else 0x7F800000
  | .fin neg m e =>
    if m = 0 then 0x3F800000
    else
      let top : Int := bitLen m - 1 + e
      if top < -26 then 0x3F800000
      else if 8 ≤ top then (if neg then 0 else 0x7F800000)
      else
        -- a × 2^50 is an integer: e ≥ −49 here
        let x : Int := (if neg then -(1 : Int) else 1) * (m * 2 ^ (e + 50).toNat : Nat)
        let i := x / 2 ^ 50
        let frac := (x % 2 ^ 50).toNat
        if frac = 0 then roundFin .f32 .rne false 1 i
        else roundFin .f32 .rne false (withSticky (expProd frac roots 50 (2 ^ 128)) true) (i - 129)

/-! Ranking (05 R108). -/

/-- a at index i ranks before b at index j. -/
def ranksBefore (f : Fmt) (a i b j : Nat) : Bool :=
  if f.isFloat then
    if isNanCode f a then isNanCode f b && decide (i < j)
    else if isNanCode f b then true
    else
      let ka := ordKey f false a
      let kb := ordKey f false b
      decide (kb < ka) || (ka == kb && decide (i < j))
  else decide (decodeI f b < decodeI f a) || (a == b && decide (i < j))

/-! Stochastic rounding (05 R100). -/

def srgNext (x : W32) : W32 :=
  let x1 := x ^^^ (x <<< 13)
  let x2 := x1 ^^^ (x1 >>> 17)
  x2 ^^^ (x2 <<< 5)

/-- The next n draws, and the generator after them. -/
def draws : Nat → W32 → List Nat × W32
  | 0, g => ([], g)
  | n + 1, g => let g' := srgNext g; let r := draws n g'; (g'.toNat :: r.1, r.2)

/-- SRG at a seat's first bundle. -/
def srgStart (team seat : Nat) : W32 :=
  let x := BitVec.ofNat 32 team ^^^ BitVec.ofNat 32 (seat * 0x9E3779B9)
  if x = 0 then 1 else x

/-! Block quantisation (05 R102). -/

/-- floor(log2) of a positive value. -/
def FVal.log2 : FVal → Int
  | .fin _ m e => bitLen m - 1 + e
  | _ => 0

/-- The larger magnitude of two finite values. -/
def magMax (a b : FVal) : FVal :=
  match a, b with
  | .fin _ m e, .fin _ n f => if alignTo (min e f) m e < alignTo (min e f) n f then .fin false n f else .fin false m e
  | x, _ => x

/-- blk(x, F, ρ): the scale byte and the 64 elements. -/
def blk (xs : List FVal) (f : Fmt) (mode : RMode) (us : List Nat) : Nat × List Nat :=
  if xs.any (fun x => !x.isFinite) then (0xFF, xs.map (fun _ => 0))
  else
    let m := xs.foldl magMax (.fin false 0 0)
    let sc : Int := if m.isZero then 127 else max 0 (min 254 (m.log2 - Fmt.emax f + 127))
    let el := List.zipWith (fun x u =>
      match x.scale (127 - sc) with
      | .fin neg m e =>
        let r := roundFin f mode neg m e u
        if Fmt.maxCode f < r % 2 ^ (Fmt.width f - 1) then signBit f neg + Fmt.maxCode f else r
      | _ => 0) xs us
    (sc.toNat, el)

/-! Residues (05 R109, R110). -/

def resP : Nat := 2 ^ 61 - 1
/-- residue of an exact value. -/
def residue : FVal → Nat
  | .fin neg m e =>
    let r := m % resP * 2 ^ (e % 61).toNat % resP
    if neg then (resP - r) % resP else r
  | _ => 0
/-- b^e modulo m, for exponents below 2^fuel. -/
def powMod (m : Nat) : Nat → Nat → Nat → Nat
  | 0, _, _ => 1
  | f + 1, b, e =>
    let h := powMod m f (b * b % m) (e / 2)
    if e % 2 = 1 then b * h % m else h

end Sys2Proof.Machine
end

