-- ==== Sys2Proof/Machine/Ops.lean ====
section
/-! DEFINITION. The named operations over a core's registers, its results in flight and its memory, and taking an exception: events split
the bundle, freeze the seat and post a trap message (18 R326, R327, 19 R341, R342), with the return from one beside it (19 R343, R345). -/

namespace Sys2Proof.Machine
open Sys2Proof

/-! Cores. -/

def State.core (s : State) (c : Nat) : Core := sget {} s.cores c
def State.setCore (s : State) (c : Nat) (k : Core) : State := { s with cores := sput c k s.cores }
def State.modCore (s : State) (c : Nat) (f : Core → Core) : State := s.setCore c (f (s.core c))
/-- The core whose bundle issues. -/
def State.cur (s : State) : Core := s.core s.ctx.core
def State.setCur (s : State) (k : Core) : State := s.setCore s.ctx.core k
def State.modCur (s : State) (f : Core → Core) : State := s.modCore s.ctx.core f
def State.gal (s : State) (g : Nat) : Gallery := sget {} s.gals g
def State.setGal (s : State) (g : Nat) (x : Gallery) : State := { s with gals := sput g x s.gals }
def State.modGal (s : State) (g : Nat) (f : Gallery → Gallery) : State := s.setGal g (f (s.gal g))
def State.hall (s : State) (h : Nat) : Hall := sget {} s.halls h
def State.modHall (s : State) (h : Nat) (f : Hall → Hall) : State := { s with halls := sput h (f (s.hall h)) s.halls }
def State.job (s : State) (j : Nat) : Option Job := s.jobs.find? (·.id == j)
def State.modJob (s : State) (j : Nat) (f : Job → Job) : State :=
  { s with jobs := s.jobs.map (fun x => if x.id = j then f x else x) }
def State.task (s : State) (t : Nat) : Option Task := s.tasks.find? (·.id == t)
def State.modTask (s : State) (t : Nat) (f : Task → Task) : State :=
  { s with tasks := s.tasks.map (fun x => if x.id = t then f x else x) }
def State.worldOf (s : State) (j w : Nat) : Option World := (s.job j).bind (fun x => x.worlds.find? (·.num == w))

/-- Physical gallery and position of a core (01 R10). -/
def galOf (c : Nat) : Nat := c / 8
def posOf (c : Nat) : Nat := c % 8
def hallOf (c : Nat) : Nat := c / 128
/-- The gallery width of a team (02 R23). -/
def Core.width (k : Core) : Nat := if k.lock then 4 else 8
/-- The own team gallery (04 R71). -/
def Core.ownTeamGal (k : Core) : Nat := k.seat / k.width

/-- Cycles are counted modulo 2⁶⁴ when a register shows them. -/
def word64 (n : Nat) : Word := BitVec.ofNat 64 n

/-- The schedule cycle of a seat (03 R50). -/
def Core.sched (k : Core) : Nat := k.cyc - k.frz

/-! Registers. -/

def RegFile.sreg (r : RegFile) (n : Nat) : Word := if n = 0 then 0 else sget 0 r.s n
def RegFile.preg (r : RegFile) (n : Nat) : Word := if n = 0 then BitVec.allOnes 64 else sget 0 r.p n
/-- s0 keeps no value (03 R46). -/
def RegFile.setS (r : RegFile) (n : Nat) (v : Word) (poison : Bool) : RegFile :=
  if n = 0 then r
  else { r with s := sset 0 n v r.s, sPoison := if poison then ninsert n r.sPoison else nerase n r.sPoison }
def RegFile.setP (r : RegFile) (n : Nat) (v : Word) : RegFile := if n = 0 then r else { r with p := sset 0 n v r.p }

/-- Near-SRAM offset of physical vector register i (03 R53). -/
def vbase (i : Nat) : Nat := 0x40000 - 256 * (i + 1)
def RegFile.vreg (r : RegFile) (phys : Nat) : Vec := vecOfBytes (r.near.read (vbase phys) 256)
/-- Poison of the words of [a, a + n) of near SRAM, bit j for the j-th word (19 R351). -/
def poisonBits (ps : List Nat) (a n : Nat) : Word :=
  BitVec.ofNat 64 (packNat 1 ((List.range ((n + 3) / 4)).map (fun j => if ps.contains (a / 4 + j) then 1 else 0)))
def RegFile.vpoison (r : RegFile) (phys : Nat) : Word := poisonBits r.nearPoison (vbase phys) 256

/-- The words that a write with bit enables touches, and whether it writes each whole. -/
def wordsTouched (a : Nat) (ds : List (Byte × Byte)) : List (Nat × Bool) :=
  (List.range ((a + ds.length + 3) / 4 - a / 4)).filterMap (fun j =>
    let w := a / 4 + j
    let es := (List.range 4).map (fun i => if 4 * w + i < a then 0 else ((ds[4 * w + i - a]?).map (·.2)).getD 0)
    if es.all (· == 0) then none else some (w, es.all (· == 0xFF)))

/-- Poisoned words and bit errors after a write: a word written whole takes the write's poison and fresh check bits; a merge corrects a
single error and poisons an uncorrectable word (21 R420). -/
def upkeep (ps : List Nat) (soft : Sparse Nat) (a : Nat) (ds : List (Byte × Byte)) (p : Bool) : List Nat × Sparse Nat :=
  if ps.isEmpty && soft.isEmpty && !p then (ps, soft)
  else (wordsTouched a ds).foldl (fun acc e =>
    let bad := p || (!e.2 && (acc.1.contains e.1 || sget 0 acc.2 e.1 == 2))
    (if bad then ninsert e.1 acc.1 else nerase e.1 acc.1, sset 0 e.1 0 acc.2)) (ps, soft)

/-- Every bit of a byte enabled. -/
def full (bs : List Byte) : List (Byte × Byte) := bs.map (fun b => (b, 0xFF))

/-- Bytes written to near SRAM under bit enables. -/
def RegFile.mergeNear (r : RegFile) (a : Nat) (ds : List (Byte × Byte)) (p : Bool := false) : RegFile :=
  let u := upkeep r.nearPoison r.soft a ds p
  { r with near := r.near.merge a ds, nearPoison := u.1, soft := u.2 }

/-- The bits of physical register i where the mask is one are written; its words take the poison given. -/
def RegFile.setV (r : RegFile) (i : Nat) (v mask : Vec) (poison : Word) : RegFile :=
  let r' := r.mergeNear (vbase i) ((vecBytes v).zip (vecBytes mask))
  if poison = 0 then r'
  else { r' with nearPoison := (List.range 64).foldl (fun acc j =>
      if poison.getLsbD j && lane mask j != 0 then ninsert (vbase i / 4 + j) acc else acc) r'.nearPoison }

/-- Renaming of a vector name (03 R56). -/
def RegFile.rename (r : RegFile) (k : Nat) : Nat :=
  if r.rsize ≠ 0 ∧ r.rbase ≤ k ∧ k < r.rbase + r.rsize then r.rbase + ((k - r.rbase + r.rrb) % r.rsize) else k

/-- The scratchpad limit (03 R53). -/
def RegFile.limit (r : RegFile) : Nat := 0x40000 - 16384 * r.allot

/-! Reading operands: a value, or the event that the read raises. -/

/-- What an operation does: a result, or an event with its VALUE. -/
abbrev R (α : Type) := Except (Code × Word) α

def raiseIf (b : Bool) (c : Code) (v : Word) : R Unit := if b then .error (c, v) else .ok ()

/-- The physical register of a name, checked after stepping and after renaming (19 R348). -/
def vphys (r : RegFile) (name : Int) : R Nat :=
  if name < 0 ∨ 1023 < name then .error (.vregrange, BitVec.ofInt 64 name)
  else
    let i := r.rename name.toNat
    if 64 * r.allot ≤ i then .error (.vregrange, BitVec.ofInt 64 name) else .ok i

/-- A name stepped by the sticky form's STEP at the context's step count (07 R146). -/
def State.stepped (s : State) (st : Sticky) (n : VReg) : Int := n.toNat + s.ctx.step * st.step.toInt
def noStep : Sticky := ⟨false, 0⟩

def State.src (s : State) : RegFile := s.ctx.src
/-- The latch of a field of the issuing slot: 0 for D, 1 for S1, 2 for S2 (07 R147). DESIGN CHOICE (log 9): a held use of a sticky re-issue
whose latch has become invalid, or holds the other class, reads what the latch stores, 0 after a release. -/
def State.latch (s : State) (field : Nat) : Latch := sget {} s.ctx.src.latches (3 * s.ctx.slot + field)

/-- A scalar source as the bundle reads it (03 R44). -/
def State.rdS (s : State) (field : Nat) (a : SSrc) : Word :=
  match a with
  | .reg n => s.src.sreg n.toNat
  | .latch n => s.src.sreg n.toNat
  | .held => (s.latch field).value.setWidth 64

/-- A vector source as the bundle reads it. -/
def State.rdV (s : State) (field : Nat) (st : Sticky) (a : VSrc) : R Vec :=
  match a with
  | .reg n => do
    let i ← vphys s.src (s.stepped st n)
    .ok (s.src.vreg i)
  | .latch n => do
    let i ← vphys s.src n.toNat
    .ok (s.src.vreg i)
  | .held => .ok (s.latch field).value

/-- The physical register of a vector destination. -/
def State.dstV (s : State) (st : Sticky) (d : VReg) : R Nat := vphys s.src (s.stepped st d)

/-- The guard as a 64-bit mask (03 R51, 07 R138). -/
def State.guard (s : State) (g : Guard) : Word :=
  let p := s.src.preg g.pred.toNat
  if g.neg then ~~~p else p
/-- A scalar guard tests lane bit 0. -/
def State.on (s : State) (g : Guard) : Bool := (s.guard g).getLsbD 0

/-! Results in flight. -/

def Core.push (k : Core) (p : Pend) : Core := { k with inflight := k.inflight ++ [p] }

/-- A result of the issuing slot, `lat` cycles after the issue cycle (00 R7, 03 R57). -/
def State.result (s : State) (lat : Nat) (d : Dest) (v : Vec) (mask : Vec := BitVec.allOnes 2048) (poison : Word := 0) : State :=
  s.modCur (·.push { due := s.ctx.cyc + lat, slot := s.ctx.slot, iss := s.cur.issued, dest := d, value := v, mask := mask, poison := poison })
/-- A write to s0 has no effect and takes no place in the commit order (03 R46). -/
def State.resultS (s : State) (lat : Nat) (n : Nat) (v : Word) : State :=
  if n = 0 then s else s.result lat (.s n) (v.setWidth 2048)
/-- A loaded value with the poison of its words; a scalar is poisoned by any of them (19 R351). -/
def State.resultX (s : State) (lat : Nat) (d : Dest) (v : Vec) (poison : Word) : State :=
  if d = .s 0 then s else s.result lat d v (BitVec.allOnes 2048) poison
def State.resultP (s : State) (lat : Nat) (n : Nat) (v : Word) (mask : Word := BitVec.allOnes 64) : State :=
  s.result lat (.p n) (v.setWidth 2048) (mask.setWidth 2048)

/-- SRWR to ALLOT, RBASE, RSIZE, RRB, LCNT, DOM0 to DOM3 and CST (08 R159, 03 R56). Numbers are those of Table 3.4. RRB comes as its
bundle has reduced it. -/
def Core.writeSpecial (k : Core) (n : Nat) (v : Word) : Core :=
  let low (w : Nat) : Nat := v.toNat % 2 ^ w
  if 0x004 ≤ n ∧ n ≤ 0x007 then { k with dom := k.dom.set (n - 4) (BitVec.ofNat 64 (low 10)) }
  else if n = 0x010 then { k with rf := { k.rf with allot := low 5 } }
  else if n = 0x011 then { k with rf := { k.rf with rbase := low 10 } }
  else if n = 0x012 then { k with rf := { k.rf with rsize := low 9, rrb := 0 } }
  else if n = 0x013 then { k with rf := { k.rf with rrb := low 8 } }
  else if n = 0x014 then { k with rf := { k.rf with lcnt := v.setWidth 32 } }
  else if n = 0x020 then { k with phase := v.toNat / 2 ^ 16 % 4 }
  else k

/-- A number of its own for RRB as LOOP.R leaves it, which no SRWR names. -/
def loopRrb : Nat := 0x400

/-- A result written to its register. -/
def Core.apply (k : Core) (p : Pend) : Core :=
  match p.dest with
  | .s n => { k with rf := k.rf.setS n (p.value.setWidth 64) (p.poison != 0) }
  | .p n => { k with rf := k.rf.setP n ((mixBits ((k.rf.preg n).setWidth 2048) p.value p.mask).setWidth 64) }
  | .v i => { k with rf := k.rf.setV i p.value p.mask p.poison }
  | .special n =>
    if n = loopRrb then { k with rf := { k.rf with rrb := (p.value.setWidth 64 : Word).toNat } } else k.writeSpecial n (p.value.setWidth 64)
  | .prc => { k with rf := { k.rf with prc := (p.value.setWidth 64 : Word).toNat, prcv := true } }

/-- The commit order: by due cycle, then slot, then issue (03 R45). -/
def Pend.before (a b : Pend) : Bool :=
  decide (a.due < b.due) || (a.due == b.due && (decide (a.slot < b.slot) || (a.slot == b.slot && decide (a.iss ≤ b.iss))))

def insertPend (p : Pend) : List Pend → List Pend
  | [] => [p]
  | q :: t => if p.before q then p :: q :: t else q :: insertPend p t
def sortPend : List Pend → List Pend
  | [] => []
  | p :: t => insertPend p (sortPend t)

/-- Everything due by the present schedule cycle delivered, in commit order. -/
def Core.deliver (k : Core) (extra : List Pend := []) : Core :=
  let now := k.inflight.filter (fun p => p.due ≤ k.sched)
  (sortPend (now ++ extra)).foldl Core.apply { k with inflight := k.inflight.filter (fun p => k.sched < p.due) }

/-! Event numbers and words of messages. -/

/-- CLASS of a code (18 Table 18.1). -/
def Code.cls : Code → Nat
  | .trap _ => 0
  | .undefopc | .rsvdfield | .header | .predcluster | .hold | .specreg => 1
  | .vregrange | .limit | .landbusy | .deferfull | .cpqfull | .retstack | .target | .repcount | .region | .channel
  | .launchdepth | .tendshape | .feature => 2
  | .tag | .winlimit | .foreignscr | .align | .nopage | .writeprot | .execpage | .pteformat | .keyempty | .keygen
  | .segment | .podtarget => 3
  | .poison | .sramue | .hbmue | .corrected => 4
  | .resarrive | .reshop | .chkfail | .lockstep | .genretired => 5
  | .deadline | .descriptor => 6
  | .linkdown | .linkauth | .bankretire | .galfence | .gmcwatch | .tdierror => 7

/-- CODE (18 Table 18.1). -/
def Code.num : Code → Nat
  | .trap c => c.toNat
  | .undefopc => 0x01 | .rsvdfield => 0x02 | .header => 0x03 | .predcluster => 0x04 | .hold => 0x05 | .specreg => 0x06
  | .vregrange => 0x10 | .limit => 0x11 | .landbusy => 0x12 | .deferfull => 0x13 | .cpqfull => 0x14 | .retstack => 0x15
  | .target => 0x16 | .repcount => 0x17 | .region => 0x18 | .channel => 0x19 | .launchdepth => 0x1A | .tendshape => 0x1B
  | .feature => 0x1C
  | .tag => 0x20 | .winlimit => 0x21 | .foreignscr => 0x22 | .align => 0x23 | .nopage => 0x24 | .writeprot => 0x25
  | .execpage => 0x26 | .pteformat => 0x27 | .keyempty => 0x28 | .keygen => 0x29 | .segment => 0x2A | .podtarget => 0x2B
  | .poison => 0x30 | .sramue => 0x31 | .hbmue => 0x32 | .corrected => 0x33
  | .resarrive => 0x38 | .reshop => 0x39 | .chkfail => 0x3A | .lockstep => 0x3B | .genretired => 0x3C
  | .deadline => 0x40 | .descriptor => 0x41
  | .linkdown => 0x48 | .linkauth => 0x49 | .bankretire => 0x4A | .galfence => 0x4B | .gmcwatch => 0x4C | .tdierror => 0x4D

/-- The codes whose encoding class a word's check gives (20 R363). -/
def EncFail.code : EncFail → Code
  | .predCluster => .predcluster
  | .rsvdField => .rsvdfield
  | .hold => .hold

def boolNat (b : Bool) : Nat := if b then 1 else 0

/-- CST (03 Table 3.5). -/
def Core.cst (k : Core) : Word :=
  word64 (k.resume + k.repleft * 2 ^ 4 + k.frzcause * 2 ^ 12 + k.phase * 2 ^ 16 + k.rgd * 2 ^ 18)

/-- Identity words of messages and records (18 Table 18.3, offset 0x20). -/
def Core.identity (k : Core) : Word :=
  word64 (k.job + k.taskid * 2 ^ 16 + k.seat * 2 ^ 32 + k.world * 2 ^ 42 + k.gen * 2 ^ 48)
def identityOf (job taskid world gen : Nat) : Word := word64 (job + taskid * 2 ^ 16 + world * 2 ^ 42 + gen * 2 ^ 48)

/-- UNIT of a hall walker (18 R422). -/
def walkerUnit (hall : Nat) : Nat := 3 * 0x2000 + hall

/-- Units of I/O-die time in a microsecond: a number that every FREQ divides. -/
def wallUnits : Nat := 72072000
/-- I/O-die time, which runs on at its own clock whatever FREQ is (15 R302). -/
def State.wall (s : State) : Nat := s.host.wallBase + (s.clock - s.host.wallClock) * (wallUnits / s.host.freq)

/-- A message of a core posted in its gallery's mailbox; slot 2p for the issue stream, 2p + 1 for the sequencer, else the lowest free
shared slot (18 R326). It is posted in the first clock of the seat's freeze: the next one after a split or a walk, and the present one,
`later` 0, where the seat stops before a bundle or has issued a TRAP (18 R330). -/
def State.post (s : State) (c : Nat) (m : Msg) (later : Nat := 1) : State :=
  let k := s.core c
  let used := (s.mail.filter (fun x => x.gal == galOf c)).map (·.slot)
  let slot := if m.src = 0 then 2 * posOf c else if m.src = 1 then 2 * posOf c + 1
    else ((List.range 16).map (· + 16)).find? (fun i => !used.contains i) |>.getD 16
  let m' := { m with gal := galOf c, slot := slot, core := c, mseq := k.mseq, cst := k.cst, identity := k.identity, cyc := k.cyc
                     mpc := k.seq.mpc, posted := s.clock + later
                     wall := s.wall + later * (wallUnits / s.host.freq) }
  { s.modCore c (fun k => { k with mseq := (k.mseq + 1) % 2 ^ 32 }) with
    mail := s.mail ++ [m'], box := s.box.filter (fun e => e.1 != 32 * m'.gal + m'.slot) }

/-- The shared slots of a gallery are all taken (18 R326). -/
def State.sharedFull (s : State) (g : Nat) : Bool :=
  decide (16 ≤ (s.mail.filter (fun x => x.gal == g && decide (16 ≤ x.slot))).length)

/-- The release buffer of a LOCK pair holds what bundle number iss sends out of near SRAM until its signatures, which stand 2 cy apart, have
been compared (19 R354). -/
def Core.holdsBack (k : Core) (clock iss : Nat) : Bool := k.lock && k.recent.any (fun e => e.1 == iss && decide (clock ≤ e.2 + 2))
/-- Bytes of gallery g's vault from before stores that the release buffers of other cores than c still hold, the oldest last. -/
def State.hidden (s : State) (c g : Nat) : List (Nat × Byte) :=
  (s.cores.filter (fun e => e.2.lock && e.1 != c)).flatMap (fun e => (e.2.released.filter (fun r =>
    r.2.1 == g && e.2.holdsBack s.clock r.1)).flatMap (·.2.2))

/-! Taking an exception. -/

/-- Core c has no LAUNCH any more that waits for a pool entry or has been promised one (02 R33). -/
def State.dropLaunch (s : State) (c : Nat) : State := { s with launches := s.launches.filter (fun e => e.1 != c) }

/-- The bundle in progress splits at slot `k`: nothing of k or above commits, its sources stay in the replay registers, and the seat
stops or walks (19 R341, R342, R346). -/
def State.splitBare (s : State) (slot : Nat) (ops : List SlotOp) (kind : StopKind) (cause : Nat) : State :=
  let x := s.ctx
  let s1 := s.modCur (fun k => { k with
    resume := slot, repleft := x.count - 1 - x.rep, stop := some kind, frzcause := cause
    replay := some { hdr := x.hdr, rep := x.rep, count := x.count, pc := x.pc, len := x.len, cyc := x.cyc, src := x.src
                     ops := ops, latched := x.latched, npc := x.npc, gap := x.gap, under := x.under, srg := x.srg, dq := x.dq
                     dqRetained := x.dqRetained }
    weak := k.weak.filter (fun e => e.1 != 7) })
  { s1.dropLaunch x.core with ctx := { x with split := some slot, todo := [] } }

/-- Codes of the checks 6 and 7 of Table 21.1: translation, HBMUE of a walk among it (21 R421), and keys. -/
def Code.translates : Code → Bool
  | .nopage | .writeprot | .execpage | .pteformat | .keyempty | .keygen | .hbmue => true
  | _ => false
/-- The virtual address that an effective GLOBAL or PRIVATE pointer names (04 R66, R69). -/
def Core.vaOf (k : Core) (p : Word) : Word :=
  if p.toNat / 2 ^ 60 = 8 then word64 ((k.pbase + k.seat * k.pstride + p.toNat % 2 ^ 32) % 2 ^ 57) else word64 (p.toNat % 2 ^ 57)
/-- ADDR of an event whose VALUE is an effective pointer: the virtual address when check 6 or 7 fails (21 R369), or of a descriptor
(18 R333). -/
def Core.eventAddr (k : Core) (code : Code) (value : Word) : Word := if code.translates || code == .descriptor then k.vaOf value else 0

/-- As splitBare, with FRZCAUSE STOP and the event's message posted (18 R327); `place` is its ADDR and UNIT where they are not those of its
pointer. -/
def State.splitAt (s : State) (slot : Nat) (ops : List SlotOp) (code : Code) (value word : Word) (place : Option (Word × Nat) := none) : State :=
  (s.splitBare slot ops .split 3).post s.ctx.core
    { gal := 0, slot := 0, core := 0, kind := .split, code := code, opSlot := slot, pc := s.ctx.pc, npc := s.ctx.pc + s.ctx.len
      value := value, word := word, addr := (place.map (·.1)).getD (s.cur.eventAddr code value)
      unit := (place.map (·.2)).getD (if code = .hbmue then walkerUnit (hallOf s.ctx.core) else 0) }

/-- The operation in progress. -/
def State.thisOp (s : State) (i : Instr) : SlotOp :=
  { slot := s.ctx.slot, ins := i, word := s.ctx.word, step := s.ctx.step, sticky := s.ctx.sticky, sa := s.ctx.sa }

/-- An event of the issuing slot (18 R322). -/
def State.raiseEvent (s : State) (i : Instr) (e : Code × Word) : State :=
  s.splitAt s.ctx.slot (s.thisOp i :: s.ctx.todo) e.1 e.2 s.ctx.word

/-- The end of a meaning: the state it gives, or the event it raises. -/
def State.finish (s : State) (i : Instr) (r : R State) : Host.Outcome State Fault Refusal :=
  match r with
  | .ok t => .next t
  | .error e => .next (s.raiseEvent i e)

/-- As finish, for a scalar-guarded slot: no effect when the guard is false (08 R154, 11 R211, R219). -/
def State.guarded (s : State) (i : Instr) (g : Guard) (r : R State) : Host.Outcome State Fault Refusal :=
  if s.on g then s.finish i r else .next s

/-- A late event of a seat, which stops it before its next bundle (21 R376, R381). -/
def State.lateEvent (s : State) (c : Nat) (e : LateEvent) : State := s.modCore c (fun k => { k with late := k.late ++ [e] })

/-- The sequencer halts at its micro-instruction, with its message in slot 2p + 1 (19 R356). ADDR is the one given, else that of the pointer. -/
def State.seqHalt (s : State) (c : Nat) (code : Code) (value : Word) (word : Word) (addr : Option Word := none) (unit : Nat := 0) : State :=
  let s1 := s.modCore c (fun k => { k with seq := { k.seq with halted := true } })
  s1.post c { gal := 0, slot := 0, core := 0, kind := .boundary, code := code, src := 1, opSlot := 6, pc := (s.core c).pc
              npc := (s.core c).pc, value := value, word := word, addr := addr.getD ((s.core c).eventAddr code value), unit := unit }

/-! Error records and vectors (18 R331, R332). -/

/-- Words of the MSI-X table at reset: every vector control has its mask bit set. PRESUMED from PCI Express (log 76). -/
def msixReset (i : Nat) : Word := if i % 2 = 1 then word64 (2 ^ 32) else 0
/-- Word i of the MSI-X table (15 Table 15.4): of vector v, its address is word 2v, its data and vector control word 2v + 1. -/
def HostRegs.msixWord (h : HostRegs) (i : Nat) : Word := sget 0 h.msixTab i ^^^ msixReset i
/-- The mask bit of a vector of the PF; those of a VF's own table, to which the spec gives no address, are clear (log 76). -/
def State.msixMasked (s : State) (fn vec : Nat) : Bool := fn == 0 && (s.host.msixWord (2 * vec + 1)).getLsbD 32
/-- A vector raised: sent, or held pending while its mask bit is set. -/
def State.raiseMsix (s : State) (fn vec : Nat) : State :=
  let held := s.msixMasked fn vec
  { s with msix := if held then s.msix else s.msix ++ [(fn, vec)]
           msixPend := if held then s.msixPend.filter (· != (fn, vec)) ++ [(fn, vec)] else s.msixPend }

/-- Severity of an action (18 Table 18.2). -/
def Action.sev : Action → Nat
  | .resume | .redirect => 1
  | .rollback => 2
  | .kill => 3
  | .abort => 4
def Action.num : Action → Nat
  | .resume => 0 | .redirect => 1 | .rollback => 2 | .kill => 3 | .abort => 4

/-- The eight words of a record in the log (18 Table 18.4). -/
def Record.words (r : Record) : List Word :=
  [word64 r.seq, word64 (r.code.num + r.code.cls * 2 ^ 8 + r.src * 2 ^ 12 + r.slot * 2 ^ 14 + r.sev * 2 ^ 17 + r.action * 2 ^ 20 + r.unit * 2 ^ 32),
   word64 (r.pcn + r.pc % 2 ^ 16 * 2 ^ 16 + r.mpc * 2 ^ 32), r.identity, r.addr, r.value, word64 r.cyc, r.info]

/-- The words of a message as they stand in its mailbox slot; REPLY is zero until the GMC writes it (18 Table 18.3). -/
def Msg.words (m : Msg) : List Word :=
  [word64 (m.code.num + m.code.cls * 2 ^ 8 + m.src * 2 ^ 12 + m.opSlot * 2 ^ 14 + m.core * 2 ^ 20 + m.mseq * 2 ^ 32),
   word64 (m.pc % 2 ^ 16 + m.npc % 2 ^ 16 * 2 ^ 16 + m.mpc * 2 ^ 32), m.cst, m.value, m.identity, m.word, word64 m.cyc, m.reply]

/-- World of an identity word. -/
def worldOfIdentity (w : Word) : Nat := w.toNat / 2 ^ 42 % 32

/-- One record written: SEQ rises by one, a sealed world shows no ADDR, VALUE or INFO, the log keeps 1,024 records, and the vector of its
severity follows it. -/
def State.record (s : State) (r : Record) : State :=
  let w := worldOfIdentity r.identity
  let r' := if w = 0 then { r with seq := s.seq } else { r with seq := s.seq, addr := 0, value := 0, info := 0 }
  let s1 := { s with log := (s.log.filter (fun (x : Record) => x.seq % 1024 != s.seq % 1024)) ++ [r'], seq := s.seq + 1
                     ownerLog := if w = 0 then s.ownerLog else s.ownerLog ++ [{ r with seq := s.seq }] }
  let s2 := s1.raiseMsix 0 (if 4 ≤ r.sev then 0 else 1)
  if w = 0 then s2 else s2.raiseMsix w 0

/-- Cycles of the I/O die, which stays at 1.6 GHz (15 R302, 18 R331). -/
def State.ioCycles (s : State) : Nat := s.wall / (wallUnits / 1600)
/-- CYC of the seat that an identity names, where it is placed here, else the I/O die's count (18 Table 18.4). -/
def State.cycOf (s : State) (identity : Word) : Nat :=
  match s.cores.find? (fun e => e.2.placed && e.2.identity == identity) with
  | some e => e.2.cyc
  | none => s.ioCycles

/-- A record that an event leaves without a message; with a seat named, its CYC. -/
def State.recordEvent (s : State) (c : Code) (identity addr value : Word) (sev : Nat := 0) (unit : Nat := 0) (cyc : Nat := s.ioCycles) : State :=
  s.record { seq := 0, code := c, src := 2, sev := sev, unit := unit, identity := identity, addr := addr, value := value, cyc := cyc }

/-- One corrected error of a unit counted; a record at 1, 2, 4, 8 and so on (18 R331, R422). SRC is the port's, or the issue stream's where
the bundle of core `by_` found it. -/
def State.countCorrected (s : State) (unit : Nat) (by_ : Option Nat := none) : State :=
  let n := sget 0 s.corrected unit + 1
  let s1 := { s with corrected := sput unit n s.corrected }
  if n = 2 ^ (Nat.log2 n) then
    s1.record (match by_ with
      | some c => { seq := 0, code := .corrected, src := 0, unit := unit, pcn := c, pc := s.ctx.pc, mpc := (s.core c).seq.mpc, identity := (s.core c).identity
                    value := word64 n, cyc := (s.core c).cyc }
      | none => { seq := 0, code := .corrected, src := 2, unit := unit, value := word64 n, cyc := s.ioCycles })
  else s1

/-- A CORRECT freeze of 12 cy from the next clock, in which the occupancy of a matrix entry that still runs then grows by 12 cy; every
correction of one cycle shares it (19 R349). -/
def Core.startCorrect (k : Core) (clock : Nat) : Core :=
  if k.correct = clock + 13 then k
  else { k with correct := clock + 13
                run := k.run.map (fun r => if clock + 1 < r.endClock then { r with endClock := r.endClock + 12 } else r) }

/-- The CORRECT freeze has begun and lasts (19 R349). -/
def Core.correcting (k : Core) (clock : Nat) : Bool := decide (clock < k.correct ∧ k.correct ≤ clock + 12)
/-- Cycles that a CORRECT freeze from the next clock adds to a matrix entry of n cycles that starts in this one (19 R349). -/
def Core.correctSoon (k : Core) (clock n : Nat) : Nat := if k.correct = clock + 13 ∧ 1 < n then 12 else 0

/-! Free values. -/

/-- A number for the next free value or choice. -/
def State.draw (s : State) : Nat × State := (s.fresh, { s with fresh := s.fresh + 1 })
/-- The number of the next request or key pair. -/
def State.nextSerial (s : State) : Nat × State := (s.serial, { s with serial := s.serial + 1 })

/-! Events that no reply answers. -/

/-- INFO of the record of an ABORT: the seats dumped (18 Table 18.4). -/
def dumpedInfo (n : Nat) : Word := word64 (n * 2 ^ 48)

/-- The record of a message's event with the action taken (18 R331, Table 18.4). -/
def Msg.toRecord (m : Msg) (a : Action) (dumped : Nat) : Record :=
  let info := match m.code with
    | .trap c => c.setWidth 64
    | _ => m.info
  { seq := 0, code := m.code, src := m.src, slot := m.opSlot, sev := a.sev, action := a.num
    unit := m.unit, pcn := m.core, pc := m.pc, mpc := m.mpc, identity := m.identity
    addr := m.addr, value := m.value, cyc := m.cyc, info := if a = .abort then info ||| dumpedInfo dumped else info }

/-- Messages that no reply will answer any more; each event has its record, with the action that took the message (18 R331; log 85). -/
def State.dropMailIf (s : State) (gone : Msg → Bool) (a : Action) : State :=
  { (s.mail.filter gone).foldl (fun t m => t.record (m.toRecord a 0)) s with mail := s.mail.filter (fun m => !gone m) }
/-- Every message of a core. -/
def State.dropMail (s : State) (c : Nat) (a : Action) : State := s.dropMailIf (fun m => m.core == c) a

/-- The record of an event of a core that has not been posted yet, when no message of it will be (18 R331; log 85). -/
def State.dropOne (s : State) (c src : Nat) (a : Action) (e : LateEvent) : State :=
  let k := s.core c
  s.record { seq := 0, code := e.code, src := src, slot := e.opSlot, sev := a.sev, action := a.num, unit := e.unit, pcn := c
             pc := e.pc.getD k.pc, mpc := k.seq.mpc, identity := k.identity, addr := e.addr, value := e.value, cyc := k.cyc, info := e.info }
/-- Every such event of a core's sequencer. -/
def State.dropFaults (s : State) (c : Nat) (a : Action) : State :=
  ((s.core c).seq.faults.foldl (fun t e => t.dropOne c 1 a e) s).modCore c (fun k => { k with seq := { k.seq with faults := [] } })
/-- Every such event of a core and of its sequencer. -/
def State.dropLate (s : State) (c : Nat) (a : Action) : State :=
  (((s.core c).late.foldl (fun t e => t.dropOne c e.src a e) s).modCore c (fun k => { k with late := [] })).dropFaults c a
/-- What a core that is released without its replies still had to say. -/
def State.dropEvents (s : State) (c : Nat) (a : Action) : State := (s.dropMail c a).dropLate c a

end Sys2Proof.Machine
end

