-- ==== Sys2Proof/Machine/Operands.lean ====
section
/-! DEFINITION. Operand forms: which registers an instruction reads, generic pointers and their checks, load forms, translation, and
reading and writing bytes at their homes (04, 11 R211 to R218, 21 R369 to R377). -/

namespace Sys2Proof.Machine
open Sys2Proof

/-! The register sources of each slot operation, for held operands, poison and replay (07 R147, 19 R352). -/

/-- A register source: a field that may hold, a plain scalar, or a run of vector names. -/
inductive Src where
  | s (field : Nat) (a : SSrc)
  | v (field : Nat) (st : Sticky) (a : VSrc)
  | sr (n : SReg)
  | vr (st : Sticky) (n : VReg) (count : Nat)
  | tile (n : Nat)
  deriving DecidableEq, Repr

end Sys2Proof.Machine

namespace Sys2Proof
open Machine (Src noStep)

/-- The data register of a store. -/
def XSrc.src (st : Sticky) : XSrc → Src
  | .s a => .s 0 a
  | .v a => .v 0 st a
def SCount.srcs : SCount → List Src
  | .imm _ => []
  | .reg b => [.s 2 b]
def VCount.srcs (st : Sticky) : VCount → List Src
  | .imm _ => []
  | .reg b => [.v 2 st b]
def LaneNo.srcs : LaneNo → List Src
  | .imm _ => []
  | .reg b => [.s 2 b]
def FOperand.srcs : FOperand → List Src
  | .imm _ => []
  | .reg a => [.s 1 a]
/-- Register names that an MMA operand spans: 16, or 17 when it is block-scaled (10 R202). -/
def spanOf (f : Fmt) : Nat := if f.isElem then 16 else 17
def MOperand.srcs (st : Sticky) : MOperand → List Src
  | .reg f v => [.vr st v (spanOf f)]
  | .mem n => [.sr n, .sr (n + 1)]

/-- Alignment of an access size (11 Table 11.1). -/
def Size.alignment : Size → Nat
  | .b1 => 1 | .b2 => 2 | .b4 => 4 | .b8 => 8 | _ => 64

end Sys2Proof

namespace Sys2Proof.Machine
open Sys2Proof

/-- The sources of a slot operation; a sticky re-issue's address sources are those it captured, and are left out by the reader. -/
def sources : Instr → List Src
  | .add _ _ a b | .sub _ _ a b | .mul _ _ a b | .mulh _ _ a b _ | .and _ _ a b | .or _ _ a b | .xor _ _ a b | .andn _ _ a b
  | .min _ _ a b | .max _ _ a b | .minu _ _ a b | .maxu _ _ a b | .sel _ _ _ a b | .lea _ _ a b _ _ | .cmp _ _ _ a b
  | .gcast _ _ _ a b | .rgnKeep _ a b => [.s 1 a, .s 2 b]
  | .addi _ _ a _ | .clz _ _ a | .popc _ _ a | .extr _ _ a _ _ _ | .mov _ _ a | .cmpi _ _ _ a _ | .srwr _ _ a | .gspace _ _ a
  | .reps _ a | .vbcst _ _ _ a | .viota _ _ _ a | .vpset _ _ a | .bri _ a | .calli _ a | .launch _ a _ | .trap _ _ a
  | .sealOpen _ a | .sealAdd _ a | .sealClose _ a => [.s 1 a]
  | .shl _ _ a k | .shr _ _ a k | .sar _ _ a k => .s 1 a :: k.srcs
  | .vadd _ st _ _ a b | .vsub _ st _ _ a b | .vmul _ st _ _ a b | .vmin _ st _ _ a b | .vmax _ st _ _ a b
  | .vscale _ st _ _ a b | .vadds _ st _ _ a b | .vsubs _ st _ _ a b | .vmullo _ st _ _ a b | .vmulhi _ st _ _ a b
  | .vand _ st _ a b | .vor _ st _ a b | .vxor _ st _ a b | .vandn _ st _ a b => [.v 1 st a, .v 2 st b]
  | .vfma _ st _ d a b | .vfms _ st _ d a b | .vfnma _ st _ d a b => [.vr st d 1, .v 1 st a, .v 2 st b]
  | .vabs _ st _ _ a | .vneg _ st _ _ a | .vrint _ st _ _ a | .vnot _ st _ a | .vmov _ st _ a => [.v 1 st a]
  | .vshl _ st _ _ a k | .vshr _ st _ _ a k | .vsar _ st _ _ a k => .v 1 st a :: k.srcs st
  | .vsel _ _ _ a b | .vcmp _ _ _ _ a b | .xperm _ _ a b | .xshuf _ _ _ _ a b => [.v 1 noStep a, .v 2 noStep b]
  | .vclass _ _ a _ | .vcvt _ _ a _ | .vrcp _ _ a | .vrsq _ _ a | .vexp2 _ _ a | .vsum _ _ _ a | .vrmax _ _ _ _ a
  | .vrmin _ _ _ _ a | .xcmpr _ _ a _ => [.v 1 noStep a]
  | .defer _ a n => [.vr noStep a n.toNat]
  | .xpose _ st _ (.w a) | .xpose _ st _ (.wr _ a) => [.v 1 st a]
  | .cxs _ _ k i _ _ => [.vr noStep k 1, .vr noStep i 1]
  | .xrot _ _ a n | .xbcst _ _ a n => .v 1 noStep a :: n.srcs
  | .xpack _ st _ _ a _ | .xunpk _ st _ _ a _ _ => [.v 1 st a]
  | .mma _ st _ a b | .mmaz _ st _ a b => a.srcs st ++ b.srcs st
  | .tld _ st _ (.reg v) => [.vr st v 64]
  | .tld _ _ _ (.mem n) | .tstMemory _ _ n _ => [.sr n, .sr (n + 1)]
  | .tstRegister _ _ _ a => [.tile a.toNat]
  | .tscale _ _ _ v => [.vr noStep v 1]
  | .ld _ _ _ _ _ a _ | .ldv _ _ _ _ _ a _ | .ldc _ _ _ _ a _ => [.s 1 a]
  | .st _ st _ x a _ | .stv _ st _ x a _ | .put _ st _ x a => [x.src st, .s 1 a]
  | .ldg _ _ _ _ a x _ _ | .fetch _ _ _ _ a x _ _ => [.s 1 a, .sr x]
  | .stg _ _ _ x a i => [x.src noStep, .s 1 a, .sr i]
  | .stNb _ _ v a i _ _ => [.v 0 noStep v, .s 1 a, .sr i]
  | .gath _ _ a vi _ _ => [.s 1 a, .v 2 noStep vi]
  | .scat _ va a vi _ => [.v 0 noStep va, .s 1 a, .v 2 noStep vi]
  | .send _ _ _ v _ => [.v 1 noStep v]
  | .radd _ _ _ a _ => [.v 1 noStep a]
  | .putf _ _ x a _ _ _ => [x.src noStep, .s 1 a]
  | .fadd _ _ v | .fset _ _ v | .wait _ _ _ v | .waitany _ _ _ _ v => v.srcs
  | .faddRemote _ p v | .fsetRemote _ p v => .sr p :: v.srcs
  | .faddb _ _ _ _ b => [.sr b]
  | .faddbRemote _ _ p _ b _ _ => [.sr p, .sr b]
  | .fsetM _ _ (.imm _) m _ => [.s 2 m]
  | .fsetM _ _ (.reg a) m _ => [.s 1 a, .s 2 m]
  | .seqGo _ _ _ k => (List.range 8).map (fun i => .sr (k + BitVec.ofNat 6 i))
  | .chset _ _ a => (List.range 4).map (fun i => .sr (a + BitVec.ofNat 6 i))
  | _ => []

/-- The guard of a slot operation. -/
def guardOf : Instr → Guard
  | .add g _ _ _ | .sub g _ _ _ | .addi g _ _ _ | .mul g _ _ _ | .mulh g _ _ _ _ | .and g _ _ _ | .or g _ _ _ | .xor g _ _ _
  | .andn g _ _ _ | .shl g _ _ _ | .shr g _ _ _ | .sar g _ _ _ | .min g _ _ _ | .max g _ _ _ | .minu g _ _ _ | .maxu g _ _ _
  | .sel g _ _ _ _ | .clz g _ _ | .popc g _ _ | .extr g _ _ _ _ _ | .lea g _ _ _ _ _ | .mov g _ _ | .li g _ _
  | .cmp g _ _ _ _ | .cmpi g _ _ _ _ | .pand g _ _ _ _ _ | .por g _ _ _ _ _ | .pxor g _ _ _ _ _ | .pmov g _ _ _ | .srrd g _ _
  | .srwr g _ _ | .gspace g _ _ | .gcast g _ _ _ _ | .reps g _ => g
  | .ld g _ _ _ _ _ _ | .st g _ _ _ _ _ | .ldv g _ _ _ _ _ _ | .stv g _ _ _ _ _ | .ldg g _ _ _ _ _ _ _ | .stg g _ _ _ _ _
  | .stNb g _ _ _ _ _ _ | .gath g _ _ _ _ _ | .scat g _ _ _ _ | .fetch g _ _ _ _ _ _ _ | .ldc g _ _ _ _ _ => g
  | .wfree g _ _ | .send g _ _ _ _ | .pubw g _ _ | .recv g _ _ _ _ | .radd g _ _ _ _ | .advr g _ _ | .put g _ _ _ _
  | .putf g _ _ _ _ _ _ | .fadd g _ _ | .faddRemote g _ _ | .faddb g _ _ _ _ | .faddbRemote g _ _ _ _ _ _ | .fset g _ _
  | .fsetRemote g _ _ | .fsetM g _ _ _ _ | .seqGo g _ _ _ | .chset g _ _ => g
  | .br g _ | .bri g _ | .call g _ | .calli g _ | .ret g | .loop g _ | .loopR g _ _ | .wait g _ _ _ | .waitany g _ _ _ _
  | .delay g _ | .fence g _ | .fenceQueue g _ | .drain g _ | .qfence g _ | .rgnBegin g _ | .rgnKeep g _ _ | .rgnEnd g
  | .launch g _ _ | .trigger g | .tend g | .yield g | .trap g _ _ | .sealOpen g _ | .sealAdd g _ | .sealClose g _ | .bkpt g _ => g
  | _ => ⟨0, false⟩

/-- Predicates that an operation reads beside its guard. -/
def predSources : Instr → List PReg
  | .vsel _ _ q _ _ => [q.setWidth 4]
  | .sel _ _ q _ _ | .cxs _ _ _ _ q _ | .xcmpr _ _ _ q | .stNb _ _ _ _ _ _ q | .scat _ _ _ _ q => [q]
  | .pand _ _ a _ b _ | .por _ _ a _ b _ | .pxor _ _ a _ b _ | .vpand _ _ a _ b _ | .vpor _ _ a _ b _ | .vpxor _ _ a _ b _ => [a, b]
  | .pmov _ _ a _ | .vpnot _ _ a => [a]
  | .loopR _ _ _ => [1, 2, 3]
  | _ => []

/-- The sticky field of an instruction that has a sticky form. -/
def stickyOf : Instr → Sticky
  | .vadd _ st _ _ _ _ | .vsub _ st _ _ _ _ | .vmul _ st _ _ _ _ | .vfma _ st _ _ _ _ | .vfms _ st _ _ _ _
  | .vfnma _ st _ _ _ _ | .vmin _ st _ _ _ _ | .vmax _ st _ _ _ _ | .vabs _ st _ _ _ | .vneg _ st _ _ _
  | .vscale _ st _ _ _ _ | .vrint _ st _ _ _ | .vadds _ st _ _ _ _ | .vsubs _ st _ _ _ _ | .vmullo _ st _ _ _ _
  | .vmulhi _ st _ _ _ _ | .vand _ st _ _ _ | .vor _ st _ _ _ | .vxor _ st _ _ _ | .vandn _ st _ _ _ | .vnot _ st _ _
  | .vshl _ st _ _ _ _ | .vshr _ st _ _ _ _ | .vsar _ st _ _ _ _ | .vmov _ st _ _ | .xpose _ st _ _
  | .xpack _ st _ _ _ _ | .xunpk _ st _ _ _ _ _ | .mma _ st _ _ _ | .mmaz _ st _ _ _ | .tld _ st _ _
  | .tstMemory _ st _ _ | .tstRegister _ st _ _ | .ld _ st _ _ _ _ _ | .st _ st _ _ _ _ | .ldv _ st _ _ _ _ _
  | .stv _ st _ _ _ _ | .put _ st _ _ _ => st
  | _ => noStep

/-- Words of SA that a matrix operand takes: base and descriptor of a memory operand (10 R205). -/
def saWords : MOperand → Nat
  | .reg _ _ => 0
  | .mem _ => 2

/-- The scalars that form the operation's memory address, as SA captures them (07 R145). -/
def addressSrcs (r : RegFile) (lt : Nat → Latch) : Instr → List Word
  | .ld _ _ _ _ _ a _ | .ldv _ _ _ _ _ a _ | .st _ _ _ _ a _ | .stv _ _ _ _ a _ | .put _ _ _ _ a =>
    [match a with
      | .reg n => r.sreg n.toNat
      | .latch n => r.sreg n.toNat
      | .held => (lt 1).value.setWidth 64]
  | .mma _ _ _ a b | .mmaz _ _ _ a b => pair a ++ pair b
  | .tld _ _ _ (.mem n) | .tstMemory _ _ n _ => [r.sreg n.toNat, r.sreg (n.toNat + 1)]
  | _ => []
where
  pair : MOperand → List Word
    | .reg _ _ => []
    | .mem n => [r.sreg n.toNat, r.sreg (n.toNat + 1)]

/-! Generic pointers (04 R64, R65). -/

/-- Where a pointer leads, once its window's limits hold. -/
inductive Place where
  | near (off : Nat)
  | vault (k off : Nat)
  | va (a : Nat)
  | pod (kind : Bool) (k off module : Nat)
  deriving DecidableEq, Repr

def field (p : Word) (hi lo : Nat) : Nat := p.toNat / 2 ^ lo % 2 ^ (hi - lo + 1)

/-- The window of a tag (04 Table 4.1). -/
def windowOf (p : Word) : Option Window := Window.ofCode (BitVec.ofNat 4 (field p 63 60))

/-- Team galleries of a team (04 R71). -/
def Core.teamGals (k : Core) : Nat := (k.nseats + k.width - 1) / k.width

/-- Row 4 of Table 21.1: zero bits of Table 4.2 and window limits. DESIGN CHOICE (log 80): a GLOBAL access whose bytes run past VA 2⁵⁷ is
WINLIMIT, and the sum that a PRIVATE pointer names is taken as it stands where it reaches 2⁵⁷. -/
def placeOf (k : Core) (limit : Nat) (w : Window) (p : Word) (n : Nat) : Option Place :=
  match w with
  | .global => if field p 59 57 = 0 ∧ field p 56 0 + n ≤ 2 ^ 57 then some (.va (field p 56 0)) else none
  | .priv =>
    let off := field p 31 0
    if field p 59 32 = 0 ∧ off + n ≤ k.psize ∧ k.psize ≠ 0 then some (.va (k.pbase + k.seat * k.pstride + off)) else none
  | .scratch =>
    let off := field p 17 0
    if field p 31 18 = 0 ∧ field p 47 42 = 0 ∧ field p 59 48 = 0 ∧ off + n ≤ limit then some (.near off) else none
  | .gallery =>
    let off := field p 21 0
    let g := 16 * field p 38 36 + field p 35 32
    if field p 31 22 = 0 ∧ field p 59 39 = 0 ∧ g < k.teamGals ∧ off + n ≤ k.vsize * 0x10000 then some (.vault g off) else none
  | .pod =>
    let kind := field p 39 39 = 1
    let off := field p 21 0
    if field p 31 22 = 0 ∧ field p 59 52 = 0 ∧ (¬kind ∨ field p 21 21 = 0) then
      some (.pod (decide kind) (16 * field p 38 36 + field p 35 32) off (field p 51 40)) else none

/-- Rows 1 to 5 of Table 21.1, in that order. -/
def checkPtr (k : Core) (limit : Nat) (ok : Window → Bool) (p : Word) (n align : Nat) : R Place :=
  match windowOf p with
  | none => .error (.tag, p)
  | some w =>
    if !ok w then .error (.winlimit, p)
    else if w == .scratch && decide (field p 47 32 ≠ k.seat) then .error (.foreignscr, p)
    else match placeOf k limit w p n with
      | none => .error (.winlimit, p)
      | some pl => if p.toNat % align = 0 then .ok pl else .error (.align, p)

def lWindows (w : Window) : Bool := w != .pod
def mWindows (w : Window) : Bool := w == .scratch || w == .gallery
def podOnly (w : Window) : Bool := w == .pod

/-- The load result of the bytes read (11 Table 11.1). -/
def LoadForm.value (f : LoadForm) (bs : List Byte) : Vec :=
  if f.sz.scalar then
    let x := bytesToNat bs
    let w := 8 * f.sz.bytes
    if f.sx ∧ 2 ^ (w - 1) ≤ x then BitVec.ofNat 2048 (2 ^ 64 - 2 ^ w + x) else BitVec.ofNat 2048 x
  else vecOfBytes bs

/-- The destination of a load: its class is the size's. -/
def State.dstX (s : State) (st : Sticky) : XReg → R Dest
  | .s n => .ok (.s n.toNat)
  | .v n => (s.dstV st n).map .v

/-- Bytes of a data register, little-endian (11 R212). -/
def State.dataX (s : State) (st : Sticky) (sz : Size) : XSrc → R (List Byte)
  | .s a => .ok (wordBytes (s.rdS 0 a) sz.bytes)
  | .v a => (s.rdV 0 st a).map (fun v => vecBytes v sz.bytes)

/-! Vaults (04 R71). -/

/-- The physical gallery and base of a task's team gallery. -/
def State.vaultWindow (s : State) (task k : Nat) : Option (Nat × Nat) :=
  s.gals.findSome? (fun e => (e.2.windows.find? (fun w => w.1 == task && w.2.1 == k)).map (fun w => (e.1, w.2.2.1)))

/-- A number beyond the galleries', for the window of team gallery k while the task has none placed. -/
def noWindow : Nat := 1024
/-- A byte of a task's team vault window. DESIGN CHOICE (log 89): an access to a window that has been saved, whose bank space is free, waits
until the window is placed again (22 R403 names no fate for it). -/
def State.windowHome (s : State) (task k off : Nat) : Home :=
  match s.vaultWindow task k with
  | some w => .vault w.1 (w.2 + off)
  | none => .vault (noWindow + k) off
/-- The home lies in a window that is not placed. -/
def Home.missing : Home → Bool
  | .vault g _ => decide (noWindow ≤ g)
  | _ => false
/-- The home where its window stands now. -/
def State.rehome (s : State) (task : Nat) (h : Home) : Home :=
  match h with
  | .vault g off => if noWindow ≤ g then s.windowHome task (g - noWindow) off else h
  | _ => h

/-- Bytes of a vault written under bit enables. -/
def Gallery.merge (g : Gallery) (a : Nat) (ds : List (Byte × Byte)) (p : Bool := false) : Gallery :=
  let u := upkeep g.poison g.soft a ds p
  { g with vault := g.vault.merge a ds, poison := u.1, soft := u.2 }

/-- Units of Table 18.4 (18 R422). -/
def nearUnit (c : Nat) : Nat := 5 * 0x2000 + 8 * c
def vaultUnit (g a : Nat) : Nat := 4 * 0x2000 + 32 * g + a / 0x20000 % 32
def stackUnit (pa : Nat) : Nat :=
  let h := pa / 0x3000000000
  0x2000 + 3 * h + pa % 0x3000000000 / 2048 % 3
def portUnit (p : Nat) : Nat := 2 * 0x2000 + p

/-- Single errors that core c finds in its arrays in a cycle: each is corrected and counted, and one CORRECT freeze follows (19 R349). -/
def State.correctWeak (s : State) (c : Nat) (hit : Nat → Nat → Bool) : State :=
  let found := (s.core c).weak.filter (fun e => hit e.1 e.2)
  if found.isEmpty then s
  else
    (found.foldl (fun t e => t.countCorrected (nearUnit c + e.1) (some c))
      (s.modCore c (fun k => { k with weak := k.weak.filter (fun e => !hit e.1 e.2) }))).modCore c (·.startCorrect s.clock)

/-- Places of a core's arrays that are written whole, with fresh check bits. -/
def Core.renew (k : Core) (written : Nat → Nat → Bool) : Core :=
  if k.weak.isEmpty && k.broken.isEmpty then k
  else { k with weak := k.weak.filter (fun e => !written e.1 e.2), broken := k.broken.filter (fun e => !written e.1 e.2) }

/-- The words of [a, a + n) that hold a bit error of the kind given. -/
def softWords (soft : Sparse Nat) (a n kind : Nat) : List Nat :=
  (soft.filter (fun e => e.2 == kind && decide (a < 4 * e.1 + 4 ∧ 4 * e.1 < a + n))).map (·.1)

/-- A read through a port other than a core's: single errors are corrected and counted, uncorrectable words become poisoned (19 R350,
R351); also whether the access takes 12 cycles more. -/
def State.portRead (s : State) (h : Home) (n : Nat) : State × Bool :=
  let fix (soft : Sparse Nat) (ps : List Nat) (a : Nat) : Sparse Nat × List Nat :=
    ((softWords soft a n 1 ++ softWords soft a n 2).foldl (fun m w => sset 0 w 0 m) soft,
     (softWords soft a n 2).foldl (fun l w => ninsert w l) ps)
  match h with
  | .near c a =>
    let r := (s.core c).rf
    if r.soft.isEmpty then (s, false)
    else
      let q := fix r.soft r.nearPoison a
      let ones := softWords r.soft a n 1
      (ones.foldl (fun t _ => t.countCorrected (nearUnit c))
        (s.modCore c (fun k => { k with rf := { k.rf with soft := q.1, nearPoison := q.2 } })), !ones.isEmpty)
  | .vault g a =>
    let x := s.gal g
    if x.soft.isEmpty then (s, false)
    else
      let q := fix x.soft x.poison a
      let ones := softWords x.soft a n 1
      (ones.foldl (fun t w => t.countCorrected (vaultUnit g (4 * w)))
        (s.modGal g (fun x => { x with soft := q.1, poison := q.2 })), !ones.isEmpty)
  | .hbm pa _ _ =>
    let sec := sget {} s.sectors (pa / 32)
    if sec.soft = 1 then
      ((({ s with sectors := sput (pa / 32) { sec with soft := 0 } s.sectors } : State).countCorrected (stackUnit pa)), false)
    else (s, false)
  | .host _ _ _ => (s, false)

/-! Translation (04 R77 to R83, 21 R371, R372). -/

/-- What the core finds for an address before a walk. -/
inductive Tr where
  | hit (h : Home)
  | miss
  | bad (c : Code)
  deriving DecidableEq, Repr

def homeOf (host : Bool) (pa key va : Nat) : Home := if host then .host pa key va else .hbm pa key va

def Extent.valid (x : Extent) : Bool := x.reg.getLsbD 0
def Extent.base (x : Extent) : Nat := field x.reg 62 22 * 0x10000
def Extent.bytes (x : Extent) : Nat := field x.reg 21 2 * 0x10000
def Extent.covers (x : Extent) (va n : Nat) : Bool := x.valid && decide (x.base ≤ va ∧ va + n ≤ x.base + x.bytes)

/-- The extent that holds every byte of an access (04 R81). -/
def Core.extentFor (k : Core) (va n : Nat) : Option Extent := k.exts.find? (·.covers va n)

def TcEntry.covers (e : TcEntry) (world va : Nat) : Bool := e.world == world && decide (e.vbase ≤ va ∧ va < e.vbase + e.len)

/-- Translation cache (04 R82, R83, 21 R371). -/
def Core.tcLookup (k : Core) (va : Nat) (write : Bool) : Tr :=
  match k.tcache.find? (·.covers k.world va) with
  | none => .miss
  | some e =>
    if e.x then .bad .execpage
    else if write && !e.w then .bad .writeprot
    else if write && !e.d then .miss
    else .hit (homeOf e.host (e.pbase + (va - e.vbase)) e.key va)

/-- The address lies in the job's context pool. -/
def Core.inPool (k : Core) (a : Nat) : Bool := decide (k.ctxBase ≤ a ∧ a < k.ctxBase + k.ctxLen)

/-- One piece of an access of n bytes at `va`, the piece at `a` (04 R81, R82). No address of a program reaches a context block (22 R399):
DESIGN CHOICE (log 87), such an access raises NOPAGE. -/
def Core.translate (k : Core) (va n a : Nat) (write : Bool) : Tr :=
  if k.inPool a then .bad .nopage
  else match k.extentFor va n with
  | some x =>
    if write && !x.reg.getLsbD 1 then .bad .writeprot
    else .hit (homeOf x.host (x.pbase + (a - x.base)) x.key a)
  | none => k.tcLookup a write

/-- Level-table indices (04 Table 4.4). -/
def levelIndex (level va : Nat) : Nat :=
  match level with
  | 3 => va / 2 ^ 39 % 2 ^ 18
  | 2 => va / 2 ^ 30 % 2 ^ 9
  | 1 => va / 2 ^ 21 % 2 ^ 9
  | _ => va / 2 ^ 16 % 2 ^ 5

def leafBytes (level : Nat) : Nat :=
  match level with
  | 2 => 2 ^ 30
  | 1 => 2 ^ 21
  | _ => 2 ^ 16

/-- Whether an entry breaks Table 4.5 at its level (21 R372, row 2). -/
def badEntry (hostOk : Bool) (level : Nat) (e : Word) : Bool :=
  let leaf := e.getLsbD 1
  if !leaf then level == 0 || field e 7 2 != 0 || field e 63 52 != 0
  else
    level == 3 || field e 63 60 != 0 || decide ((field e 59 24 * 2 ^ 16) % leafBytes level ≠ 0)
      || (e.getLsbD 3 && e.getLsbD 2) || (e.getLsbD 6 && !hostOk)

def sectorOf (s : State) (pa : Nat) : Sector := sget {} s.sectors (pa / 32)

/-- What a walk comes to. -/
inductive WalkEnd where
  | leaf (addr : Nat) (level : Nat) (e : Word) (reads : Nat)
  | migrating
  | bad (c : Code)
  deriving DecidableEq, Repr

/-- A key slot that the walking job and world may use (14 R280, 21 R372). -/
def keyLive (s : State) (job world key : Nat) : Bool :=
  let k := sget {} s.keys key
  key != 0 && k.live && k.job == job && k.world == world

/-- Walk from the table at `base` down from `level`; fuel is one more than the level (04 R77, R78, R83, 21 R372, R421). DESIGN CHOICE (log 79):
a table or a frame outside the HBM space is read as HBM at that address, and a table that is not aligned has its index added as it stands,
since R372 lists no code for either. -/
def walkFrom (s : State) (job world : Nat) (hostOk : Bool) (va : Nat) (write data : Bool) : Nat → Nat → Nat → WalkEnd
  | 0, _, _ => .bad .pteformat
  | fuel + 1, base, reads =>
    let level := fuel
    let a := base + 8 * levelIndex level va
    let e := s.hbm.word a
    if (sectorOf s a).poison || (sectorOf s a).soft == 2 then .bad .hbmue
    else if !e.getLsbD 0 then .bad .nopage
    else if badEntry hostOk level e then .bad .pteformat
    else if !e.getLsbD 1 then walkFrom s job world hostOk va write data fuel (field e 51 8 * 256) (reads + 1)
    else if e.getLsbD 7 then .migrating
    else if !keyLive s job world (field e 23 8) then .bad .keyempty
    else if data && e.getLsbD 3 then .bad .execpage
    else if write && !e.getLsbD 2 then .bad .writeprot
    else .leaf a level e (reads + 1)

/-- The leaf entry with A, and D for a write, set by the walker's swap (04 R83). -/
def setAD (s : State) (a : Nat) (e : Word) (write : Bool) : State × Word :=
  let e' := e ||| 0x10 ||| (if write then 0x20 else 0)
  if e' = e then (s, e) else ({ s with hbm := s.hbm.write a (wordBytes e') }, e')

/-- The cached form of a leaf (04 R82). -/
def tcOf (world va level : Nat) (e : Word) : TcEntry :=
  let n := leafBytes level
  { world := world, vbase := va / n * n, len := n, pbase := field e 59 24 * 2 ^ 16, host := e.getLsbD 6, key := field e 23 8
    w := e.getLsbD 2, x := e.getLsbD 3, d := e.getLsbD 5 }

/-- Filling the cache replaces the oldest of 64 entries. DESIGN CHOICE (log 108): a leaf that the cache holds already, with D = 0, is first taken
out, and stands as the newest (04 R82 says nothing of it). -/
def Core.tcFill (k : Core) (e : TcEntry) : Core :=
  let t := k.tcache.filter (fun x => !(x.world == e.world && x.vbase == e.vbase && x.len == e.len))
  { k with tcache := (if t.length < 64 then t else t.drop 1) ++ [e] }

/-! Homes (06 R112, 04 R76, R86, R87, 21 R375, R377). -/

/-- The j-th 16-byte AES block of a 32-byte unit as it opens under a pair and tweak: its bytes, or what another pair or tweak than the one
that wrote it makes of them (04 R86). -/
def openBlock (serial tweak serial' tweak' j : Nat) (b : List Byte) : List Byte :=
  if serial = serial' ∧ tweak = tweak' then b
  else natToBytes 16 ((Config.cipher serial' tweak' j).symm (Config.cipher serial tweak j (BitVec.ofNat 128 (bytesToNat b)))).toNat

/-- The plain bytes of a sector as they open under a key slot and address; a block that `raw` names stays as it is stored. -/
def openSector (s : State) (mem : Mem) (sec : Sector) (pa key va : Nat) (raw : Nat → Bool := fun _ => false) : List Byte :=
  let serial := (sget {} s.keys key).serial
  let bs := mem.read (pa / 32 * 32) 32
  let one (j ser tw : Nat) (b : List Byte) : List Byte := if raw j then b else openBlock ser tw serial (va / 32) j b
  one 0 sec.serial sec.tweak (bs.take 16) ++ one 1 sec.serial1 sec.tweak1 (bs.drop 16)

/-- The blocks of a sector that a write at an address leaves alone: their ciphertext does not change (04 R86). -/
def untouched (a : Nat) (ds : List (Byte × Byte)) (j : Nat) : Bool :=
  !((ds.zip (List.range ds.length)).any (fun e => e.1.2 != 0 && (a % 32 + e.2) / 16 == j))
/-- The pair and tweak of each block after such a write. -/
def Sector.wrote (x : Sector) (a serial tweak : Nat) (ds : List (Byte × Byte)) : Sector :=
  let keep (j : Nat) : Bool := untouched a ds j
  { x with serial := if keep 0 then x.serial else serial, tweak := if keep 0 then x.tweak else tweak
           serial1 := if keep 1 then x.serial1 else serial, tweak1 := if keep 1 then x.tweak1 else tweak }

/-- Reading n bytes of one sector or array word run at its home: the bytes and the poison of their words. A sector found uncorrectable
fails; the access rewrites it as poisoned (21 R377). -/
def readHome (s : State) (h : Home) (n : Nat) : Except Code (List Byte × Word) :=
  match h with
  | .near c off =>
    let r := (s.core c).rf
    .ok (r.near.read off n, poisonBits r.nearPoison off n)
  | .vault g off => .ok ((s.gal g).vault.read off n, poisonBits (s.gal g).poison off n)
  | .hbm pa key va =>
    let sec := sectorOf s pa
    let k := sget {} s.keys key
    if !k.live then .error .keyempty
    else if sec.gen ≠ k.gen then .error .keygen
    else if sec.soft = 2 then .error .hbmue
    else .ok (((openSector s s.hbm sec pa key va).drop (pa % 32)).take n, if sec.poison then BitVec.allOnes 64 else 0)
  | .host ba key va =>
    if !(sget {} s.keys key).live then .error .keyempty
    else .ok (((openSector s s.hostMem (sget {} s.hostTags (ba / 32)) ba key va).drop (ba % 32)).take n, 0)

/-- What a read leaves at its home beside the value: corrections, and a poisoned sector for an uncorrectable one. -/
def State.afterRead (s : State) (h : Home) (n : Nat) : State :=
  match h with
  | .hbm pa _ _ =>
    let sec := sectorOf s pa
    if sec.soft = 2 then { s with sectors := sput (pa / 32) { sec with soft := 0, poison := true } s.sectors } else (s.portRead h n).1
  | _ => (s.portRead h n).1

/-- A word's bit error is gone. -/
def State.clearSoft (s : State) (h : Home) (w : Nat) : State :=
  match h with
  | .near c _ => s.modCore c (fun k => { k with rf := { k.rf with soft := sset 0 w 0 k.rf.soft } })
  | .vault g _ => s.modGal g (fun x => { x with soft := sset 0 w 0 x.soft })
  | _ => s

/-- Words that a write merges into and whose single error the merge corrects (21 R420). -/
def State.mergedSoft (s : State) (h : Home) (ds : List (Byte × Byte)) : List Nat :=
  let at_ (soft : Sparse Nat) (a : Nat) : List Nat :=
    if soft.isEmpty then [] else (wordsTouched a ds).filterMap (fun e => if !e.2 && sget 0 soft e.1 == 1 then some e.1 else none)
  match h with
  | .near c a => at_ (s.core c).rf.soft a
  | .vault g a => at_ (s.gal g).soft a
  | .hbm pa _ _ => if (sget {} s.sectors (pa / 32)).soft = 1 ∧ !(ds.length == 32 && ds.all (fun d => d.2 == 0xFF)) then [pa / 32] else []
  | .host _ _ _ => []
/-- The unit that counts a corrected word of a home (18 R422). -/
def unitOf (h : Home) (w : Nat) : Nat :=
  match h with
  | .near c _ => nearUnit c
  | .vault g _ => vaultUnit g (4 * w)
  | .hbm pa _ _ => stackUnit pa
  | .host _ _ _ => 0
def State.countMerge (s : State) (h : Home) (ds : List (Byte × Byte)) (by_ : Option Nat := none) : State :=
  (s.mergedSoft h ds).foldl (fun t w => t.countCorrected (unitOf h w) by_) s

/-- Single errors that a merge by a port other than a core's would correct are corrected first: the write then takes 12 cy more (21 R420). -/
def State.preMerge (s : State) (h : Home) (ds : List (Byte × Byte)) : Option State :=
  match h with
  | .near _ _ | .vault _ _ =>
    let ws := s.mergedSoft h ds
    if ws.isEmpty then none else some (ws.foldl (fun t w => (t.clearSoft h w).countCorrected (unitOf h w)) s)
  | _ => none

/-- Writing bytes with bit enables at their home; a poisoned word or sector keeps its poison unless it is written whole. -/
def writeHome (s : State) (h : Home) (ds : List (Byte × Byte)) (poison : Bool) : Except Code State :=
  match h with
  | .near c off => .ok ((s.countMerge h ds).modCore c (fun k => { k with rf := k.rf.mergeNear off ds poison }))
  | .vault g off => .ok ((s.countMerge h ds).modGal g (fun x => x.merge off ds poison))
  | .hbm pa key va =>
    let sec := sectorOf s pa
    let k := sget {} s.keys key
    if !k.live then .error .keyempty
    else if ds.all (fun d => d.2 == 0xFF) && ds.length == 32 then
      .ok { s with hbm := s.hbm.write pa (ds.map (·.1))
                   sectors := sput (pa / 32) (({ gen := k.gen, poison := poison } : Sector).wrote pa k.serial (va / 32) ds) s.sectors }
    else if sec.gen ≠ k.gen then .error .keygen
    else
      let old := openSector s s.hbm sec pa key va (untouched pa ds)
      let mid := Mem.merge (cellsOf 0 old) (pa % 32) ds
      let t := s.countMerge h ds
      .ok { t with hbm := s.hbm.write (pa / 32 * 32) (mid.read 0 32)
                   sectors := sput (pa / 32) { sec.wrote pa k.serial (va / 32) ds with
                     poison := sec.poison || poison || sec.soft == 2, soft := 0 } s.sectors }
  | .host ba key va =>
    let k := sget {} s.keys key
    if !k.live then .error .keyempty
    else
      let tag := sget {} s.hostTags (ba / 32)
      let old := openSector s s.hostMem tag ba key va (untouched ba ds)
      let mid := Mem.merge (cellsOf 0 old) (ba % 32) ds
      .ok { s with hostMem := s.hostMem.write (ba / 32 * 32) (mid.read 0 32)
                   hostTags := sput (ba / 32) (tag.wrote ba k.serial (va / 32) ds) s.hostTags }

/-- Aligned 32-byte pieces of [a, a + n): address, place in the datum, length (06 R113). -/
def piecesOf (a n : Nat) : List (Nat × Nat × Nat) :=
  (List.range (n / 32 + 2)).filterMap (fun i =>
    let lo := max a (a / 32 * 32 + 32 * i)
    let hi := min (a + n) (a / 32 * 32 + 32 * (i + 1))
    if lo < hi then some (lo, lo - a, hi - lo) else none)

/-! Unloaded times (04 R72, R88, R419, R423). -/

/-- Row and column of a physical gallery: halls stand 2 by 4, galleries of a hall 4 by 4 (01 R11). -/
def galRow (g : Nat) : Nat := g / 64 * 4 + g % 16 / 4
def galCol (g : Nat) : Nat := g / 16 % 4 * 4 + g % 4
def dist (a b : Nat) : Nat := (a - b) + (b - a)
def hops (g h : Nat) : Nat := dist (galRow g) (galRow h) + dist (galCol g) (galCol h)
def bridges (g h : Nat) : Nat := dist (galRow g / 4) (galRow h / 4) + dist (galCol g / 4) (galCol h / 4)

end Sys2Proof.Machine
end

