-- ==== Sys2Proof/Machine/Flags.lean ====
section
/-! DEFINITION. Conditions and the flag file: scalar, vector and flag conditions, classes, and the operations of R60 in their order. -/

namespace Sys2Proof.Machine
open Sys2Proof

/-- Scalar conditions (08 Table 8.2). -/
def scondHolds (cc : SCond) (a b : Word) : Bool :=
  match cc with
  | .eq => a == b
  | .ne => a != b
  | .lt => a.slt b
  | .ge => !(a.slt b)
  | .le => !(b.slt a)
  | .gt => b.slt a
  | .ltu => a.ult b
  | .geu => !(a.ult b)
  | .leu => !(b.ult a)
  | .gtu => b.ult a

/-- Vector conditions on the codes of lane j (09 Table 9.4). -/
def vcondHolds (cc : VCond) (f : Fmt) (a b j : Nat) : Bool :=
  if cc == .rb then (if f == .f32 then ranksBefore f a j b (j + 64) else decide (decodeI f b ≤ decodeI f a))
  else if f == .f32 then
    let n := isNanCode f a || isNanCode f b
    let ka := ordKey f false a
    let kb := ordKey f false b
    match cc with
    | .eq => !n && ka == kb
    | .ne => n || ka != kb
    | .lt => !n && decide (ka < kb)
    | .ge => !n && decide (kb ≤ ka)
    | .le => !n && decide (ka ≤ kb)
    | .gt => !n && decide (kb < ka)
    | _ => n
  else
    let x := decodeI f a
    let y := decodeI f b
    match cc with
    | .eq => x == y
    | .ne => x != y
    | .lt => decide (x < y)
    | .ge => decide (y ≤ x)
    | .le => decide (x ≤ y)
    | .gt => decide (y < x)
    | _ => false

/-- The class of an FP32 code (09 R183). -/
def fclass (a : Nat) : Nat :=
  let neg := decide (2 ^ 31 ≤ a)
  match decodeF .f32 a with
  | .nan => 8
  | .inf _ => if neg then 0 else 7
  | .fin _ m _ => if m = 0 then (if neg then 3 else 4) else if m < 2 ^ 23 then (if neg then 2 else 5) else (if neg then 1 else 6)

/-- Flag conditions (08 Table 8.6). -/
def fcondHolds (fc : FCond) (f v : W32) : Bool :=
  match fc with
  | .ge => decide ((f - v).toNat < 2 ^ 31)
  | .eq => f == v
  | .ne => f != v
  | .geu => !(f.ult v)

/-- The same against the 64-bit v of WAIT and WAITANY: GE alone reduces it modulo 2³² (08 R163). -/
def flagHolds (fc : FCond) (f : W32) (v : Word) : Bool :=
  match fc with
  | .ge => fcondHolds .ge f (v.setWidth 32)
  | .eq => f.setWidth 64 == v
  | .ne => f.setWidth 64 != v
  | .geu => !((f.setWidth 64).ult v)

def flagOf (m : Sparse W32) (n : Nat) : W32 := sget 0 m n
def flagSet (m : Sparse W32) (n : Nat) (v : W32) : Sparse W32 := sset 0 n v m
def flagAdd (m : Sparse W32) (n : Nat) (v : W32) : Sparse W32 := flagSet m n (flagOf m n + v)

/-- FADDB at a flag: the flag after it, from an exact comparison (11 R227). -/
def faddbNew (old : W32) (inc : Nat) (bound : W32) : W32 := if old.toNat + inc ≤ bound.toNat then old + BitVec.ofNat 32 inc else old

/-- One operation that arrived at the port (03 R60, step 1). -/
def flagArrive (m : Sparse W32) (o : Nat × FlagOp) : Sparse W32 :=
  match o.2 with
  | .add v => flagAdd m o.1 v
  | .set v => flagSet m o.1 v
  | .bounded p => flagSet m o.1 (faddbNew (flagOf m o.1) (p.aux.toNat % 16 + 1) p.val)

/-- The operation depends on the value that it finds. -/
def FlagOp.reads : FlagOp → Bool
  | .set _ => false
  | _ => true

/-- The requests that a run of arrived operations answers, each with the value that it found (11 R227). -/
def flagAnswers : Sparse W32 → List (Nat × FlagOp) → List (Packet × W32)
  | _, [] => []
  | m, o :: t =>
    (match o.2 with
      | .bounded p => [(p, flagOf m o.1)]
      | _ => []) ++ flagAnswers (flagArrive m o) t

/-- The value an operand of FADD and FSET supplies (11 R221), and the v of a wait (08 R163). -/
def State.flagV (s : State) : FOperand → W32
  | .imm n => n.setWidth 32
  | .reg a => (s.rdS 1 a).setWidth 32
def State.waitV (s : State) : FOperand → Word
  | .imm n => n.setWidth 64
  | .reg a => s.rdS 1 a

/-- The flag file after a local C-slot flag operation, step 2 of R60. -/
def State.localFlags (s : State) (i : Instr) (m : Sparse W32) : Sparse W32 :=
  if !s.on (guardOf i) then m
  else match i with
    | .fadd _ f v => flagAdd m f.toNat (s.flagV v)
    | .fset _ f v => flagSet m f.toNat (s.flagV v)
    | .faddb _ _ f incM1 b =>
      flagSet m f.toNat (faddbNew (flagOf m f.toNat) (incM1.toNat + 1) ((s.src.sreg b.toNat).setWidth 32))
    | _ => m

/-- The condition of WAIT and WAITANY on a flag file (08 R163). -/
def State.waitHolds (s : State) (m : Sparse W32) (i : Instr) : Bool :=
  match i with
  | .wait _ fc f v => flagHolds fc (flagOf m f.toNat) (s.waitV v)
  | .waitany _ fc f nM1 v => (List.range (nM1.toNat + 1)).any (fun j => flagHolds fc (flagOf m (f.toNat + j)) (s.waitV v))
  | _ => true

/-- A flag operation that reaches a seat's port; it applies in the first unfrozen cycle (03 R59, R60). -/
def State.flagAt (s : State) (c f : Nat) (o : FlagOp) : State := s.modCore c (fun k => { k with flagBuf := k.flagBuf ++ [(f, o)] })

end Sys2Proof.Machine
end

