-- ==== Sys2Proof/Machine/Scalar.lean ====
section
/-! DEFINITION. The A slot: integer and address arithmetic, compares, predicates, special registers, pointers, REPS (08 R156 to R160,
07 R142, R144). -/

namespace Sys2Proof.Machine
open Sys2Proof

abbrev Out := Host.Outcome State Fault Refusal

/-- A scalar result under a scalar guard. -/
def State.alu (s : State) (i : Instr) (g : Guard) (d : SReg) (lat : Nat) (v : Word) : Out :=
  s.guarded i g (.ok (s.resultS lat d.toNat v))

/-- A 64-bit predicate result under a scalar guard, visible at cy 1. -/
def State.pred (s : State) (i : Instr) (g : Guard) (d : PReg) (v : Word) : Out :=
  s.guarded i g (.ok (s.resultP 1 d.toNat v))

def allOnes (b : Bool) : Word := if b then BitVec.allOnes 64 else 0
/-- A predicate source, complemented where its bit is set. -/
def State.rdP (s : State) (a : PReg) (n : Bool) : Word := let p := s.src.preg a.toNat; if n then ~~~p else p
/-- The count of a shift (08 Table 8.1). -/
def State.shiftN (s : State) : SCount → Nat
  | .imm n => n.toNat
  | .reg b => (s.rdS 2 b).toNat % 64

/-! Arithmetic and logic (08 R156). -/

def execAdd (g : Guard) (d : SReg) (a b : SSrc) (s : State) : Out := s.alu (.add g d a b) g d 1 (s.rdS 1 a + s.rdS 2 b)
def execSub (g : Guard) (d : SReg) (a b : SSrc) (s : State) : Out := s.alu (.sub g d a b) g d 1 (s.rdS 1 a - s.rdS 2 b)
def execAddi (g : Guard) (d : SReg) (a : SSrc) (imm : BitVec 16) (s : State) : Out :=
  s.alu (.addi g d a imm) g d 1 (s.rdS 1 a + imm.signExtend 64)
def execMul (g : Guard) (d : SReg) (a b : SSrc) (s : State) : Out := s.alu (.mul g d a b) g d 3 (s.rdS 1 a * s.rdS 2 b)
/-- The high half of the 128-bit product, signed or unsigned. -/
def mulHigh (u : Bool) (a b : Word) : Word :=
  if u then BitVec.ofNat 64 (a.toNat * b.toNat / 2 ^ 64) else BitVec.ofInt 64 (a.toInt * b.toInt / 2 ^ 64)
def execMulh (g : Guard) (d : SReg) (a b : SSrc) (u : Bool) (s : State) : Out :=
  s.alu (.mulh g d a b u) g d 3 (mulHigh u (s.rdS 1 a) (s.rdS 2 b))
def execAnd (g : Guard) (d : SReg) (a b : SSrc) (s : State) : Out := s.alu (.and g d a b) g d 1 (s.rdS 1 a &&& s.rdS 2 b)
def execOr (g : Guard) (d : SReg) (a b : SSrc) (s : State) : Out := s.alu (.or g d a b) g d 1 (s.rdS 1 a ||| s.rdS 2 b)
def execXor (g : Guard) (d : SReg) (a b : SSrc) (s : State) : Out := s.alu (.xor g d a b) g d 1 (s.rdS 1 a ^^^ s.rdS 2 b)
def execAndn (g : Guard) (d : SReg) (a b : SSrc) (s : State) : Out := s.alu (.andn g d a b) g d 1 (s.rdS 1 a &&& ~~~s.rdS 2 b)
def execShl (g : Guard) (d : SReg) (a : SSrc) (k : SCount) (s : State) : Out := s.alu (.shl g d a k) g d 1 (s.rdS 1 a <<< s.shiftN k)
def execShr (g : Guard) (d : SReg) (a : SSrc) (k : SCount) (s : State) : Out := s.alu (.shr g d a k) g d 1 (s.rdS 1 a >>> s.shiftN k)
def execSar (g : Guard) (d : SReg) (a : SSrc) (k : SCount) (s : State) : Out :=
  s.alu (.sar g d a k) g d 1 ((s.rdS 1 a).sshiftRight (s.shiftN k))
def execMin (g : Guard) (d : SReg) (a b : SSrc) (s : State) : Out :=
  s.alu (.min g d a b) g d 1 (if (s.rdS 2 b).slt (s.rdS 1 a) then s.rdS 2 b else s.rdS 1 a)
def execMax (g : Guard) (d : SReg) (a b : SSrc) (s : State) : Out :=
  s.alu (.max g d a b) g d 1 (if (s.rdS 1 a).slt (s.rdS 2 b) then s.rdS 2 b else s.rdS 1 a)
def execMinu (g : Guard) (d : SReg) (a b : SSrc) (s : State) : Out :=
  s.alu (.minu g d a b) g d 1 (if (s.rdS 2 b).ult (s.rdS 1 a) then s.rdS 2 b else s.rdS 1 a)
def execMaxu (g : Guard) (d : SReg) (a b : SSrc) (s : State) : Out :=
  s.alu (.maxu g d a b) g d 1 (if (s.rdS 1 a).ult (s.rdS 2 b) then s.rdS 2 b else s.rdS 1 a)
def execSel (g : Guard) (d : SReg) (q : PReg) (a b : SSrc) (s : State) : Out :=
  s.alu (.sel g d q a b) g d 1 (if (s.src.preg q.toNat).getLsbD 0 then s.rdS 1 a else s.rdS 2 b)
/-- Leading zero bits, 0 to 64. -/
def leadingZeros (a : Word) : Nat := 64 - bitLen a.toNat
def execClz (g : Guard) (d : SReg) (a : SSrc) (s : State) : Out := s.alu (.clz g d a) g d 1 (word64 (leadingZeros (s.rdS 1 a)))
def execPopc (g : Guard) (d : SReg) (a : SSrc) (s : State) : Out := s.alu (.popc g d a) g d 1 (word64 (onesIn (s.rdS 1 a)))
/-- Bits POS + LEN − 1 to POS, extended by S. -/
def extract (a : Word) (pos len : Nat) (sg : Bool) : Word :=
  let f := a.toNat / 2 ^ pos % 2 ^ len
  if sg ∧ 2 ^ (len - 1) ≤ f then word64 (2 ^ 64 - 2 ^ len + f) else word64 f
def execExtr (g : Guard) (d : SReg) (a : SSrc) (pos lenM1 : BitVec 6) (sg : Bool) (s : State) : Out :=
  s.alu (.extr g d a pos lenM1 sg) g d 1 (extract (s.rdS 1 a) pos.toNat (lenM1.toNat + 1) sg)
def execLea (g : Guard) (d : SReg) (a b : SSrc) (sh : BitVec 3) (disp : BitVec 13) (s : State) : Out :=
  s.alu (.lea g d a b sh disp) g d 1 (s.rdS 1 a + (s.rdS 2 b <<< sh.toNat) + disp.signExtend 64)
def execMov (g : Guard) (d : SReg) (a : SSrc) (s : State) : Out := s.alu (.mov g d a) g d 1 (s.rdS 1 a)
def execLi (g : Guard) (d : SReg) (imm : W32) (s : State) : Out := s.alu (.li g d imm) g d 1 (imm.signExtend 64)

/-- LIH puts its immediate above that of the LI beside it: the pair writes once, under LI's guard, as a result of LI's slot. -/
def withHigh (d : SReg) (imm : W32) (iss : Nat) (p : Pend) : Pend :=
  if p.slot = 0 ∧ p.iss = iss ∧ p.dest = .s d.toNat then
    { p with value := ((imm ++ (p.value.setWidth 32 : W32) : Word)).setWidth 2048 }
  else p
def execLih (d : SReg) (imm : W32) (s : State) : Out :=
  .next (s.modCur (fun k => { k with inflight := k.inflight.map (withHigh d imm k.issued) }))

/-! Compares and predicates (08 R157, R158). -/

def execCmp (g : Guard) (cc : SCond) (d : PReg) (a b : SSrc) (s : State) : Out :=
  s.pred (.cmp g cc d a b) g d (allOnes (scondHolds cc (s.rdS 1 a) (s.rdS 2 b)))
def execCmpi (g : Guard) (cc : SCond) (d : PReg) (a : SSrc) (imm : BitVec 12) (s : State) : Out :=
  s.pred (.cmpi g cc d a imm) g d (allOnes (scondHolds cc (s.rdS 1 a) (imm.signExtend 64)))
def execPand (g : Guard) (d a : PReg) (na : Bool) (b : PReg) (nb : Bool) (s : State) : Out :=
  s.pred (.pand g d a na b nb) g d (s.rdP a na &&& s.rdP b nb)
def execPor (g : Guard) (d a : PReg) (na : Bool) (b : PReg) (nb : Bool) (s : State) : Out :=
  s.pred (.por g d a na b nb) g d (s.rdP a na ||| s.rdP b nb)
def execPxor (g : Guard) (d a : PReg) (na : Bool) (b : PReg) (nb : Bool) (s : State) : Out :=
  s.pred (.pxor g d a na b nb) g d (s.rdP a na ^^^ s.rdP b nb)
def execPmov (g : Guard) (d a : PReg) (na : Bool) (s : State) : Out := s.pred (.pmov g d a na) g d (s.rdP a na)

/-! Special registers (03 R48 to R50, 08 R159). -/

/-- Table 3.4, with the registers that SRWR writes as the bundle reads them. CST shows RESUME 8 and FRZCAUSE 0 (R49). -/
def Core.special (k : Core) (r : RegFile) (n : Nat) : Option Word :=
  if n = 0x000 then some (word64 k.seat)
  else if n = 0x001 then some (word64 k.nseats)
  else if n = 0x002 then some (word64 (k.taskid + k.job * 2 ^ 16))
  else if 0x004 ≤ n ∧ n ≤ 0x007 then some (k.dom.getD (n - 4) 0)
  else if n = 0x010 then some (word64 r.allot)
  else if n = 0x011 then some (word64 r.rbase)
  else if n = 0x012 then some (word64 r.rsize)
  else if n = 0x013 then some (word64 r.rrb)
  else if n = 0x014 then some (r.lcnt.setWidth 64)
  else if n = 0x020 then some ({ k with resume := 8, frzcause := 0 } : Core).cst
  else if n = 0x021 then some (word64 k.world)
  else if n = 0x022 then some (word64 k.gen)
  else if n = 0x030 then some (word64 k.cyc)
  else if n = 0x031 then some (word64 k.frz)
  else if n = 0x032 then some (word64 k.rgd)
  else if 0x040 ≤ n ∧ n ≤ 0x04F then some (((k.exts[n - 0x040]?).map (·.reg)).getD 0)
  else if n = 0x060 then some (k.feat.extractLsb' 0 64)
  else if n = 0x061 then some (k.feat.extractLsb' 64 64)
  else none

/-- The registers that SRWR may name (03 Table 3.4). -/
def specialWritable (n : Nat) : Bool := (decide (4 ≤ n) && decide (n ≤ 7)) || (decide (0x10 ≤ n) && decide (n ≤ 0x14)) || n == 0x20
def specialListed (n : Nat) : Bool := (({} : Core).special {} n).isSome

/-- A value outside the accepted ones of Table 8.3 (20 R364). -/
def specialRefuses (n : Nat) (v : Word) : Bool :=
  (n == 0x10 && (v.toNat % 32 == 0 || decide (16 < v.toNat % 32))) ||
  (n == 0x12 && (decide (256 < v.toNat) || v.toNat % 8 != 0))

/-- The value that SRWR writes: RRB reduced by RSIZE as the bundle reads it (03 R44, R48, R56). DESIGN CHOICE (log 98): a value with bits above
[7:0] loses them, as reserved bits do (08 R159), before it is reduced. -/
def RegFile.srwrValue (r : RegFile) (n : Nat) (v : Word) : Word :=
  if n = 0x13 then word64 (if r.rsize = 0 then 0 else v.toNat % 2 ^ 8 % r.rsize) else v

def execSrrd (g : Guard) (d : SReg) (n : BitVec 10) (s : State) : Out :=
  match s.cur.special s.src n.toNat with
  | some v => s.alu (.srrd g d n) g d 2 v
  | none => s.finish (.srrd g d n) (.error (.specreg, 0))

def execSrwr (g : Guard) (n : BitVec 10) (a : SSrc) (s : State) : Out :=
  if !specialWritable n.toNat then s.finish (.srwr g n a) (.error (.specreg, 0))
  else s.guarded (.srwr g n a) g (do
    let v := s.rdS 1 a
    raiseIf (specialRefuses n.toNat v) .limit v
    .ok (s.result 1 (.special n.toNat) ((s.src.srwrValue n.toNat v).setWidth 2048)))

/-! Pointers and repeat (08 R160, 04 R68, 21 R370). -/

def execGspace (g : Guard) (d : SReg) (a : SSrc) (s : State) : Out := s.alu (.gspace g d a) g d 1 (s.rdS 1 a >>> 60)

/-- The seat's PRIVATE region, base included (04 R70). -/
def Core.privBase (k : Core) : Nat := k.pbase + k.seat * k.pstride

/-- Table 4.3: the pointer converted, or the null pointer. DESIGN CHOICE (log 80): a PRIVATE pointer whose address reaches 2⁵⁷ converts to the
address modulo 2⁵⁷, and a GLOBAL one converts back where it lies between the region's ends as integers. -/
def gcast (k : Core) (w1 w2 : Window) (p m : Word) : Word :=
  let w := k.width
  let va := field p 56 0
  let mod := m.toNat % 2 ^ 12
  let hg := field p 38 32
  if w1 = w2 then p
  else match w1, w2 with
    | .priv, .global => if field p 31 0 < k.psize then word64 ((k.privBase + field p 31 0) % 2 ^ 57) else 0
    | .global, .priv => if k.privBase ≤ va ∧ va < k.privBase + k.psize then word64 (0x8 * 2 ^ 60 + (va - k.privBase)) else 0
    | .scratch, .pod =>
      if field p 47 32 = k.seat then
        word64 (0xC * 2 ^ 60 + mod * 2 ^ 40 + 2 ^ 39 + k.seat / w * 2 ^ 32 + k.seat % w * 2 ^ 18 + field p 17 0) else 0
    | .gallery, .pod => word64 (0xC * 2 ^ 60 + mod * 2 ^ 40 + hg * 2 ^ 32 + field p 21 0)
    | .pod, .scratch =>
      if field p 39 39 = 1 ∧ field p 51 40 = mod then word64 (0x9 * 2 ^ 60 + (w * hg + field p 20 18) * 2 ^ 32 + field p 17 0) else 0
    | .pod, .gallery => if field p 39 39 = 0 ∧ field p 51 40 = mod then word64 (0xA * 2 ^ 60 + hg * 2 ^ 32 + field p 21 0) else 0
    | _, _ => 0

def execGcast (g : Guard) (t : Window) (d : SReg) (a m : SSrc) (s : State) : Out :=
  s.guarded (.gcast g t d a m) g (
    match windowOf (s.rdS 1 a) with
    | none => .error (.tag, s.rdS 1 a)
    | some w => .ok (s.resultS 1 d.toNat (gcast s.cur w t (s.rdS 1 a) (s.rdS 2 m))))

def execReps (g : Guard) (a : SSrc) (s : State) : Out :=
  s.guarded (.reps g a) g (do
    let v := s.rdS 1 a
    raiseIf (decide (256 < v.toNat)) .repcount v
    .ok (s.result 1 .prc (v.setWidth 2048)))

end Sys2Proof.Machine
end

