-- ==== Sys2Proof/Machine/Vector.lean ====
section
/-! DEFINITION. The V slot: element arithmetic, moves, compares, lane predicates, reductions, conversion, special functions and the
deferral queue (09 R174 to R190). -/

namespace Sys2Proof.Machine
open Sys2Proof

/-! Shared operations. -/

/-- Element e of width w as a number (05 R94). -/
def elemN (w : Nat) (v : Vec) (e : Nat) : Nat := v.toNat / 2 ^ (w * e) % 2 ^ w
/-- A register made element by element. -/
def map1 (f : Fmt) (op : Nat → Nat) (a : Vec) : Vec :=
  ofElems (Fmt.width f) (2048 / Fmt.width f) (fun e => op (elemN (Fmt.width f) a e))
def map2 (f : Fmt) (op : Nat → Nat → Nat) (a b : Vec) : Vec :=
  ofElems (Fmt.width f) (2048 / Fmt.width f) (fun e => op (elemN (Fmt.width f) a e) (elemN (Fmt.width f) b e))
def map3 (f : Fmt) (op : Nat → Nat → Nat → Nat) (a b d : Vec) : Vec :=
  ofElems (Fmt.width f) (2048 / Fmt.width f) (fun e => op (elemN (Fmt.width f) a e) (elemN (Fmt.width f) b e) (elemN (Fmt.width f) d e))

/-- A vector result under the guard mask `m`: no lane, no result. Destinations are checked before sources (log 17). -/
def State.vres (s : State) (lat k : Nat) (v m : Vec) : State := if m = 0 then s else s.result lat (.v k) v m

/-- The end of a lane-wise instruction: each active lane takes its lane of the value (09 R175). -/
def State.lanes (s : State) (i : Instr) (g : Guard) (st : Sticky) (lat : Nat) (d : VReg) (v : R Vec) : Out :=
  s.finish i (do
    let k ← s.dstV st d
    let x ← v
    .ok (s.vres lat k x (laneMask (s.guard g))))

def State.un (s : State) (st : Sticky) (a : VSrc) (op : Vec → Vec) : R Vec := (s.rdV 1 st a).map op
def State.bin (s : State) (st : Sticky) (a b : VSrc) (op : Vec → Vec → Vec) : R Vec := do
  let x ← s.rdV 1 st a
  let y ← s.rdV 2 st b
  .ok (op x y)
/-- As bin, with the destination read as a third source. -/
def State.fused (s : State) (st : Sticky) (d : VReg) (a b : VSrc) (op : Vec → Vec → Vec → Vec) : R Vec := do
  let z ← s.rdV 0 st (.reg d)
  let x ← s.rdV 1 st a
  let y ← s.rdV 2 st b
  .ok (op x y z)

/-- VFP 4 cy for floating formats, VINT 2 cy for integers (09 Table 9.3). -/
def latOf (f : Fmt) : Nat := if f.isFloat then 4 else 2

/-! Arithmetic (09 R178, R179). -/

def execVadd (g : Guard) (st : Sticky) (ty : Fmt) (d : VReg) (a b : VSrc) (s : State) : Out :=
  s.lanes (.vadd g st ty d a b) g st (latOf ty) d (s.bin st a b (map2 ty (eAdd ty)))
def execVsub (g : Guard) (st : Sticky) (ty : Fmt) (d : VReg) (a b : VSrc) (s : State) : Out :=
  s.lanes (.vsub g st ty d a b) g st (latOf ty) d (s.bin st a b (map2 ty (eSub ty)))
def execVmul (g : Guard) (st : Sticky) (ty : Fmt) (d : VReg) (a b : VSrc) (s : State) : Out :=
  s.lanes (.vmul g st ty d a b) g st 4 d (s.bin st a b (map2 ty (eMul ty)))
def execVfma (g : Guard) (st : Sticky) (ty : Fmt) (d : VReg) (a b : VSrc) (s : State) : Out :=
  s.lanes (.vfma g st ty d a b) g st 6 d (s.fused st d a b (map3 ty (ffma ty)))
def execVfms (g : Guard) (st : Sticky) (ty : Fmt) (d : VReg) (a b : VSrc) (s : State) : Out :=
  s.lanes (.vfms g st ty d a b) g st 6 d (s.fused st d a b (map3 ty (ffms ty)))
def execVfnma (g : Guard) (st : Sticky) (ty : Fmt) (d : VReg) (a b : VSrc) (s : State) : Out :=
  s.lanes (.vfnma g st ty d a b) g st 6 d (s.fused st d a b (map3 ty (ffnma ty)))
def execVmin (g : Guard) (st : Sticky) (ty : Fmt) (d : VReg) (a b : VSrc) (s : State) : Out :=
  s.lanes (.vmin g st ty d a b) g st (latOf ty) d (s.bin st a b (map2 ty (eMinMax ty false)))
def execVmax (g : Guard) (st : Sticky) (ty : Fmt) (d : VReg) (a b : VSrc) (s : State) : Out :=
  s.lanes (.vmax g st ty d a b) g st (latOf ty) d (s.bin st a b (map2 ty (eMinMax ty true)))
def execVabs (g : Guard) (st : Sticky) (ty : Fmt) (d : VReg) (a : VSrc) (s : State) : Out :=
  s.lanes (.vabs g st ty d a) g st 2 d (s.un st a (map1 ty (eAbs ty)))
def execVneg (g : Guard) (st : Sticky) (ty : Fmt) (d : VReg) (a : VSrc) (s : State) : Out :=
  s.lanes (.vneg g st ty d a) g st 2 d (s.un st a (map1 ty (eNeg ty)))
def execVscale (g : Guard) (st : Sticky) (ty : Fmt) (d : VReg) (a b : VSrc) (s : State) : Out :=
  s.lanes (.vscale g st ty d a b) g st 4 d (s.bin st a b (map2 .f32 (fun x n => fscale x (decodeI .int32 n))))
def execVrint (g : Guard) (st : Sticky) (ty : Fmt) (d : VReg) (a : VSrc) (s : State) : Out :=
  s.lanes (.vrint g st ty d a) g st 4 d (s.un st a (map1 ty (frint ty)))
def execVadds (g : Guard) (st : Sticky) (ty : Fmt) (d : VReg) (a b : VSrc) (s : State) : Out :=
  s.lanes (.vadds g st ty d a b) g st 2 d (s.bin st a b (map2 ty (eAdds ty)))
def execVsubs (g : Guard) (st : Sticky) (ty : Fmt) (d : VReg) (a b : VSrc) (s : State) : Out :=
  s.lanes (.vsubs g st ty d a b) g st 2 d (s.bin st a b (map2 ty (eSubs ty)))
def execVmullo (g : Guard) (st : Sticky) (ty : Fmt) (d : VReg) (a b : VSrc) (s : State) : Out :=
  s.lanes (.vmullo g st ty d a b) g st 2 d (s.bin st a b (map2 ty (fun x y => x * y % 2 ^ 32)))
def execVmulhi (g : Guard) (st : Sticky) (ty : Fmt) (d : VReg) (a b : VSrc) (s : State) : Out :=
  s.lanes (.vmulhi g st ty d a b) g st 2 d (s.bin st a b (map2 ty (eMulHi ty)))

/-! Logic, shifts and moves (09 R180, R181). -/

def execVand (g : Guard) (st : Sticky) (d : VReg) (a b : VSrc) (s : State) : Out :=
  s.lanes (.vand g st d a b) g st 2 d (s.bin st a b (fun x y => x &&& y))
def execVor (g : Guard) (st : Sticky) (d : VReg) (a b : VSrc) (s : State) : Out :=
  s.lanes (.vor g st d a b) g st 2 d (s.bin st a b (fun x y => x ||| y))
def execVxor (g : Guard) (st : Sticky) (d : VReg) (a b : VSrc) (s : State) : Out :=
  s.lanes (.vxor g st d a b) g st 2 d (s.bin st a b (fun x y => x ^^^ y))
def execVandn (g : Guard) (st : Sticky) (d : VReg) (a b : VSrc) (s : State) : Out :=
  s.lanes (.vandn g st d a b) g st 2 d (s.bin st a b (fun x y => x &&& ~~~y))
def execVnot (g : Guard) (st : Sticky) (d : VReg) (a : VSrc) (s : State) : Out :=
  s.lanes (.vnot g st d a) g st 2 d (s.un st a (fun x => ~~~x))
def execVmov (g : Guard) (st : Sticky) (d : VReg) (a : VSrc) (s : State) : Out :=
  s.lanes (.vmov g st d a) g st 2 d (s.un st a id)

/-- The shifts of an element of width w by a count below w. -/
def eShl (f : Fmt) (a k : Nat) : Nat := a * 2 ^ (k % Fmt.width f) % 2 ^ Fmt.width f
def eShr (f : Fmt) (a k : Nat) : Nat := a / 2 ^ (k % Fmt.width f)
def eSar (f : Fmt) (a k : Nat) : Nat :=
  let w := Fmt.width f
  let x : Int := if 2 ^ (w - 1) ≤ a then (a : Int) - 2 ^ w else a
  wrapInt w (x / 2 ^ (k % w))
def State.shift (s : State) (st : Sticky) (f : Fmt) (a : VSrc) (k : VCount) (op : Nat → Nat → Nat) : R Vec :=
  match k with
  | .imm n => s.un st a (map1 f (fun x => op x n.toNat))
  | .reg b => s.bin st a b (map2 f op)
def execVshl (g : Guard) (st : Sticky) (ty : Fmt) (d : VReg) (a : VSrc) (k : VCount) (s : State) : Out :=
  s.lanes (.vshl g st ty d a k) g st 2 d (s.shift st ty a k (eShl ty))
def execVshr (g : Guard) (st : Sticky) (ty : Fmt) (d : VReg) (a : VSrc) (k : VCount) (s : State) : Out :=
  s.lanes (.vshr g st ty d a k) g st 2 d (s.shift st ty a k (eShr ty))
def execVsar (g : Guard) (st : Sticky) (ty : Fmt) (d : VReg) (a : VSrc) (k : VCount) (s : State) : Out :=
  s.lanes (.vsar g st ty d a k) g st 2 d (s.shift st ty a k (eSar ty))

/-- One value in every element. -/
def splat (f : Fmt) (x : Nat) : Vec := ofElems (Fmt.width f) (2048 / Fmt.width f) (fun _ => x)
def execVbcst (g : Guard) (ty : Fmt) (d : VReg) (a : SSrc) (s : State) : Out :=
  s.lanes (.vbcst g ty d a) g noStep 2 d (.ok (splat ty (s.rdS 1 a).toNat))
def execVli (g : Guard) (ty : Fmt) (d : VReg) (imm : W32) (s : State) : Out :=
  s.lanes (.vli g ty d imm) g noStep 2 d (.ok (splat ty imm.toNat))
def execViota (g : Guard) (ty : Fmt) (d : VReg) (a : SSrc) (s : State) : Out :=
  s.lanes (.viota g ty d a) g noStep 2 d (.ok (ofElems 32 64 (fun j => (s.rdS 1 a).toNat + j)))
def execVsel (g : Guard) (d : VReg) (q : BitVec 3) (a b : VSrc) (s : State) : Out :=
  s.lanes (.vsel g d q a b) g noStep 2 d (s.bin noStep a b (fun x y => mixBits y x (laneMask (s.src.preg q.toNat))))

/-! Compares and predicates (09 R182 to R184). -/

/-- A predicate result: bit j for each active lane j, the other bits kept; no lane, no result. -/
def State.vpred (s : State) (i : Instr) (g : Guard) (d : PReg) (r : R Word) : Out :=
  s.finish i (do
    let v ← r
    .ok (if s.guard g = 0 then s else s.resultP 2 d.toNat v (s.guard g)))

/-- A word whose bit j is f j. -/
def bits64 (f : Nat → Bool) : Word := maskWord (BitVec.allOnes 64) f

def execVcmp (g : Guard) (cc : VCond) (ty : Fmt) (d : PReg) (a b : VSrc) (s : State) : Out :=
  s.vpred (.vcmp g cc ty d a b) g d (do
    let x ← s.rdV 1 noStep a
    let y ← s.rdV 2 noStep b
    .ok (bits64 (fun j => vcondHolds cc ty (elemN 32 x j) (elemN 32 y j) j)))
def execVclass (g : Guard) (d : PReg) (a : VSrc) (mask : BitVec 9) (s : State) : Out :=
  s.vpred (.vclass g d a mask) g d ((s.rdV 1 noStep a).map (fun x => bits64 (fun j => mask.getLsbD (fclass (elemN 32 x j)))))
def execVpset (g : Guard) (d : PReg) (a : SSrc) (s : State) : Out := s.vpred (.vpset g d a) g d (.ok (s.rdS 1 a))
def execVpand (g : Guard) (d a : PReg) (na : Bool) (b : PReg) (nb : Bool) (s : State) : Out :=
  s.vpred (.vpand g d a na b nb) g d (.ok (s.rdP a na &&& s.rdP b nb))
def execVpor (g : Guard) (d a : PReg) (na : Bool) (b : PReg) (nb : Bool) (s : State) : Out :=
  s.vpred (.vpor g d a na b nb) g d (.ok (s.rdP a na ||| s.rdP b nb))
def execVpxor (g : Guard) (d a : PReg) (na : Bool) (b : PReg) (nb : Bool) (s : State) : Out :=
  s.vpred (.vpxor g d a na b nb) g d (.ok (s.rdP a na ^^^ s.rdP b nb))
def execVpnot (g : Guard) (d a : PReg) (s : State) : Out := s.vpred (.vpnot g d a) g d (.ok (s.rdP a true))

/-! Conversion (09 R185, R186, 05 R99 to R102). -/

/-- Stochastic rounding. -/
def srMode (m : RMode) : Bool := m == .sr

/-- The 64 codes of group G. -/
def groupOf (f : Fmt) (v : Vec) (grp : Nat) : List Nat := (List.range 64).map (fun i => elemN (Fmt.width f) v (64 * grp + i))
/-- A register with group G set to the codes and zero elsewhere. -/
def placeGroup (f : Fmt) (grp : Nat) (xs : List Nat) : Vec :=
  BitVec.ofNat 2048 (packNat (Fmt.width f) xs * 2 ^ (64 * Fmt.width f * grp))

/-- Accepted feature bits (15 R299). -/
def State.feature (s : State) (n : Nat) : Bool := s.cur.feat.getLsbD n

/-- The draws of an SR conversion, and the generator after it; none in the other modes. -/
def convDraws (m : RMode) (srg : W32) : List Nat × W32 := if srMode m then draws 64 srg else (List.replicate 64 0, srg)

def execVcvt (g : Guard) (d : VReg) (a : VSrc) (c : Cvt) (s : State) : Out :=
  s.finish (.vcvt g d a c) (
    match c with
    | .plain dst src mode gd gs => do
      raiseIf (srMode mode && !s.feature 3) .feature 3
      let k ← s.dstV noStep d
      let x ← s.rdV 1 noStep a
      let dr := convDraws mode s.cur.srg
      let ys := List.zipWith (convert dst src mode) (groupOf src x gs.toNat) dr.1
      let s1 := s.modCur (fun q => { q with srg := dr.2 })
      .ok (s1.vres 4 k (placeGroup dst gd.toNat ys) (groupMask (Fmt.width dst) gd.toNat (s.guard g)))
    | .block e mode gd vs => do
      raiseIf (srMode mode && !s.feature 3) .feature 3
      let k ← s.dstV noStep d
      let x ← s.rdV 1 noStep a
      let ks ← s.dstV noStep vs
      let dr := convDraws mode s.cur.srg
      let b := blk ((groupOf .f32 x 0).map (decodeF .f32)) e mode dr.1
      let s1 := s.modCur (fun q => { q with srg := dr.2 })
      let s2 := s1.vres 4 k (placeGroup e gd.toNat b.2) (groupMask (Fmt.width e) gd.toNat (s.guard g))
      .ok (if s.guard g = 0 then s2
        else s2.result 4 (.v ks) (BitVec.ofNat 2048 (b.1 * 2 ^ (8 * gd.toNat))) (BitVec.ofNat 2048 (0xFF * 2 ^ (8 * gd.toNat)))))

/-! Special functions and reductions (09 R187, R188, 05 R107). -/

def execVrcp (g : Guard) (d : VReg) (a : VSrc) (s : State) : Out :=
  s.lanes (.vrcp g d a) g noStep 12 d (s.un noStep a (map1 .f32 frcp))
def execVrsq (g : Guard) (d : VReg) (a : VSrc) (s : State) : Out :=
  s.lanes (.vrsq g d a) g noStep 12 d (s.un noStep a (map1 .f32 frsq))
def execVexp2 (g : Guard) (d : VReg) (a : VSrc) (s : State) : Out :=
  s.lanes (.vexp2 g d a) g noStep 12 d (s.un noStep a (fun x => map1 .f32 (fexp2 (expRoots 50 (2 ^ 129))) x))

/-- One level of the tree of R107: adjacent pairs, the lower first. -/
def pairUp (op : Nat → Nat → Nat) : List Nat → List Nat
  | a :: b :: t => op a b :: pairUp op t
  | l => l
/-- The six levels. -/
def treeSum (op : Nat → Nat → Nat) : Nat → List Nat → Nat
  | 0, l => l.headD 0
  | n + 1, l => treeSum op n (pairUp op l)

def vsumOf (ty : Fmt) (g : Word) (x : Vec) : Nat :=
  treeSum (eAdd ty) 6 ((List.range 64).map (fun j => if g.getLsbD j then elemN 32 x j else if ty.isFloat then 0x80000000 else 0))

def execVsum (g : Guard) (ty : Fmt) (d : VReg) (a : VSrc) (s : State) : Out :=
  s.lanes (.vsum g ty d a) g noStep (if ty.isFloat then 24 else 12) d (s.un noStep a (fun x => splat .f32 (vsumOf ty (s.guard g) x)))

/-- Whether candidate lane j beats the lane picked so far: R108 for VRMAX; the least number, or the lower lane, for VRMIN. -/
def beats (mx : Bool) (ty : Fmt) (x : Vec) (j i : Nat) : Bool :=
  let a := elemN 32 x j
  let b := elemN 32 x i
  if mx then ranksBefore ty a j b i
  else if ty.isFloat then
    !isNanCode ty a && (isNanCode ty b || decide (ordKey ty false a < ordKey ty false b))
  else decide (decodeI ty a < decodeI ty b)
/-- The picked lane among the active ones, in ascending order. -/
def pickLane (mx : Bool) (ty : Fmt) (g : Word) (x : Vec) : Option Nat :=
  (List.range 64).foldl (fun acc j =>
    if g.getLsbD j then (match acc with
      | none => some j
      | some i => if beats mx ty x j i then some j else some i) else acc) none
def pickOf (mx idx : Bool) (ty : Fmt) (g : Word) (x : Vec) : Nat :=
  match pickLane mx ty g x with
  | none => 0
  | some j => if idx then j else if ty.isFloat && isNanCode ty (elemN 32 x j) then Fmt.nanCode ty else elemN 32 x j

def execVrmax (g : Guard) (ty : Fmt) (idx : Bool) (d : VReg) (a : VSrc) (s : State) : Out :=
  s.lanes (.vrmax g ty idx d a) g noStep 12 d (s.un noStep a (fun x => splat .f32 (pickOf true idx ty (s.guard g) x)))
def execVrmin (g : Guard) (ty : Fmt) (idx : Bool) (d : VReg) (a : VSrc) (s : State) : Out :=
  s.lanes (.vrmin g ty idx d a) g noStep 12 d (s.un noStep a (fun x => splat .f32 (pickOf false idx ty (s.guard g) x)))

/-! Deferral (02 R42, 09 R189, R190, 22 R393). -/

/-- The registers named from a name on, one by one. -/
def State.rdRun (s : State) (a : VReg) : Nat → R (List Vec)
  | 0 => .ok []
  | n + 1 => do
    let l ← s.rdRun a n
    let k ← vphys s.src (a.toNat + n : Nat)
    .ok (l ++ [s.src.vreg k])
/-- The physical registers named from a name on. -/
def State.dstRun (s : State) (a : VReg) : Nat → R (List Nat)
  | 0 => .ok []
  | n + 1 => do
    let l ← s.dstRun a n
    let k ← vphys s.src (a.toNat + n : Nat)
    .ok (l ++ [k])

/-- Entries of the queue and those retained by a region. -/
def Core.occupancy (k : Core) : Nat := k.dq.length + k.dqRetained.length

/-- DEFER (09 R189). DESIGN CHOICE (log 112): with N = 0 no register is named, so that S1 is not checked against the allotment. -/
def execDefer (g : Guard) (a : VReg) (n : BitVec 3) (s : State) : Out :=
  s.finish (.defer g a n) (do
    let vs ← s.rdRun a n.toNat
    let js := (List.range 64).filter (fun j => (s.guard g).getLsbD j)
    raiseIf (!js.isEmpty && decide (2048 < s.cur.occupancy + js.length)) .deferfull (word64 s.cur.occupancy)
    .ok (s.modCur (fun k => { k with dq := k.dq ++ js.map (fun j => { lane := j, vals := vs.map (fun v => lane v j) }) })))

/-- The lanes of the batch that DRQ drains into register name D + 1 + k, or lane numbers into D. -/
def drqLanes (batch : List DEntry) (k : Nat) : Vec :=
  ofElems 32 64 (fun j => match batch[j]? with
    | none => 0
    | some e => if k = 0 then e.lane else ((e.vals[k - 1]?).getD 0).toNat)

/-- The low m bits. -/
def lowBits (m : Nat) : Word := BitVec.ofNat 64 (2 ^ m - 1)

def execDrq (g : Guard) (d : VReg) (n : BitVec 3) (fl : Bool) (p : PReg) (s : State) : Out :=
  s.finish (.drq g d n fl p) (do
    let ds ← s.dstRun d (n.toNat + 1)
    if s.guard g = 0 then .ok s
    else
      let q := s.cur.dq.length
      let m := if fl then min q 64 else if 64 ≤ q then 64 else 0
      let batch := s.cur.dq.take m
      let s1 := s.modCur (fun k => { k with
        weak := k.weak.filterMap (fun e => if e.1 = 6 then (if e.2 < m then none else some (6, e.2 - m)) else some e)
        dq := k.dq.drop m, dqRetained := if k.rgd = 0 then [] else k.dqRetained ++ batch })
      let s2 := (ds.zip (List.range 5)).foldl (fun t e => t.vres 4 e.1 (drqLanes batch e.2) (laneMask (lowBits m))) s1
      .ok (s2.resultP 4 p.toNat (lowBits m)))

end Sys2Proof.Machine
end

