-- ==== Sys2Proof/Machine/Permute.lean ====
section
/-! DEFINITION. The X slot: transpose, compare-exchange, lane permutes, pack and unpack (09 R191 to R197). -/

namespace Sys2Proof.Machine
open Sys2Proof

/-- XPOSE's clear (09 R192). -/
def Core.xclear (k : Core) (clr : Bool) : Core := if clr then { k with xpWr := 0, xpRd := 0, xpBank := 0 } else k
/-- Row r of bank b. -/
def Core.xrow (k : Core) (b r : Nat) : Vec := sget 0 k.xpose (64 * b + r)
/-- Column RD of the bank that is not being written. -/
def Core.xcol (k : Core) : Vec := ofElems 32 64 (fun i => elemN 32 (k.xrow (1 - k.xpBank) i) k.xpRd)
def Core.xread (k : Core) : Core := { k with xpRd := (k.xpRd + 1) % 64 }
/-- A row written in its active lanes; the bank turns after row 63. -/
def Core.xwrite (k : Core) (v m : Vec) : Core :=
  { k with xpose := sset 0 (64 * k.xpBank + k.xpWr) (mixBits (k.xrow k.xpBank k.xpWr) v m) k.xpose
           xpBank := if (k.xpWr + 1) % 64 = 0 then 1 - k.xpBank else k.xpBank
           xpWr := (k.xpWr + 1) % 64 }

def execXpose (g : Guard) (st : Sticky) (clr : Bool) (op : Xpose) (s : State) : Out :=
  let m := laneMask (s.guard g)
  s.finish (.xpose g st clr op) (
    match op with
    | .w a => do
      let x ← s.rdV 1 st a
      .ok (s.modCur (fun k => (k.xclear clr).xwrite x m))
    | .r d => do
      let k ← s.dstV st d
      let c := s.cur.xclear clr
      .ok ((s.vres 8 k c.xcol m).modCur (fun k => (k.xclear clr).xread))
    | .wr d a => do
      let k ← s.dstV st d
      let x ← s.rdV 1 st a
      let c := s.cur.xclear clr
      .ok ((s.vres 8 k c.xcol m).modCur (fun k => (k.xclear clr).xread.xwrite x m)))

/-- Lanes that CXS exchanges: the lower lane of each pair of active lanes that is out of order (09 R193). -/
def cxsSwaps (ty : Fmt) (g q : Word) (dl : Nat) (key idx : Vec) (j : Nat) : Bool :=
  let m := j + 2 ^ dl
  let kj := elemN 32 key j
  let km := elemN 32 key m
  let ij := elemN 32 idx j
  let im := elemN 32 idx m
  j / 2 ^ dl % 2 == 0 && g.getLsbD j && g.getLsbD m &&
    (if q.getLsbD j then ranksBefore ty km im kj ij else ranksBefore ty kj ij km im)
/-- Where lane j's element comes from. -/
def cxsFrom (sw : Nat → Bool) (dl j : Nat) : Nat :=
  if j / 2 ^ dl % 2 = 0 then (if sw j then j + 2 ^ dl else j) else (if sw (j - 2 ^ dl) then j - 2 ^ dl else j)

def execCxs (g : Guard) (ty : Fmt) (k i : VReg) (q : PReg) (dl : BitVec 3) (s : State) : Out :=
  s.finish (.cxs g ty k i q dl) (do
    let dk ← s.dstV noStep k
    let di ← s.dstV noStep i
    let key := s.src.vreg dk
    let idx := s.src.vreg di
    let sw := cxsSwaps ty (s.guard g) (s.src.preg q.toNat) dl.toNat key idx
    let m := laneMask (bits64 (fun j => (s.guard g).getLsbD j &&
      (s.guard g).getLsbD (if j / 2 ^ dl.toNat % 2 = 0 then j + 2 ^ dl.toNat else j - 2 ^ dl.toNat)))
    .ok ((s.vres 2 dk (ofElems 32 64 (fun j => elemN 32 key (cxsFrom sw dl.toNat j))) m).vres 2 di
      (ofElems 32 64 (fun j => elemN 32 idx (cxsFrom sw dl.toNat j))) m))

/-- Each lane takes the lane of `x` that f names (09 R194). -/
def gatherLanes (x : Vec) (f : Nat → Nat) : Vec := ofElems 32 64 (fun j => elemN 32 x (f j % 64))
def State.laneNo (s : State) : LaneNo → Nat
  | .imm n => n.toNat
  | .reg b => (s.rdS 2 b).toNat % 64

def execXperm (g : Guard) (d : VReg) (a b : VSrc) (s : State) : Out :=
  s.lanes (.xperm g d a b) g noStep 3 d (s.bin noStep a b (fun x y => gatherLanes x (fun j => elemN 32 y j)))
def execXrot (g : Guard) (d : VReg) (a : VSrc) (n : LaneNo) (s : State) : Out :=
  s.lanes (.xrot g d a n) g noStep 3 d (s.un noStep a (fun x => gatherLanes x (fun j => j + s.laneNo n)))
def execXbcst (g : Guard) (d : VReg) (a : VSrc) (n : LaneNo) (s : State) : Out :=
  s.lanes (.xbcst g d a n) g noStep 3 d (s.un noStep a (fun x => gatherLanes x (fun _ => s.laneNo n)))

/-- Element e of the shuffled register (09 R195). -/
def shuffleElem (p : Shuffle) (w : Nat) (a b : Vec) (e : Nat) : Nat :=
  let h := 2048 / w / 2
  match p with
  | .ilo => elemN w (if e % 2 = 0 then a else b) (e / 2)
  | .ihi => elemN w (if e % 2 = 0 then a else b) (h + e / 2)
  | .even => if e < h then elemN w a (2 * e) else elemN w b (2 * (e - h))
  | .odd => if e < h then elemN w a (2 * e + 1) else elemN w b (2 * (e - h) + 1)

def execXshuf (g : Guard) (p : Shuffle) (ty : Fmt) (d : VReg) (a b : VSrc) (s : State) : Out :=
  s.lanes (.xshuf g p ty d a b) g noStep 3 d (s.bin noStep a b (fun x y =>
    ofElems (Fmt.width ty) (2048 / Fmt.width ty) (shuffleElem p (Fmt.width ty) x y)))

def execXpack (g : Guard) (st : Sticky) (ty : Fmt) (d : VReg) (a : VSrc) (grp : BitVec 3) (s : State) : Out :=
  s.finish (.xpack g st ty d a grp) (do
    let k ← s.dstV st d
    let x ← s.rdV 1 st a
    .ok (s.vres 3 k (placeGroup ty grp.toNat ((List.range 64).map (elemN 32 x))) (groupMask (Fmt.width ty) grp.toNat (s.guard g))))

/-- A code of width w extended to a lane. -/
def extendCode (w : Nat) (sg : Bool) (c : Nat) : Nat := if sg ∧ 2 ^ (w - 1) ≤ c then 2 ^ 32 - 2 ^ w + c else c

def execXunpk (g : Guard) (st : Sticky) (ty : Fmt) (d : VReg) (a : VSrc) (grp : BitVec 3) (sg : Bool) (s : State) : Out :=
  s.lanes (.xunpk g st ty d a grp sg) g st 3 d (s.un st a (fun x =>
    ofElems 32 64 (fun j => extendCode (Fmt.width ty) sg (elemN (Fmt.width ty) x (64 * grp.toNat + j)))))

/-- The chosen lanes, lowest first, then zeros (09 R197). -/
def compress (q : Word) (x : Vec) : Vec :=
  let js := (List.range 64).filter (fun j => q.getLsbD j)
  ofElems 32 64 (fun c => match js[c]? with
    | some j => elemN 32 x j
    | none => 0)

def execXcmpr (g : Guard) (d : VReg) (a : VSrc) (q : PReg) (s : State) : Out :=
  s.lanes (.xcmpr g d a q) g noStep 3 d (s.un noStep a (compress (s.src.preg q.toNat)))

end Sys2Proof.Machine
end

