-- ==== Sys2Proof/Machine/Matrix.lean ====
section
/-! DEFINITION. The M slot and the matrix engine: commands captured in MXQ, their operands, tile arithmetic, engine times and clear points
(10 R199 to R209, 05 R104 to R106, 19 R353). -/

namespace Sys2Proof.Machine
open Sys2Proof

/-! Descriptors and operands (10 R202, R203). -/

def dRpitch (d : Word) : Nat := field d 15 0
def dTpitch (d : Word) : Nat := field d 31 16
def dRot (d : Word) : Nat := field d 35 32
def dFormat (d : Word) : Option Fmt := Fmt.ofCode (BitVec.ofNat 6 (field d 41 36))
def dSoff (d : Word) : Nat := field d 63 42

/-- Blocks per line: 2 for BK4, 1 for the other block formats, 0 for unscaled ones. -/
def blocksPerLine (f : Fmt) : Nat := if f.isElem then 0 else if f == .bk4 then 2 else 1

/-- Table 10.2 for MMA and MMAZ. -/
def mmaDescOk (d : Word) : Bool :=
  dRpitch d % 64 == 0 && dTpitch d % 64 == 0 && decide (dRot d ≤ 3) &&
    (match dFormat d with
      | some f => f.mclass.isSome && (!f.isElem || dSoff d == 0)
      | none => false)
/-- Table 10.2 for TLD and TST. -/
def tileDescOk (store : Bool) (d : Word) : Bool :=
  dRpitch d % 64 == 0 && dTpitch d % 64 == 0 && dRot d == 0 && field d 41 36 == 0 && dSoff d == 0 &&
    (!store || decide (256 ≤ dRpitch d))

/-- Window offset of a place. -/
def Place.off : Place → Nat
  | .near o => o
  | .vault _ o => o
  | .va a => a
  | .pod _ _ o _ => o

/-- The limit of the window of a place: the scratchpad limit or the team vault window's size. -/
def Core.windowEnd (k : Core) (limit : Nat) : Place → Nat
  | .near _ => limit
  | .vault _ _ => k.vsize * 0x10000
  | _ => 0

/-- A memory operand checked whole at issue: `rowBytes` bytes of each of 64 lines, and the scales (20 Table 20.4). -/
def State.checkMatrix (s : State) (base desc : Word) (rowBytes : Nat) (nb : Nat) : R Unit := do
  let k := s.cur
  let lim := s.src.limit
  let pl ← checkPtr k lim mWindows base (63 * dRpitch desc + rowBytes) 1
  let last := pl.off + 63 * dRpitch desc
  raiseIf (nb != 0 && decide (k.windowEnd lim pl < dSoff desc + last / 64 * nb + nb)) .winlimit base
  raiseIf (base.toNat % 64 != 0) .align base

/-- The base of a memory operand at the present step (07 R146). -/
def State.stepBase (s : State) (st : Sticky) (base desc : Word) : Word :=
  base + BitVec.ofInt 64 (s.ctx.step * st.step.toInt * dTpitch desc)

/-- Base and descriptor of the memory operand named by s[n], or those captured in SA from word i on. -/
def State.matPair (s : State) (n : SReg) (i : Nat) : Word × Word :=
  if s.ctx.sticky then (s.ctx.sa.getD i 0, s.ctx.sa.getD (i + 1) 0) else (s.src.sreg n.toNat, s.src.sreg (n.toNat + 1))

/-- Registers vn to vn + count − 1, stepped, each renamed separately. -/
def State.rdSpan (s : State) (st : Sticky) (v : VReg) : Nat → R (List Vec)
  | 0 => .ok []
  | n + 1 => do
    let l ← s.rdSpan st v n
    let k ← vphys s.src (s.stepped st v + n)
    .ok (l ++ [s.src.vreg k])
def State.dstSpan (s : State) (st : Sticky) (v : VReg) : Nat → R (List Nat)
  | 0 => .ok []
  | n + 1 => do
    let l ← s.dstSpan st v n
    let k ← vphys s.src (s.stepped st v + n)
    .ok (l ++ [k])

/-- The format of an operand, a memory operand's from its descriptor. -/
def State.matFormat (s : State) (op : MOperand) (i : Nat) : Option Fmt :=
  match op with
  | .reg f _ => some f
  | .mem n => dFormat (s.matPair n i).2

/-- The registers of an operand, read at issue. -/
def State.matRegs (s : State) (st : Sticky) : MOperand → R (Option MSrc)
  | .reg f v => do
    let l ← s.rdSpan st v (spanOf f)
    .ok (some (.regs f (l.take 16) (l.getD 16 0)))
  | .mem _ => .ok none

/-- LIMIT conditions of a memory operand beside the other operand's format. -/
def State.matLimit (s : State) (op : MOperand) (i : Nat) (other : Option Fmt) : R Unit :=
  match op with
  | .reg _ _ => .ok ()
  | .mem n =>
    let d := (s.matPair n i).2
    raiseIf (!mmaDescOk d || (match dFormat d, other with
      | some f, some h => f.mclass != h.mclass
      | _, _ => false)) .limit d

/-- The addresses of a memory operand, checked. -/
def State.matMem (s : State) (st : Sticky) (op : MOperand) (i : Nat) : R MSrc :=
  match op with
  | .reg f _ => .ok (.regs f [] 0)
  | .mem n => do
    let p := s.matPair n i
    let base := s.stepBase st p.1 p.2
    s.checkMatrix base p.2 64 (match dFormat p.2 with
      | some f => blocksPerLine f
      | none => 0)
    .ok (.mem base p.2)

/-- An entry that enters MXQ with the tiles it names; the busy bits are seen from cy 1 (10 R200). -/
def State.enqueueM (s : State) (cmd : MCmd) (g : Word) (tiles : List Nat) : State :=
  s.modCur (fun k => { k with
    mxq := k.mxq ++ [{ cmd := cmd, guard := g, enq := s.ctx.cyc, iss := k.issued, word := s.ctx.word, pc := s.ctx.pc }]
    tileBusy := tiles.foldl (fun l t => ninsert t l) k.tileBusy })

/-- MMA and MMAZ at issue: B's base and descriptor stand in SA behind those of A. -/
def State.mmaIssue (s : State) (z : Bool) (g : Guard) (st : Sticky) (d : TReg) (a b : MOperand) : R State := do
  let ra ← s.matRegs st a
  let rb ← s.matRegs st b
  s.matLimit a 0 (s.matFormat b (saWords a))
  s.matLimit b (saWords a) (s.matFormat a 0)
  let ma ← s.matMem st a 0
  let mb ← s.matMem st b (saWords a)
  .ok (s.enqueueM (.mma z d.toNat (ra.getD ma) (rb.getD mb)) (s.guard g) [d.toNat])

def execMma (g : Guard) (st : Sticky) (d : TReg) (a b : MOperand) (s : State) : Out :=
  s.finish (.mma g st d a b) (s.mmaIssue false g st d a b)
def execMmaz (g : Guard) (st : Sticky) (d : TReg) (a b : MOperand) (s : State) : Out :=
  s.finish (.mmaz g st d a b) (s.mmaIssue true g st d a b)

/-! Tile loads, stores and arithmetic at issue (10 R207, R208). -/

/-- Rows of a tile. -/
def Core.tile (k : Core) (t : Nat) : List Vec :=
  let rows := sget [] k.tiles t
  (List.range 64).map (fun i => rows.getD i 0)

def State.tileMem (s : State) (st : Sticky) (n : SReg) (store : Bool) : R (Word × Word) := do
  let p := s.matPair n 0
  raiseIf (!tileDescOk store p.2) .limit p.2
  let base := s.stepBase st p.1 p.2
  s.checkMatrix base p.2 256 0
  .ok (base, p.2)

def execTld (g : Guard) (st : Sticky) (d : TReg) (a : TSource) (s : State) : Out :=
  s.finish (.tld g st d a) (
    match a with
    | .reg v => do
      let rows ← s.rdSpan st v 64
      .ok (s.enqueueM (.tldReg d.toNat rows) (s.guard g) [d.toNat])
    | .mem n => do
      let p ← s.tileMem st n false
      .ok (s.enqueueM (.tldMem d.toNat p.1 p.2) (s.guard g) [d.toNat]))

def execTstMemory (g : Guard) (st : Sticky) (p : SReg) (a : TReg) (s : State) : Out :=
  s.finish (.tstMemory g st p a) (do
    let q ← s.tileMem st p true
    .ok (s.enqueueM (.tstMem q.1 q.2 a.toNat) (s.guard g) [a.toNat]))

/-- The register form reads its tile at issue and writes 64 names at 16 cy; it enters no queue. DESIGN CHOICE (log 91): one whose guard is zero
in every row writes nothing and so is not in flight; 10 R207 speaks of the delivery of its write. -/
def execTstRegister (g : Guard) (st : Sticky) (d : VReg) (a : TReg) (s : State) : Out :=
  s.finish (.tstRegister g st d a) (do
    let ds ← s.dstSpan st d 64
    let rows := s.cur.tile a.toNat
    .ok ((List.range 64).foldl (fun t i =>
      if (s.guard g).getLsbD i then
        t.modCur (·.push { due := s.ctx.cyc + 16, slot := s.ctx.slot, iss := s.cur.issued, dest := .v (ds.getD i 0)
                           value := rows.getD i 0, tst := true, row := i })
      else t) s))

def execTzero (g : Guard) (d : TReg) (s : State) : Out :=
  s.finish (.tzero g d) (.ok (s.enqueueM (.tzero d.toNat) (s.guard g) [d.toNat]))
def execTscale (g : Guard) (c : Bool) (d : TReg) (a : VReg) (s : State) : Out :=
  s.finish (.tscale g c d a) (do
    let v ← s.rdV 1 noStep (.reg a)
    .ok (s.enqueueM (.tscale c d.toNat v) (s.guard g) [d.toNat]))
def execTadd (g : Guard) (ty : Fmt) (d b : TReg) (s : State) : Out :=
  s.finish (.tadd g ty d b) (.ok (s.enqueueM (.tadd ty d.toNat b.toNat) (s.guard g) [d.toNat, b.toNat]))

/-! Performing an entry. -/

/-- Codes and scale exponents of the 64 lines of an operand; none marks a NaN block. -/
structure MLines where
  f      : Fmt
  lines  : List (List FVal)
  ints   : List (List Int)
  deriving Repr

/-- Elements of a line of 64 bytes: 64 of eight and six bits, 128 of four, 32 of sixteen. -/
def perLine (f : Fmt) : Nat :=
  match f.mclass with
  | some .fp4 => 128
  | some .half => 32
  | _ => 64
/-- Group size (05 Table 5.6). -/
def groupSize (f : Fmt) : Nat := perLine f / 16

/-- The home of the operand's window, as the engine of core c reaches it. -/
def State.engineHome (s : State) (c : Nat) (base : Word) : Home :=
  let k := s.core c
  match windowOf base with
  | some .gallery => s.windowHome k.task (field base 38 32) (field base 21 0)
  | _ => .near c (field base 17 0)

/-- A home moved by n bytes. -/
def Home.plus (h : Home) (n : Nat) : Home :=
  match h with
  | .near c o => .near c (o + n)
  | .vault g o => .vault g (o + n)
  | .hbm pa key va => .hbm (pa + n) key (va + n)
  | .host ba key va => .host (ba + n) key (va + n)

/-- Bytes of near SRAM or a vault, and whether a word of them is poisoned. -/
def State.engineRead (s : State) (h : Home) (n : Nat) : List Byte × Bool :=
  match h with
  | .near c o => ((s.core c).rf.near.read o n, (s.core c).rf.nearPoison.any (fun w => decide (o / 4 ≤ w ∧ 4 * w < o + n)))
  | .vault g o => ((s.gal g).vault.read o n, (s.gal g).poison.any (fun w => decide (o / 4 ≤ w ∧ 4 * w < o + n)))
  | _ => ([], false)

/-- Line n of a memory operand: its chunks turned back by ROT (10 R203). -/
def State.lineAt (s : State) (c : Nat) (base desc : Word) (n : Nat) : List Byte × Bool :=
  let h := (s.engineHome c base).plus (n * dRpitch desc)
  let chunk (i : Nat) := s.engineRead (h.plus (16 * ((i + n * dRot desc) % 4))) 16
  ((List.range 4).flatMap (fun i => (chunk i).1), (List.range 4).any (fun i => (chunk i).2))

/-- Where the scale bytes of line n of a memory operand stand. -/
def State.scaleHome (s : State) (c : Nat) (base desc : Word) (nb n : Nat) : Home :=
  let off := (if windowOf base = some .gallery then field base 21 0 else field base 17 0) + n * dRpitch desc
  let wbase := match windowOf base with
    | some .gallery => base.toNat - field base 21 0
    | _ => base.toNat - field base 17 0
  (s.engineHome c (word64 wbase)).plus (dSoff desc + off / 64 * nb)

/-- Scale bytes of line n of a memory operand. -/
def State.scalesAt (s : State) (c : Nat) (base desc : Word) (f : Fmt) (n : Nat) : List Byte × Bool :=
  let nb := blocksPerLine f
  s.engineRead (s.scaleHome c base desc nb n) nb

/-- The lines of an operand as byte lists, with the scale bytes of each, and whether a word read is poisoned. -/
def State.operandBytes (s : State) (c : Nat) : MSrc → Fmt × List (List Byte × List Byte) × Bool
  | .regs f lines scales =>
    let nb := blocksPerLine f
    (f, (List.range 64).map (fun n =>
      ((vecBytes (lines.getD (n / 4) 0)).drop (64 * (n % 4)) |>.take 64, ((vecBytes scales).drop (n * nb)).take nb)), false)
  | .mem base desc =>
    let f := (dFormat desc).getD .fp8a
    let ls := (List.range 64).map (fun n => (s.lineAt c base desc n, s.scalesAt c base desc f n))
    (f, ls.map (fun l => (l.1.1, l.2.1)), ls.any (fun l => l.1.2 || l.2.2))

/-- The codes of a line. -/
def lineCodes (f : Fmt) (bs : List Byte) : List Nat :=
  let x := bytesToNat bs
  (List.range (perLine f)).map (fun i => x / 2 ^ (Fmt.width f * i) % 2 ^ Fmt.width f)

/-- Elements of a line as exact values, scaled by the block each lies in (05 R95). -/
def lineVals (f : Fmt) (bs : List Byte) (sc : List Byte) : List FVal :=
  ((lineCodes f bs).zip (List.range 128)).map (fun e =>
    let v := decodeF (Fmt.elemOf f) e.1
    if f.isElem then v
    else
      let b := (sc.getD (e.2 / 64) 0).toNat
      if b = 0xFF then .nan else v.scale ((b : Int) - 127))

/-- One group of G products added exactly, then rounded into the accumulator (05 R104, R105). -/
def groupAdd (acc : Nat) (ps : List FVal) : Nat :=
  roundTo .f32 .rne ((decodeF .f32 acc).add (ps.foldl FVal.add (.fin true 0 0)))

/-- Consecutive groups of n. -/
def chunksOf (n : Nat) (l : List FVal) : List (List FVal) := (List.range 16).map (fun g => (l.drop (g * n)).take n)

/-- One element of the tile under a floating-point command. -/
def dotF (n : Nat) (acc : Nat) (a b : List FVal) : Nat := (chunksOf n (List.zipWith FVal.mul a b)).foldl groupAdd acc
/-- One element under an integer command (05 R106). -/
def dotI (acc : Nat) (a b : List Int) : Nat := wrapInt 32 ((List.zipWith (· * ·) a b).foldl (· + ·) (acc : Int))

/-- MMA and MMAZ on the rows of a tile (10 R206). -/
def mmaRows (z : Bool) (g : Word) (fa fb : Fmt) (la lb : List (List Byte × List Byte)) (rows : List Vec) : List Vec :=
  let int := fa.mclass == some .int8
  let va := la.map (fun l => lineVals fa l.1 l.2)
  let vb := lb.map (fun l => lineVals fb l.1 l.2)
  let ia := la.map (fun l => (lineCodes fa l.1).map (decodeI fa))
  let ib := lb.map (fun l => (lineCodes fb l.1).map (decodeI fb))
  (List.range 64).map (fun i =>
    let row := rows.getD i 0
    if g.getLsbD i then
      ofElems 32 64 (fun j =>
        let acc := if z then 0 else elemN 32 row j
        if int then dotI acc (ia.getD i []) (ib.getD j []) else dotF (groupSize fa) acc (va.getD i []) (vb.getD j []))
    else if z then 0 else row)

/-- Rows replaced where the guard is one. -/
def rowsWhere (g : Word) (old new : List Vec) : List Vec :=
  (List.range 64).map (fun i => if g.getLsbD i then new.getD i 0 else old.getD i 0)

/-- TSCALE and TADD on the rows of a tile. -/
def tscaleRows (c : Bool) (v : Vec) (rows : List Vec) : List Vec :=
  (List.range 64).map (fun i => ofElems 32 64 (fun j => eMul .f32 (elemN 32 (rows.getD i 0) j) (elemN 32 v (if c then j else i))))
def taddRows (ty : Fmt) (a b : List Vec) : List Vec :=
  (List.range 64).map (fun i => ofElems 32 64 (fun j => eAdd ty (elemN 32 (a.getD i 0) j) (elemN 32 (b.getD i 0) j)))

/-- A poisoned word in a tile. -/
def Core.tilePoisoned (k : Core) (t : Nat) : Bool := k.tilePoison.any (fun w => w / 4096 == t)

/-- A tile written; the rows written lose their poison (19 R351). -/
def Core.setTile (k : Core) (t : Nat) (wrote : Nat → Bool) (rows : List Vec) : Core :=
  { k with tiles := sset [] t (if rows.all (· == 0) then [] else rows) k.tiles
           tilePoison := k.tilePoison.filter (fun w => w / 4096 != t || !wrote (w / 64 % 64)) }
/-- The rows of a tile whose guard bit is one, written. -/
def Core.setRows (k : Core) (t : Nat) (g : Word) (rows : List Vec) : Core := k.setTile t g.getLsbD (rowsWhere g (k.tile t) rows)

/-- A 256-byte row of a memory-form TLD. -/
def State.rowAt (s : State) (c : Nat) (base desc : Word) (i : Nat) : List Byte × Bool :=
  s.engineRead ((s.engineHome c base).plus (i * dRpitch desc)) 256

/-- Bytes that a tile store writes. -/
def State.engineWrite (s : State) (h : Home) (bs : List Byte) : State :=
  match writeHome s h (full bs) false with
  | .ok t => t
  | .error _ => s

/-- Vault bytes that an entry of a LOCK pair is about to write while the release buffer still holds its bundle, kept as they stand (19 R354). -/
def State.keepUnder (s : State) (c iss : Nat) (h : Home) (n : Nat) : State :=
  match h with
  | .vault g a =>
    if (s.core c).holdsBack s.clock iss then
      s.modCore c (fun k => { k with released := (iss, g, (List.range n).zipWith (fun i b => (a + i, b)) ((s.gal g).vault.read a n)) :: k.released })
    else s
  | _ => s

/-- What an entry does when MXQ performs it: the state it gives, or none when poison cancels it (19 R353). -/
def State.performM (s : State) (c : Nat) (e : MEntry) : Option State :=
  let k := s.core c
  match e.cmd with
  | .mma z d a b =>
    let oa := s.operandBytes c a
    let ob := s.operandBytes c b
    if oa.2.2 || ob.2.2 || (!z && k.tilePoisoned d) then none
    else some (s.modCore c (fun k => k.setTile d (fun _ => true) (mmaRows z e.guard oa.1 ob.1 oa.2.1 ob.2.1 (k.tile d))))
  | .tldReg d rows => some (s.modCore c (fun k => k.setRows d e.guard rows))
  | .tldMem d base desc =>
    let rs := (List.range 64).map (fun i => if e.guard.getLsbD i then s.rowAt c base desc i else ([], false))
    if rs.any (·.2) then none
    else some (s.modCore c (fun k => k.setRows d e.guard (rs.map (fun r => vecOfBytes r.1))))
  | .tstMem base desc a =>
    if k.tilePoisoned a then none
    else some ((List.range 64).foldl (fun t i =>
      if e.guard.getLsbD i then
        let h := (s.engineHome c base).plus (i * dRpitch desc)
        (t.keepUnder c e.iss h 256).engineWrite h (vecBytes ((k.tile a).getD i 0))
      else t) s)
  | .tzero d => some (s.modCore c (fun k => k.setRows d e.guard []))
  | .tscale cc d v =>
    if k.tilePoisoned d then none
    else some (s.modCore c (fun k => k.setRows d e.guard (tscaleRows cc v (k.tile d))))
  | .tadd ty d b =>
    if k.tilePoisoned d || k.tilePoisoned b then none
    else some (s.modCore c (fun k => k.setRows d e.guard (taddRows ty (k.tile d) (k.tile b))))

/-- The tiles an entry names. -/
def MCmd.tiles : MCmd → List Nat
  | .mma _ d _ _ | .tldReg d _ | .tldMem d _ _ | .tzero d | .tscale _ d _ => [d]
  | .tstMem _ _ a => [a]
  | .tadd _ d b => [d, b]

/-- Bases of an entry's memory operands. -/
def MCmd.bases : MCmd → List Word
  | .mma _ _ a b => [a, b].filterMap (fun m => match m with
    | .mem base _ => some base
    | _ => none)
  | .tldMem _ base _ | .tstMem base _ _ => [base]
  | _ => []

/-- The excess of another gallery's vault over the own one's (10 Table 10.1). -/
def excess (g h : Nat) : Nat := if g = h then 0 else 2 + 4 * hops g h + 6 * bridges g h

/-- Occupancy and clear offset of an entry started by core c (10 Table 10.1), and whether a vault may delay it (log 4). -/
def State.engineTimes (s : State) (c : Nat) (cmd : MCmd) : Nat × Nat × Bool :=
  let vs := cmd.bases.filterMap (fun b => match s.engineHome c b with
    | .vault g _ => some g
    | _ => none)
  let ex := (vs.map (excess (galOf c))).foldl max 0
  let v := !vs.isEmpty
  match cmd with
  | .mma _ _ _ _ => (16 + ex, 20 + ex, v)
  | .tldMem _ _ _ | .tstMem _ _ _ => if v then (64 + ex, 68 + ex, v) else (16, 20, false)
  | .tldReg _ _ | .tscale _ _ _ | .tadd _ _ _ => (16, 20, false)
  | .tzero _ => (1, 4, false)

/-- The engine may start its next entry: the core is not frozen, the entry entered before this cycle, and the occupancy of the one before,
counted in schedule cycles, has ended (10 R200, R201). A rollback or a save runs entries while the schedule stands (22 R394, R402); those start
through `force`, as soon as the engine is free. -/
def Core.engineFree (k : Core) (clock : Nat) (force : Bool) : Bool :=
  (force || k.ran) && (match k.run with
    | none => true
    | some r => decide (r.endClock ≤ clock) && ((force && !k.ran) || decide (r.endSched ≤ k.sched))) &&
    (match k.mxq.head? with
      | some e => (force && !k.ran) || decide (e.enq < k.sched)
      | none => false)

/-- What a memory operand makes the engine read outside the core port. -/
def State.operandReads (s : State) (c : Nat) : MSrc → List (Home × Nat)
  | .regs _ _ _ => []
  | .mem base desc =>
    let nb := blocksPerLine ((dFormat desc).getD .fp8a)
    (List.range 64).flatMap (fun n => ((s.engineHome c base).plus (n * dRpitch desc), 64) ::
      (if nb = 0 then [] else [(s.scaleHome c base desc nb n, nb)]))
def State.entryReads (s : State) (c : Nat) (e : MEntry) : List (Home × Nat) :=
  match e.cmd with
  | .mma _ _ a b => s.operandReads c a ++ s.operandReads c b
  | .tldMem _ base desc => ((List.range 64).filter (fun i => e.guard.getLsbD i)).map (fun i => ((s.engineHome c base).plus (i * dRpitch desc), 256))
  | _ => []

/-- An entry's memory words found in error as it reads them, near SRAM through the external port (10 R209) and a vault through its shared
port: a correction freezes nothing and makes the operands 12 cy late. Uncorrectable words become poisoned (19 R350, R351). -/
def State.entryPorts (s : State) (c : Nat) (e : MEntry) : State × Bool :=
  (s.entryReads c e).foldl (fun r h =>
    let q := r.1.portRead h.1 h.2
    (q.1, r.2 || q.2)) (s, false)

/-- Tile rows that an entry reads, and those that it writes whole. -/
def MEntry.readsRow (e : MEntry) (arr place : Nat) : Bool :=
  arr == 1 && (match e.cmd with
    | .mma z d _ _ => !z && place / 64 == d
    | .tstMem _ _ d | .tscale _ d _ => place / 64 == d
    | .tadd _ d b => place / 64 == d || place / 64 == b
    | _ => false)
def MEntry.writesRow (e : MEntry) (arr place : Nat) : Bool :=
  arr == 1 && (match e.cmd with
    | .mma z d _ _ => z && place / 64 == d
    | .tldReg d _ | .tldMem d _ _ | .tzero d => place / 64 == d && e.guard.getLsbD (place % 64)
    | _ => false)

/-- The tiles of an entry clear at a schedule cycle; one that poison cancelled stops the seat there (10 R201, 19 R353). -/
def Core.clearAt (k : Core) (e : MEntry) (cancelled : Bool) (at_ : Nat) : Core :=
  { k with tileClear := k.tileClear ++ e.cmd.tiles.map (fun t => (t, at_, e.iss))
           poisonClear := if cancelled then k.poisonClear ++ [(at_, e.word)] else k.poisonClear }

/-- A late entry whose occupancy has ended gets its clear point: the later of the table's and 4 cy after its end (10 R201). -/
def Core.endLate (k : Core) (clock : Nat) : Core :=
  match k.run with
  | some r =>
    (match r.late with
      | some (point, cancelled) =>
        if r.endClock ≤ clock then { (k.clearAt r.entry cancelled (max point (k.sched + 4))) with run := some { r with late := none } } else k
      | none => k)
  | none => k

/-- Tile rows that an entry reads and finds uncorrectable become poisoned, each counted (18 R335, 19 R351, R353; log 14). -/
def State.breakRows (s : State) (c : Nat) (e : MEntry) : State :=
  let bad := (s.core c).broken.filter (fun x => e.readsRow x.1 x.2)
  if bad.isEmpty then s
  else
    let u := nearUnit c + 1
    { (s.modCore c (fun k => { k with
        broken := k.broken.filter (fun x => !e.readsRow x.1 x.2)
        tilePoison := bad.foldl (fun l x => (List.range 64).foldl (fun m j => ninsert (64 * x.2 + j) m) l) k.tilePoison })) with
      sramue := sput u (sget 0 s.sramue u + bad.length) s.sramue }

/-- The oldest entry starts: it performs, and its clear points are set, or wait for its end where its operands are late. -/
def State.startEntry (s : State) (c : Nat) (e : MEntry) : State :=
  let tm := s.engineTimes c e.cmd
  let s0 := ((if tm.2.2 then s.draw.2 else s).breakRows c e).entryPorts c e
  let dl := (if tm.2.2 then Config.delay s.fresh else 0) + (if s0.2 then 12 else 0)
  let r := s0.1.performM c e
  ((r.getD s0.1).modCore c (fun k =>
    let k1 := (if r.isSome then k.renew e.writesRow else k).endLate s.clock
    let point := k1.sched + tm.2.1
    let k2 := { k1 with mxq := k1.mxq.drop 1
                        run := some { entry := e, endClock := s.clock + tm.1 + dl + k1.correctSoon s.clock (tm.1 + dl)
                                      endSched := k1.sched + tm.1, late := if dl = 0 then none else some (point, r.isNone) } }
    if dl = 0 then k2.clearAt e r.isNone point else k2)).correctWeak c e.readsRow

/-- The engine empties its queue while the core's schedule stands: for a rollback, or before a save (22 R394, R402). -/
def Core.driven (k : Core) : Bool := k.rolling.isSome || (k.saveAsked && k.stop.isNone && k.frzcause == 0)

/-- The next entry may start, and its operands' windows are placed. -/
def State.engineReady (s : State) (c : Nat) : Bool :=
  (s.core c).engineFree s.clock (s.core c).driven
    && !((s.core c).mxq.head?).any (fun e => e.cmd.bases.any (fun b => (s.engineHome c b).missing))

/-- MXQ_ENTRY_START (10 R200, R201). -/
def execMxqEntryStart (c : Nat) (s : State) : Out :=
  match (s.core c).mxq.head? with
  | some e => if s.engineReady c then .next (s.startEntry c e) else .next s
  | none => .next s

/-- TILE_CLEAR_POINT (10 R201, 19 R353): a late entry that has ended gets its clear point; busy bits whose schedule cycle has come clear,
and a cancelled entry stops the core at its next bundle boundary. -/
def execTileClearPoint (c : Nat) (s : State) : Out :=
  .next (s.modCore c (fun k0 =>
    let k := k0.endLate s.clock
    let due := k.tileClear.filter (fun e => decide (e.2.1 ≤ k.sched))
    { k with tileBusy := k.tileBusy.filter (fun t => !(due.any (fun e => e.1 == t)))
             tileClear := k.tileClear.filter (fun e => decide (k.sched < e.2.1))
             poisonClear := k.poisonClear.filter (fun e => decide (k.sched < e.1))
             late := k.late ++ (k.poisonClear.filter (fun e => decide (e.1 ≤ k.sched))).map
               (fun e => { code := .poison, src := 0, opSlot := 4, word := e.2 }) }))

end Sys2Proof.Machine
end

