-- ==== Sys2Proof/Machine/Access.lean ====
section
/-! DEFINITION. Accesses that leave the core: where a checked pointer leads, pieces and landings, walks asked for, remote operations as
packets, and the events charged to a seat for them (04 R72, R73, R82, 06 R113 to R124, 11 R215 to R228, 21 R376, R381, R387). -/

namespace Sys2Proof.Machine
open Sys2Proof

/-! Seats and where they are. -/

/-- The task of a job and task number that has not ended. -/
def State.liveTask (s : State) (job taskid : Nat) : Option Task :=
  s.tasks.find? (fun t => t.job == job && t.taskid == taskid && t.state != .ended && !t.aborted)
/-- The core of a placed seat. -/
def State.coreOf (s : State) (job taskid seat : Nat) : Option Nat := (s.liveTask job taskid).bind (fun t => t.cores[seat]?)
/-- A change to a seat wherever it is: on its core, or in its saved image. -/
def State.modSeat (s : State) (job taskid seat : Nat) (f : Core → Core) : State :=
  match s.liveTask job taskid with
  | none => s
  | some t =>
    if t.saved.contains seat then
      { s with saves := s.saves.map (fun e => if e.1 = t.id ∧ e.2.1 = seat then (e.1, e.2.1, f e.2.2) else e) }
    else match t.cores[seat]? with
      | some c => s.modCore c f
      | none => s

/-- An accepted feature (15 R299). -/
def State.accepted (s : State) (n : Nat) : Bool := s.host.featAcc.getLsbD n

/-! Where a checked pointer leads. -/

inductive Reach where
  | near (off : Nat)
  | own (g off : Nat)
  | away (h : Home)
  | global (va : Nat)
  deriving DecidableEq, Repr

/-- The physical gallery and base of the own team vault window. -/
def State.ownVault (s : State) (c : Nat) : Nat × Nat :=
  (s.vaultWindow (s.core c).task (s.core c).ownTeamGal).getD (galOf c, 0)

/-- A place as core c reaches it. -/
def State.reach (s : State) (c : Nat) : Place → Reach
  | .near off => .near off
  | .va a => .global a
  | .vault t off =>
    if t = (s.core c).ownTeamGal then .own (s.ownVault c).1 ((s.ownVault c).2 + off) else .away (s.windowHome (s.core c).task t off)
  | .pod _ _ off _ => .global off

/-- Cycles, at the present clock, of a path whose time is fixed and that takes n cycles at 1.6 GHz (15 R302). -/
def State.fixed (s : State) (n : Nat) : Nat := (n * s.host.freq + 1599) / 1600

/-- Unloaded cycles of a read (04 R72, R88, R419). -/
def State.homeCost (s : State) (g : Nat) : Home → Nat
  | .near _ _ => 4
  | .vault h _ => if noWindow ≤ h then 14 else 14 + 4 * hops g h + 6 * bridges g h
  | .hbm pa _ _ =>
    let a := g / 16
    let b := pa / 0x3000000000
    s.fixed 176 + 22 * (dist (a / 4) (b / 4) + dist (a % 4) (b % 4))
  | .host _ _ _ => s.fixed 1440

/-- Bytes of the own vault as the bundle reads them: stores of its own lower slots do not show (06 R115), nor those that another pair's release
buffer holds (19 R354). -/
def State.vaultBytes (s : State) (g a n : Nat) : List Byte × Word :=
  let x := s.gal g
  let old := s.ctx.under ++ (s.hidden s.ctx.core g).reverse
  (((x.vault.read a n).zip (List.range n)).map (fun e => ((old.find? (fun u => u.1 == a + e.2)).map (·.2)).getD e.1), poisonBits x.poison a n)

/-- A core-port merge that corrects a single error freezes the core as a read does (21 R420). -/
def State.portMerge (s : State) (h : Home) (ds : List (Byte × Byte)) : State :=
  if (s.mergedSoft h ds).isEmpty then s
  else (s.countMerge h ds (some s.ctx.core)).modCur (·.startCorrect s.clock)

/-- A core-port write to the own vault. -/
def State.vaultStore (s : State) (g a : Nat) (ds : List (Byte × Byte)) : State :=
  let old := ((s.gal g).vault.read a ds.length).zip (List.range ds.length)
  let t := (s.portMerge (.vault g a) ds).modGal g (·.merge a ds)
  { t with ctx := { t.ctx with under := t.ctx.under ++ old.map (fun e => (a + e.2, e.1)) } }

/-- A core-port write to near SRAM. -/
def State.nearStore (s : State) (a : Nat) (ds : List (Byte × Byte)) : State :=
  (s.portMerge (.near s.ctx.core a) ds).modCur (fun k => { k with rf := k.rf.mergeNear a ds })

/-! Walks (04 R82, R83). -/

/-- Table entries of levels 3 and 2 that the hall's walker keeps. -/
def Hall.cached (h : Hall) (job world level va : Nat) : Option Word :=
  (h.cache.find? (fun e => e.1 == job && e.2.1 == world && e.2.2.1 == level && e.2.2.2.1 == va / 2 ^ (12 + 9 * level))).map (·.2.2.2.2)

/-- The table a walk of core c starts from: fuel and base. -/
def State.walkStart (s : State) (h : Hall) (job world va : Nat) : Nat × Nat :=
  match h.cached job world 2 va with
  | some e => (2, field e 51 8 * 256)
  | none =>
    match h.cached job world 3 va with
    | some e => (3, field e 51 8 * 256)
    | none => (4, ((s.worldOf job world).map (·.troot)).getD 0)

/-- Table reads of a walk, which ends at an entry that cannot be read, is malformed, or is a leaf. -/
def State.walkReads (s : State) (va : Nat) : Nat → Nat → Nat
  | 0, _ => 0
  | fuel + 1, base =>
    let a := base + 8 * levelIndex fuel va
    let e := s.hbm.word a
    if !((sectorOf s a).poison || (sectorOf s a).soft == 2) && e.getLsbD 0 && !badEntry (s.accepted 7) fuel e && !e.getLsbD 1 then 1 + s.walkReads va fuel (field e 51 8 * 256) else 1

/-- Single errors of the sectors that a walk reads are corrected and counted (21 R377). -/
def State.walkFix (s : State) (va : Nat) : Nat → Nat → State
  | 0, _ => s
  | fuel + 1, base =>
    let a := base + 8 * levelIndex fuel va
    let t := (s.portRead (.hbm a 0 va) 8).1
    let e := t.hbm.word a
    if (sectorOf t a).poison || (sectorOf t a).soft == 2 || !e.getLsbD 0 || e.getLsbD 1 || badEntry true fuel e then t
    else t.walkFix va fuel (field e 51 8 * 256)

/-- Level-3 and level-2 table entries that a walk reads and finds in order (21 R372, R421), for the walker's cache. -/
def State.walkTables (s : State) (va : Nat) : Nat → Nat → List (Nat × Word)
  | 0, _ => []
  | fuel + 1, base =>
    let e := s.hbm.word (base + 8 * levelIndex fuel va)
    if e.getLsbD 0 && !e.getLsbD 1 && decide (2 ≤ fuel) && !badEntry true fuel e
        && !(sectorOf s (base + 8 * levelIndex fuel va)).poison && (sectorOf s (base + 8 * levelIndex fuel va)).soft != 2 then
      (fuel, e) :: s.walkTables va fuel (field e 51 8 * 256)
    else []

def State.walkTime (s : State) (c va : Nat) : Nat :=
  let k := s.core c
  let st := s.walkStart (s.hall (hallOf c)) k.job k.world va
  s.fixed (170 * s.walkReads va st.1 st.2)

/-- Waiting requests start, oldest first, while fewer than 32 walks run. -/
def State.startWalks (s : State) (hall : Nat) : Nat → State
  | 0 => s
  | n + 1 =>
    let h := s.hall hall
    match h.waiting with
    | [] => s
    | w :: rest =>
      if 32 ≤ h.walks.length then s
      else
        (({ s with fresh := s.fresh + 1 } : State).modHall hall (fun x =>
          { x with walks := x.walks ++ [{ w with ready := s.clock + s.walkTime w.core w.va + Config.delay s.fresh }], waiting := rest })).startWalks
          hall n

/-- A request for a walk: it takes its turn behind those that wait. -/
def State.requestWalk (s : State) (w : Walk) : State :=
  (s.modHall (hallOf w.core) (fun h => { h with waiting := h.waiting ++ [w] })).startWalks (hallOf w.core) 1

/-- Walks and requests given up; those that wait take their places. -/
def State.dropWalks (s : State) (hall : Nat) (drop : Walk → Bool) : State :=
  let t := s.modHall hall (fun h => { h with walks := h.walks.filter (fun w => !drop w), waiting := h.waiting.filter (fun w => !drop w) })
  t.startWalks hall (t.hall hall).waiting.length

/-! Pieces (06 R113, R117). -/

/-- Byte ranges of two homes meet. -/
def Home.meets (a : Home) (n : Nat) (b : Home) (m : Nat) : Bool :=
  let cross (x y : Nat) : Bool := decide (x < y + m ∧ y < x + n)
  match a, b with
  | .near c x, .near d y => c == d && cross x y
  | .vault g x, .vault h y => g == h && cross x y
  | .hbm x _ _, .hbm y _ _ => cross x y
  | .host x _ _, .host y _ _ => cross x y
  | _, _ => false

/-- Two pieces of one seat touch the same bytes. -/
def Piece.touches (p q : Piece) : Bool :=
  match p.home, q.home with
  | some a, some b => a.meets p.n b q.n
  | some (.vault _ _), none | none, some (.vault _ _) => false
  | _, _ => decide (p.va < q.va + q.n ∧ q.va < p.va + p.n)

/-- Where core c's walk for `va` would end as the tables stand (04 R77). -/
def State.homeNow (s : State) (c va : Nat) : Option Home :=
  let k := s.core c
  let st := s.walkStart (s.hall (hallOf c)) k.job k.world va
  match walkFrom s k.job k.world (s.accepted 7) va false true st.1 st.2 0 with
  | .leaf _ level e _ =>
    let x := tcOf k.world va level e
    some (homeOf x.host (x.pbase + (va - x.vbase)) x.key va)
  | _ => none
/-- A piece whose walk is pending stands for the bytes of the frame that its page has (06 R117). -/
def State.site (s : State) (c : Nat) (p : Piece) : Piece :=
  { p with home := match p.home with
    | none => s.homeNow c p.va
    | some h => some (s.rehome (s.core c).task h) }
/-- Core c with its accesses at the bytes that they concern. -/
def State.sited (s : State) (c : Nat) : Core :=
  let k := s.core c
  if k.pend.any (fun p => (p.home.map Home.missing).getD true) then { k with pend := k.pend.map (s.site c) } else k

/-- An earlier access of the seat to the same bytes has still to perform. -/
def Core.blocked (k : Core) (i : Nat) (p : Piece) : Bool :=
  (k.pend.take i).any (fun q => p.touches q) ||
  ((k.hxq.flatten ++ k.wc.flatten).any (fun q => decide (q.iss < p.iss) && p.touches q))

/-- A combining buffer that holds bytes of a later access is posted ahead of it (06 R117); the bundle of that access waits for room in HXQ
(06 R121). -/
def Core.postTouched (k : Core) (ps : List Piece) : Core :=
  let hit (b : List Piece) : Bool := b.any (fun q => ps.any (fun p => p.touches q))
  { k with hxq := k.hxq ++ k.wc.filter hit, wc := k.wc.filter (fun b => !hit b) }

/-- The pieces of a global read or write of n bytes at `va`, by what the core finds for each. -/
def Core.globalPieces (k : Core) (va n : Nat) (write : Bool) : List ((Nat × Nat × Nat) × Tr) :=
  (piecesOf va n).map (fun q => (q, k.translate va n q.1 write))

/-- The first refusal among translated pieces. -/
def firstBad (l : List ((Nat × Nat × Nat) × Tr)) : Option Code :=
  l.findSome? (fun e => match e.2 with
    | .bad c => some c
    | _ => none)
/-- The first address that misses in each page of 64 KiB. -/
def missPages (l : List ((Nat × Nat × Nat) × Tr)) : List Nat :=
  l.foldl (fun acc e => match e.2 with
    | .miss => if acc.any (fun v => v / 0x10000 == e.1.1 / 0x10000) then acc else acc ++ [e.1.1]
    | _ => acc) []

/-- The bundle after the one at `pc`. -/
def Core.nextAfter (k : Core) (pc : Nat) : Nat := pc + (Header.ofWord (BitVec.ofNat 32 (k.imem.nat pc 4))).bytes

/-! Timed requests (03 R58). -/

/-- The landing entry is free (20 Table 20.4). -/
def State.landFree (s : State) (e : Nat) : R Unit := raiseIf (sget none s.cur.landing e).isSome .landbusy (word64 e)

def Core.setLanding (k : Core) (e : Nat) (l : Option Landing) : Core := { k with landing := sset none e l k.landing }

/-- The landing entry of core c with request number `serial`, changed. -/
def State.modLanding (s : State) (c e serial : Nat) (f : Landing → Landing) : State :=
  s.modCore c (fun k => match sget none k.landing e with
    | some l => if l.serial = serial then k.setLanding e (some (f l)) else k
    | none => k)

/-- Bytes that reach a landing entry at place `pos` of its datum, with the poison of their words. -/
def Landing.feed (l : Landing) (pos : Nat) (bs : List Byte) (po : Word) : Landing :=
  { l with data := l.data ||| (vecOfBytes bs) <<< (8 * pos), poison := l.poison ||| po <<< (pos / 4), left := l.left - 1 }

/-- One read of n bytes at a reach, as part of request `serial`: what it takes at once, its pieces, its walks and its time. -/
structure ReadPlan where
  now    : Option (Nat × List Byte × Word) := none
  pieces : List Piece := []
  pages  : List Nat := []
  cost   : Nat := 4
  deriving DecidableEq, Repr

def State.planRead (s : State) (c : Nat) (r : Reach) (ptr : Word) (n pos e serial : Nat) : R ReadPlan :=
  let base (a : Nat) (va : Nat) (m : Nat) (h : Option Home) : Piece :=
    { iss := (s.core c).issued, write := false, ptr := ptr, pos := pos + a, n := m, home := h, va := va, entry := e, serial := serial
      ready := s.clock + 1 }
  match r with
  | .near off => .ok { now := some (pos, s.src.near.read off n, poisonBits s.src.nearPoison off n) }
  | .own g off =>
    let x := s.vaultBytes g off n
    .ok { now := some (pos, x.1, x.2), cost := 12 }
  | .away h =>
    .ok { pieces := (piecesOf (match h with
            | .vault _ o => o
            | _ => 0) n).map (fun q => base q.2.1 0 q.2.2 (some (h.plus q.2.1)))
          cost := s.homeCost (galOf c) h }
  | .global va =>
    let l := (s.core c).globalPieces va n false
    match firstBad l with
    | some code => .error (code, ptr)
    | none => .ok {
        pieces := l.map (fun q => base q.1.2.1 q.1.1 q.1.2.2 (match q.2 with
          | .hit h => some h
          | _ => none))
        pages := missPages l
        cost := (l.map (fun q => match q.2 with
          | .hit h => s.homeCost (galOf c) h
          | _ => s.fixed 176)).foldl max 0 }

/-- A landing entry armed with the reads of a request (03 R58, 11 R215, R218). -/
def State.arm (s : State) (e t : Nat) (l : Landing) (plans : List ReadPlan) : State :=
  let c := s.ctx.core
  let now := plans.filterMap (·.now)
  let pieces := plans.flatMap (·.pieces)
  let pages := plans.foldl (fun acc p => p.pages.foldl (fun a x => if a.any (fun v => v / 0x10000 == x / 0x10000) then a else a ++ [x]) acc) []
  let cost := (plans.map (·.cost)).foldl max 0
  let dl := if pieces.isEmpty then 0 else Config.delay s.fresh
  let l0 := { l with due := s.ctx.cyc + t, left := pieces.length + now.length, ready := s.clock + cost + dl, pc := s.ctx.pc
                     slot := s.ctx.slot, iss := s.cur.issued, word := s.ctx.word }
  let l1 := now.foldl (fun (a : Landing) x => a.feed x.1 x.2.1 x.2.2) l0
  let s1 := { s with fresh := s.fresh + 1 }.modCur (fun k => { ((k.setLanding e (some l1)).postTouched (pieces.map (s.site c))) with pend := k.pend ++ pieces })
  pages.foldl (fun a v => a.requestWalk { core := c, who := 1, va := v, write := false, ready := 0 }) s1

/-! Stores (11 R216 to R218, 19 R346). -/

/-- One store: its effective pointer, where it leads, and its bytes with their enables. -/
structure StoreItem where
  ptr  : Word
  to_  : Reach
  data : List (Byte × Byte)
  deriving DecidableEq, Repr

/-- Pieces of a store outside the core port. -/
def State.storePieces (s : State) (it : StoreItem) (hk : HostKind) : List Piece :=
  let k := s.cur
  let mk (va : Nat) (h : Option Home) (pos n : Nat) : Piece :=
    { iss := k.issued, write := true, ptr := it.ptr, pos := pos, n := n, home := h, va := va, data := (it.data.drop pos).take n
      word := s.ctx.word, pc := s.ctx.pc, kind := hk, ready := s.clock + 1 }
  match it.to_ with
  | .away h => (piecesOf (match h with
      | .vault _ o => o
      | _ => 0) it.data.length).map (fun q => mk 0 (some (h.plus q.2.1)) q.2.1 q.2.2)
  | .global va => (k.globalPieces va it.data.length true).map (fun q => mk q.1.1 (match q.2 with
      | .hit h => some h
      | _ => none) q.1.2.1 q.1.2.2)
  | _ => []

/-- Translated pieces of the global stores of a list. -/
def State.storeTr (s : State) (its : List StoreItem) : List (Word × List ((Nat × Nat × Nat) × Tr)) :=
  its.filterMap (fun it => match it.to_ with
    | .global va => some (it.ptr, s.cur.globalPieces va it.data.length true)
    | _ => none)

def Home.isHost : Home → Bool
  | .host _ _ _ => true
  | _ => false
def Piece.isHost (p : Piece) : Bool := (p.home.map Home.isHost).getD false

/-- A write-combining store merges into its 64-byte buffer; a full buffer, or the oldest of nine, is posted (06 R132). -/
def Core.combine (k : Core) (p : Piece) : Core :=
  let line (q : Piece) : Nat := match q.home with
    | some (.host ba _ _) => ba / 64
    | _ => 0
  let same (b : List Piece) : Bool := (b.head?.map line) == some (line p)
  let wc := if k.wc.any same then k.wc.map (fun b => if same b then b ++ [p] else b) else k.wc ++ [[p]]
  let isFull (b : List Piece) : Bool := (List.range 64).all (fun i => b.any (fun q => match q.home with
    | some (.host ba _ _) => decide (ba ≤ ba / 64 * 64 + i ∧ ba / 64 * 64 + i < ba + q.n) &&
        (((q.data[ba / 64 * 64 + i - ba]?).map (·.2)).getD 0 == 0xFF)
    | _ => false))
  let out := wc.filter isFull
  let wc' := wc.filter (fun b => !isFull b)
  if 8 < wc'.length then { k with wc := wc'.drop 1, hxq := k.hxq ++ out ++ wc'.take 1 } else { k with wc := wc', hxq := k.hxq ++ out }

/-- Entries that HXQ holds (06 R121). -/
def hxqSize : Nat := 32
/-- Combining buffers that are to be posted enter HXQ, oldest first, as far as it has room (06 R121). -/
def Core.postDue (k : Core) : Core :=
  let n := min (hxqSize - k.hxq.length) k.wcDue
  { k with hxq := k.hxq ++ k.wc.take n, wc := k.wc.drop n, wcDue := min (k.wcDue - n) (k.wc.drop n).length }
/-- Every combining buffer posted, or to be posted once HXQ has room. -/
def Core.flushWc (k : Core) : Core := Core.postDue { k with wcDue := k.wc.length }

/-- A store performs at the core port, enters HXQ, or waits to perform at its home. -/
def State.storeItem (s : State) (hk : HostKind) (it : StoreItem) : State :=
  match it.to_ with
  | .near off => s.nearStore off it.data
  | .own g off => s.vaultStore g off it.data
  | _ =>
    let ps := s.storePieces it hk
    let hp := ps.filter (·.isHost)
    let s1 := s.modCur (fun k => { k with pend := k.pend ++ ps.filter (fun p => !p.isHost) })
    if hp.isEmpty then s1
    else match hk with
      | .writeCombining => s1.modCur (fun k => hp.foldl Core.combine k)
      | _ => s1.modCur (fun k => { k with hxq := k.hxq ++ [hp] })

/-- Host pieces of one instruction's stores join in one HXQ entry. -/
def State.storeAll (s : State) (hk : HostKind) (its : List StoreItem) : State :=
  if hk = .writeCombining then its.foldl (fun a it => a.storeItem hk it) s
  else
    let s1 := s.modCur (·.postTouched (its.flatMap (fun it => s.storePieces it hk)))
    let old := s1.cur.hxq.length
    (its.foldl (fun a it => a.storeItem hk it) s1).modCur (fun k =>
    { k with hxq := k.hxq.take old ++ (if (k.hxq.drop old).isEmpty then [] else [(k.hxq.drop old).flatten]) })

/-- The stores of an L-slot instruction whose pointers are checked: a cached refusal is an event, a miss is a WALK freeze. -/
def State.store (s : State) (i : Instr) (hk : HostKind) (its : List StoreItem) : Host.Outcome State Fault Refusal :=
  let tr := s.storeTr its
  match tr.findSome? (fun e => (firstBad e.2).map (fun c => (c, e.1))) with
  | some e => .next (s.raiseEvent i e)
  | none =>
    match tr.findSome? (fun e => (missPages e.2).head?.map (fun v => (v, e.1))) with
    | some (v, p) =>
      let t := s.splitBare s.ctx.slot (s.thisOp i :: s.ctx.todo) .walk 4
      .next (t.requestWalk { core := s.ctx.core, who := 0, va := v, write := true, ptr := p, ready := 0 })
    | none => .next (s.storeAll hk its)

/-! Remote operations (04 R73, 15 R295, R296). -/

/-- The module-map entry of a job's logical module. -/
def State.mapEntry (s : State) (job m : Nat) : Word := sget 0 s.host.mmap (job * 4096 + m)
def State.isOwnModule (s : State) (job m : Nat) : Bool :=
  let e := s.mapEntry job m
  e.getLsbD 0 && field e 12 1 == s.host.fabric
/-- The own logical module of a job: the least that its map sends here. -/
def State.ownModule (s : State) (job : Nat) : Nat := ((List.range 4096).find? (fun m => s.isOwnModule job m)).getD 0

/-- A packet of core c's seat to a POD pointer (15 Table 15.2). -/
def State.packet (s : State) (c : Nat) (sq : Bool) (ty : Nat) (ptr : Word) (payload : List Byte) (flag : Nat := 0) (val : W32 := 0)
    (aux : Nat := 0) : Packet :=
  let k := s.core c
  { ty := BitVec.ofNat 5 ty, gen := BitVec.ofNat 8 k.gen, job := BitVec.ofNat 16 k.job, taskid := BitVec.ofNat 16 k.taskid
    world := BitVec.ofNat 5 k.world, smod := BitVec.ofNat 12 (s.ownModule k.job), sseat := BitVec.ofNat 10 k.seat, sq := sq
    dmod := BitVec.ofNat 12 (field ptr 51 40), addr := BitVec.ofNat 40 (field ptr 39 0), len := BitVec.ofNat 9 (payload.length - 1)
    flag := BitVec.ofNat 8 flag, val := val, aux := BitVec.ofNat 16 aux, payload := payload, port := 36 }

/-- A POD seat pointer (11 R220). -/
def seatPtr (width module seat flag : Nat) : Word :=
  word64 (0xC * 2 ^ 60 + module * 2 ^ 40 + 2 ^ 39 + seat / width * 2 ^ 32 + seat % width * 2 ^ 18 + flag)

/-- Packet type numbers (15 Table 15.3). -/
def tyWrite : Nat := 0x01
def tyWritef : Nat := 0x02
def tyFadd : Nat := 0x03
def tyFset : Nat := 0x04
def tyFaddb : Nat := 0x05
def tyFaddbRsp : Nat := 0x06
def tyFetch : Nat := 0x07
def tyFetchRsp : Nat := 0x08
def tySend : Nat := 0x09
def tyPubw : Nat := 0x0A

end Sys2Proof.Machine

namespace Sys2Proof
open Machine (PairKey word64 tySend tyPubw tyFetch tyFaddb tyFetchRsp tyFaddbRsp)

/-- Fields of a packet's ADDR. -/
def Packet.kind (p : Packet) : Bool := p.addr.getLsbD 39
def Packet.gal (p : Packet) : Nat := p.addr.toNat / 2 ^ 32 % 2 ^ 7
def Packet.off (p : Packet) : Nat := p.addr.toNat % 2 ^ 22
/-- The position of the destination seat: AUX[8:6] for SEND, PUBW and kind 0, else ADDR's own (log 18). -/
def Packet.pos (p : Packet) : Nat :=
  if p.kind && !(p.ty.toNat == tySend || p.ty.toNat == tyPubw) then p.addr.toNat / 2 ^ 18 % 8 else p.aux.toNat / 2 ^ 6 % 8
/-- The position whose scratchpad a kind-1 access names: ADDR's own, for a SEND or PUBW the one in the entry's BASE (11 R223). -/
def Packet.dataPos (p : Packet) : Nat := p.addr.toNat / 2 ^ 18 % 8
/-- Request tag of a FETCH or FADDB (log 18). -/
def Packet.tag (p : Packet) : Nat := p.aux.toNat / 16
/-- Header word 0x10. -/
def Packet.word10 (p : Packet) : Word := word64 (p.addr.toNat + p.len.toNat * 2 ^ 40 + p.flag.toNat * 2 ^ 49)
def Packet.ptr (p : Packet) : Word := word64 (0xC * 2 ^ 60 + p.dmod.toNat * 2 ^ 40 + p.addr.toNat)
def Packet.identity (p : Packet) : Word :=
  word64 (p.job.toNat + p.taskid.toNat * 2 ^ 16 + p.sseat.toNat * 2 ^ 32 + p.world.toNat * 2 ^ 42 + p.gen.toNat * 2 ^ 48)
def Packet.isRequest (p : Packet) : Bool := p.ty.toNat == tyFetch || p.ty.toNat == tyFaddb
def Packet.pair (p : Packet) : PairKey :=
  { job := p.job.toNat, taskid := p.taskid.toNat, gen := p.gen.toNat, smod := p.smod.toNat, seat := p.sseat.toNat, sq := p.sq
    dmod := p.dmod.toNat, gal := p.gal }
/-- FETCH and the responses belong to no pair. -/
def Packet.paired (p : Packet) : Bool := !(p.ty.toNat == tyFetch || p.ty.toNat == tyFetchRsp || p.ty.toNat == tyFaddbRsp)

end Sys2Proof

namespace Sys2Proof.Machine
open Sys2Proof

/-- Bytes that an operation takes in the hold buffer (22 R392). -/
def Remote.bytes (r : Remote) : Nat := 32 + (r.pkts.map (fun p => p.payload.length)).foldl (· + ·) 0
def Core.held (k : Core) : Nat := (k.hold.map (fun h => h.2.bytes)).foldl (· + ·) 0

/-- The hold buffer of a region has room for an operation of n payload bytes, an OPERAND condition (22 R392). -/
def State.holdRoom (s : State) (n : Nat) : R Unit := raiseIf (s.cur.rgd != 0 && decide (32768 < s.cur.held + (32 + n))) .region (word64 (32 + n))
/-- An operation with a remote destination enters CMQ, or inside a region the hold buffer (08 R167, 11 R219, 22 R392). -/
def State.remote (s : State) (pkts : List Packet) : R State :=
  let r : Remote := { pkts := pkts, iss := s.cur.issued, word := s.ctx.word, pc := s.ctx.pc }
  if s.cur.rgd = 0 then .ok (s.modCur (fun k => { k with cmq := k.cmq ++ [r] }))
  else if 32768 < s.cur.held + r.bytes then .error (.region, word64 r.bytes)
  else .ok (s.modCur (fun k => { k with hold := k.hold ++ [(k.rgd, r)] }))

/-- ADDR of a failing check: the virtual address for a key, the physical one for a sector (21 R369). -/
def failAddr (code : Code) (h : Home) : Word :=
  match h with
  | .hbm pa _ va => word64 (if code = .hbmue then pa else va)
  | .host ba _ va => word64 (if code = .hbmue then ba else va)
  | _ => 0

/-- The pointer that a timed request reads. -/
def TimedReq.ptr : TimedReq → Word
  | .memory p _ | .fetch p _ | .faddb p _ _ => p
  | .gather ps => ps.headD 0

/-- FETCH and remote FADDB: requests that a response answers. -/
def TimedReq.remote : TimedReq → Bool
  | .fetch _ _ | .faddb _ _ _ => true
  | _ => false

/-- The landing entry that waits for the response of a tag, changed. -/
def Core.onTag (k : Core) (tag : Nat) (f : Landing → Landing) : Core :=
  { k with landing := k.landing.map (fun e => match e.2 with
      | some l => if l.req.remote ∧ l.tag = tag ∧ l.left ≠ 0 ∧ !l.arrived then (e.1, some (f l)) else e
      | none => e) }

/-- The request without a response that a packet's seat and tag name (22 R397). -/
def State.askedBy (s : State) (p : Packet) : Option Asked :=
  s.asked.find? (fun a => a.job == p.job.toNat && a.taskid == p.taskid.toNat && a.seat == p.sseat.toNat && a.tag == p.tag)

/-- A response, or what stands for one, reaches the landing entry of its request, once: a response to no request without one is discarded
(21 R385, 22 R397). -/
def State.answerTag (s : State) (p : Packet) (f : Landing → Landing) : State :=
  match s.askedBy p with
  | none => s
  | some a =>
    ({ s with asked := s.asked.erase a } : State).modSeat a.job a.taskid a.seat (fun k => if k.gen = a.gen then k.onTag a.tag f else k)

/-- A tag from `n` upward that no request without a response holds. -/
def freeTagFrom (used : List Nat) : Nat → Nat → Option Nat
  | 0, _ => none
  | fuel + 1, n => if used.contains (n % 4096) then freeTagFrom used fuel (n + 1) else some (n % 4096)
/-- A request tag of core c's seat: the next of 4,096, in turn, that none of its requests without a response holds (22 R397; log 18). -/
def State.freeTag (s : State) (c : Nat) : Option Nat :=
  let k := s.core c
  freeTagFrom ((s.asked.filter (fun a => a.job == k.job && a.taskid == k.taskid && a.seat == k.seat)).map (·.tag)) 4096 s.serial
def State.reqTag (s : State) (c : Nat) : Nat := (s.freeTag c).getD 0
/-- Requests of core c that wait for a port are given up, with their tags. -/
def State.dropQueued (s : State) (c : Nat) : State :=
  let mine := (s.queued.filter (fun e => e.1 == c)).map (·.2.2)
  { s with queued := s.queued.filter (fun e => e.1 != c)
           asked := s.asked.filter (fun a => !mine.any (fun p =>
             p.job.toNat == a.job && p.taskid.toNat == a.taskid && p.sseat.toNat == a.seat && p.tag == a.tag)) }
/-- A request of core c's seat under a tag waits for its response. -/
def State.ask (s : State) (c tag : Nat) : State :=
  let k := s.core c
  { s with asked := s.asked ++ [{ job := k.job, taskid := k.taskid, seat := k.seat, gen := k.gen, tag := tag }] }

/-- The event of a rejected operation, charged to its source (21 R381, R387). -/
def State.charge (s : State) (p : Packet) (code : Code) : State :=
  if p.isRequest then s.answerTag p (fun l => { l with failed := some (code, l.req.ptr, p.ptr), left := 0, arrived := true })
  else s.modSeat p.job.toNat p.taskid.toNat p.sseat.toNat (fun k =>
    if k.gen ≠ p.gen.toNat then k
    else if p.sq then
      { k with seq := { k.seq with faults := k.seq.faults ++ [{ code := code, src := 1, opSlot := 6, value := p.ptr, word := p.word10 }] } }
    else { k with late := k.late ++ [{ code := code, src := 2, opSlot := 6, value := p.ptr, word := p.word10 }] })

/-- The records that one key may protect (14 R283). -/
def keyRecords : Nat := 2 ^ 32
/-- Keyed, trained and with records left under its key. -/
def Port.ready (x : Port) : Bool := x.inService && x.keyed && x.linkUp && decide (x.sent < keyRecords)
/-- The 96-bit nonce of the next record: the salt, then the count of records sent (14 R283). -/
def Port.nonce (x : Port) : BitVec 96 := x.salt ++ BitVec.ofNat 64 x.sent

/-- A port that can send to a module: none in service reaches it, or none of those is ready, or the first that is (14 R283, 21 R385, R386). -/
inductive SendPort where
  | unreachable
  | notYet
  | port (n : Nat)
  deriving DecidableEq, Repr
def State.sendPort (s : State) (job m : Nat) : SendPort :=
  let live := (List.range 36).filter (fun n => (sget {} s.ports n).inService && !(sget {} s.ports n).misses.contains (field (s.mapEntry job m) 12 1))
  match live.find? (fun n => (sget {} s.ports n).ready) with
  | some n => .port n
  | none => if live.isEmpty then .unreachable else .notYet

/-- The physical gallery that a packet for the own module reaches. -/
def State.targetGal (s : State) (p : Packet) (g : Nat) : Nat :=
  match s.liveTask p.job.toNat p.taskid.toNat with
  | some t => ((s.vaultWindow t.id p.gal).map (·.1)).getD g
  | none => g

/-- Next PSEQ of a pair. -/
def seqOf (l : List (PairKey × Nat)) (k : PairKey) : Nat := ((l.find? (fun e => e.1 == k)).map (·.2)).getD 0
def seqPut (l : List (PairKey × Nat)) (k : PairKey) (v : Nat) : List (PairKey × Nat) :=
  (l.filter (fun e => e.1 != k)) ++ [(k, v)]

def State.modPort (s : State) (n : Nat) (f : Port → Port) : State := { s with ports := sput n (f (sget {} s.ports n)) s.ports }

/-- Cycles of the way to a job's module m (04 R423). -/
def State.podTime (s : State) (job m : Nat) : Nat :=
  s.fixed (if field (s.mapEntry job m) 18 13 != field (s.mapEntry job (s.ownModule job)) 18 13 then 448 else 288)

/-- A packet leaves by port n, as one record of its link; until its time is up it has neither performed nor been acknowledged (14 R283,
21 R385). -/
def State.sendOn (s : State) (n : Nat) (f : Flight) : State :=
  let q : Packet := { f.pkt with port := n }
  { s.modPort n (fun x => { x with sent := x.sent + 1 }) with
    out := s.out ++ [q], unacked := s.unacked ++ [(q, false)], lateral := s.lateral ++ [{ f with pkt := q, own := false }] }

/-- A packet that no port in service can carry is discarded, with a record of LINKDOWN for the last port tried; the response of a request
never comes (21 R386). -/
def State.losePacket (s : State) (p : Packet) (port : Nat) : State :=
  (if p.isRequest then s.answerTag p (fun l => { l with lost := true }) else s).recordEvent .linkdown p.identity 0 0 0 (portUnit port)
    (s.cycOf p.identity)

/-- A packet leaves core c's port: stopped where its module-map entry is invalid, passed over the lateral network on the own module, or
sent; it performs no sooner than the unloaded time (04 R73, R423, 21 R386, R387). None while no port is ready. -/
def State.depart (s : State) (c : Nat) (p : Packet) (iss : Nat) (word : Word) (pc : Nat) : Option State :=
  let m := p.dmod.toNat
  let job := p.job.toNat
  let dl := Config.delay s.fresh
  let s1 : State := { s with fresh := s.fresh + 1 }
  let g := s.targetGal p (galOf c)
  if p.port != 37 && !(s.mapEntry job m).getLsbD 0 then some (s.charge p .podtarget)
  else if p.port == 37 || s.isOwnModule job m then
    some { s1 with lateral := s1.lateral ++ [{ pkt := p, own := true, iss := iss, word := word, pc := pc
                                               ready := s.clock + 7 + 2 * hops (galOf c) g + 3 * bridges (galOf c) g + dl }] }
  else match s.sendPort job m with
    | .notYet => none
    | .unreachable => some (s.losePacket p 35)
    | .port n =>
      let q := if p.paired then { p with pseq := BitVec.ofNat 16 (seqOf s.sentSeq p.pair) } else p
      let s2 : State := { s1 with sentSeq := if p.paired then seqPut s.sentSeq p.pair ((seqOf s.sentSeq p.pair + 1) % 65536) else s.sentSeq }
      some (s2.sendOn n { pkt := q, own := false, iss := iss, word := word, pc := pc, ready := s.clock + s.podTime job m + dl })

/-! Destinations on the own module (04 R73, 11 R220). -/

/-- The placed core of a seat of a task. -/
def State.seatCore (s : State) (t : Task) (seat : Nat) : Option Nat :=
  match t.cores[seat]? with
  | some c => if (s.core c).placed ∧ (s.core c).task = t.id ∧ (s.core c).seat = seat ∧ !t.saved.contains seat then some c else none
  | none => none

/-- Types whose effect is on a flag of a seat. -/
def flagType (ty : Nat) : Bool := ty == tyWritef || ty == tyFadd || ty == tyFset || ty == tyFaddb || ty == tyPubw
/-- Types that name a seat: by KIND, by their flag, or by their channel entry. -/
def namesSeat (p : Packet) : Bool := p.kind || flagType p.ty.toNat || p.ty.toNat == tySend

/-- The gallery width of a task (02 R23). -/
def Task.width (t : Task) : Nat := if t.lock then 4 else 8
/-- The seat of a team that a packet names, and the one whose scratchpad it writes or reads. -/
def packetSeat (p : Packet) (t : Task) : Nat := t.width * p.gal + p.pos
def dataSeat (p : Packet) (t : Task) : Nat := t.width * p.gal + p.dataPos

/-- Where a packet's bytes go or come from: its core's near SRAM, or its team gallery's window. -/
def State.packetHome (s : State) (p : Packet) (t : Task) : Option Home :=
  if p.kind then (s.seatCore t (dataSeat p t)).map (fun c => .near c (p.off % 2 ^ 18))
  else (s.vaultWindow t.id p.gal).map (fun w => .vault w.1 (w.2 + p.off))

/-- Bytes that a packet writes or reads at its destination. -/
def spanOfPacket (p : Packet) : Nat := if p.ty.toNat = tyFetch then p.len.toNat + 1 else p.payload.length

/-- A packet of the seat: of its CMQ, or of its sequencer. -/
def Core.owns (k : Core) (sq : Bool) (p : Packet) : Bool :=
  p.sq == sq && p.job.toNat == k.job && p.taskid.toNat == k.taskid && p.sseat.toNat == k.seat && p.gen.toNat == k.gen

/-- Where an own-module FETCH on its way reads. -/
def State.fetchHome (s : State) (f : Flight) : Option Home :=
  if f.own && f.pkt.ty.toNat == tyFetch then
    (s.liveTask f.pkt.job.toNat f.pkt.taskid.toNat).bind (fun t => s.packetHome f.pkt t) else none
/-- The request that holds a tag was issued before bundle number `iss`. -/
def Core.askedBefore (k : Core) (tag iss : Nat) : Bool :=
  k.landing.any (fun e => match e.2 with
    | some l => l.req.remote && l.tag == tag && decide (l.iss < iss)
    | none => false)
/-- An own-module FETCH of core c's seat from before bundle number `iss`, on its way or held at its destination, reads bytes of [h, h + n)
(06 R117). -/
def State.fetchBefore (s : State) (c iss : Nat) (h : Home) (n : Nat) : Bool :=
  let k := s.core c
  let reads (p : Packet) : Bool := p.ty.toNat == tyFetch && ((s.liveTask p.job.toNat p.taskid.toNat).bind (fun t => match s.packetHome p t with
    | some a => some (a.meets (spanOfPacket p) h n)
    | none => some ((s.windowHome t.id p.gal p.off).meets (spanOfPacket p) h n))).getD false
  s.lateral.any (fun f => f.own && k.owns false f.pkt && decide (f.iss < iss) && reads f.pkt)
    || s.spill.any (fun e => decide (36 ≤ e.2.port) && k.owns false e.2 && k.askedBefore e.2.tag iss && reads e.2)
/-- A FETCH on its way reads bytes of [h, h + n). -/
def State.fetchMeets (s : State) (f : Flight) (h : Home) (n : Nat) : Bool :=
  match s.fetchHome f with
  | some a => a.meets (spanOfPacket f.pkt) h n
  | none => false

/-! Responses and rejects (15 R295, 21 R380, R381). -/

/-- A packet between modules that answers another: it leaves by a port that can send, waits for one, or is lost. -/
def State.emit (s : State) (p : Packet) (late : Nat := 0) : State :=
  match s.sendPort p.job.toNat p.dmod.toNat with
  | .port n =>
    { s with fresh := s.fresh + 1 }.sendOn n
      { pkt := p, own := false, ready := s.clock + late + s.podTime p.job.toNat p.dmod.toNat + Config.delay s.fresh }
  | .notYet => { s with replies := s.replies ++ [p] }
  | .unreachable => s.losePacket p 35

/-- A reject: sent to another module, charged at once on the own one. -/
def State.rejectPacket (s : State) (p : Packet) (code : Code) : State :=
  if 36 ≤ p.port then s.charge p code
  else s.emit { ty := BitVec.ofNat 5 tyFaddbRsp, gen := 0, job := p.job, taskid := p.taskid, world := p.world
                smod := BitVec.ofNat 12 (s.ownModule p.job.toNat), sseat := p.sseat, sq := p.sq, dmod := p.smod, addr := p.addr, len := 3
                aux := if p.isRequest then p.aux else p.pseq
                payload := natToBytes 4 (p.ty.toNat + 256 * code.num) }

/-- A response of gallery g to a request that performed in clock `now` goes back to its requester: as a packet, or to the landing entry on
the own module, one way later. -/
def State.respond (s : State) (p : Packet) (ty : Nat) (bs : List Byte) (g now : Nat) : State :=
  if 36 ≤ p.port then
    let h := ((s.coreOf p.job.toNat p.taskid.toNat p.sseat.toNat).map galOf).getD g
    s.answerTag p (fun l => { l with data := vecOfBytes bs, left := 0, ready := now + 7 + 2 * hops h g + 3 * bridges h g })
  else s.emit { ty := BitVec.ofNat 5 ty, gen := p.gen, job := p.job, taskid := p.taskid, world := p.world
                smod := BitVec.ofNat 12 (s.ownModule p.job.toNat), sseat := p.sseat, sq := p.sq, dmod := p.smod, addr := p.addr
                len := BitVec.ofNat 9 (bs.length - 1), aux := p.aux, payload := bs } (now - s.clock)

end Sys2Proof.Machine
end

