-- ==== Sys2Proof/Machine/Local.lean ====
section
/-! DEFINITION. The L slot: window-specific loads and stores, generic timed loads, posted stores, gather, scatter and remote fetch
(11 R211 to R218). -/

namespace Sys2Proof.Machine
open Sys2Proof

/-! Window-specific forms (11 R214). -/

/-- The full 64-bit offset at the present step. -/
def State.rawOff (s : State) (st : Sticky) (a : SSrc) (disp : BitVec 10) (n : Nat) : Nat :=
  ((if s.ctx.sticky then s.ctx.sa.getD 0 0 else s.rdS 1 a) +
    BitVec.ofInt 64 ((disp.toInt + s.ctx.step * st.step.toInt) * n)).toNat

def rawCheck (limit : Nat) (sz : Size) (off : Nat) : R Unit := do
  raiseIf (decide (limit < off + sz.bytes)) .winlimit (word64 off)
  raiseIf (decide (off % sz.alignment ≠ 0)) .align (word64 off)

/-- Bytes of a team vault window. -/
def Core.vaultLimit (k : Core) : Nat := k.vsize * 0x10000

def execLd (g : Guard) (st : Sticky) (sz : Size) (sx : Bool) (d : XReg) (a : SSrc) (disp : BitVec 10) (s : State) : Out :=
  s.guarded (.ld g st sz sx d a disp) g (do
    let dst ← s.dstX st d
    let off := s.rawOff st a disp sz.bytes
    rawCheck s.src.limit sz off
    .ok (s.resultX 4 dst (LoadForm.value ⟨sz, sx⟩ (s.src.near.read off sz.bytes)) (poisonBits s.src.nearPoison off sz.bytes)))

def execSt (g : Guard) (st : Sticky) (sz : Size) (x : XSrc) (a : SSrc) (disp : BitVec 10) (s : State) : Out :=
  s.guarded (.st g st sz x a disp) g (do
    let bs ← s.dataX st sz x
    let off := s.rawOff st a disp sz.bytes
    rawCheck s.src.limit sz off
    .ok (s.nearStore off (full bs)))

def execLdv (g : Guard) (st : Sticky) (sz : Size) (sx : Bool) (d : XReg) (a : SSrc) (disp : BitVec 10) (s : State) : Out :=
  s.guarded (.ldv g st sz sx d a disp) g (do
    let dst ← s.dstX st d
    let off := s.rawOff st a disp sz.bytes
    rawCheck s.cur.vaultLimit sz off
    let w := s.ownVault s.ctx.core
    let r := s.vaultBytes w.1 (w.2 + off) sz.bytes
    .ok (s.resultX 12 dst (LoadForm.value ⟨sz, sx⟩ r.1) r.2))

def execStv (g : Guard) (st : Sticky) (sz : Size) (x : XSrc) (a : SSrc) (disp : BitVec 10) (s : State) : Out :=
  s.guarded (.stv g st sz x a disp) g (do
    let bs ← s.dataX st sz x
    let off := s.rawOff st a disp sz.bytes
    rawCheck s.cur.vaultLimit sz off
    let w := s.ownVault s.ctx.core
    .ok (s.vaultStore w.1 (w.2 + off) (full bs)))

def execLdc (g : Guard) (sz : Size) (sx : Bool) (d : XReg) (a : SSrc) (disp : BitVec 10) (s : State) : Out :=
  s.guarded (.ldc g sz sx d a disp) g (do
    let dst ← s.dstX noStep d
    let off := s.rawOff noStep a disp sz.bytes
    rawCheck 0x4000 sz off
    .ok (s.resultX 4 dst (LoadForm.value ⟨sz, sx⟩ (s.cur.const.read off sz.bytes)) 0))

/-! Generic forms (11 R215 to R217). -/

/-- A generic pointer checked and followed. -/
def State.follow (s : State) (ok : Window → Bool) (p : Word) (n align : Nat) : R Reach :=
  (checkPtr s.cur s.src.limit ok p n align).map (s.reach s.ctx.core)

def execLdg (g : Guard) (sz : Size) (sx : Bool) (d : XReg) (a : SSrc) (x : SReg) (t : BitVec 10) (e : BitVec 6) (s : State) : Out :=
  s.guarded (.ldg g sz sx d a x t e) g (do
    let dst ← s.dstX noStep d
    s.landFree e.toNat
    let q := s.rdS 1 a + s.src.sreg x.toNat
    let r ← s.follow lWindows q sz.bytes sz.alignment
    let plan ← s.planRead s.ctx.core r q sz.bytes 0 e.toNat s.serial
    .ok (s.nextSerial.2.arm e.toNat t.toNat
      { due := 0, dest := dst, form := ⟨sz, sx⟩, req := .memory q sz.bytes, serial := s.serial } [plan]))

def execStg (g : Guard) (sz : Size) (hk : HostKind) (x : XSrc) (a : SSrc) (i : SReg) (s : State) : Out :=
  if !s.on g then .next s
  else
    let q := s.rdS 1 a + s.src.sreg i.toNat
    match (do
      let bs ← s.dataX noStep sz x
      let r ← s.follow lWindows q sz.bytes sz.alignment
      .ok (bs, r) : R (List Byte × Reach)) with
    | .error e => .next (s.raiseEvent (.stg g sz hk x a i) e)
    | .ok (bs, r) => s.store (.stg g sz hk x a i) hk [⟨q, r, full bs⟩]

/-- Bytes and bit enables of a packed group: element i of the stream is element 64·G + i (11 R217). -/
def nbData (f : Fmt) (v : Vec) (grp : Nat) (q : Word) : List (Byte × Byte) :=
  let w := Fmt.width f
  let x := packNat w ((List.range 64).map (fun i => elemN w v (64 * grp + i)))
  let m := packNat w ((List.range 64).map (fun i => if q.getLsbD i then 2 ^ w - 1 else 0))
  (natToBytes (8 * w) x).zip (natToBytes (8 * w) m)

def execStNb (g : Guard) (ty : Fmt) (v : VSrc) (a : SSrc) (i : SReg) (grp : BitVec 3) (q : PReg) (s : State) : Out :=
  if !s.on g then .next s
  else
    let p := s.rdS 1 a + s.src.sreg i.toNat
    match (do
      let x ← s.rdV 0 noStep v
      let r ← s.follow lWindows p (8 * Fmt.width ty) 4
      .ok (x, r) : R (Vec × Reach)) with
    | .error e => .next (s.raiseEvent (.stNb g ty v a i grp q) e)
    | .ok (x, r) => s.store (.stNb g ty v a i grp q) .ordinary [⟨p, r, nbData ty x grp.toNat (s.src.preg q.toNat)⟩]

/-! Gather, scatter and fetch (11 R215, R218). -/

/-- The address of lane j. -/
def laneAddr (base : Word) (v : Vec) (j : Nat) : Word := base + (lane v j).setWidth 64 * 4

/-- The read plans of lanes j and above, in ascending order. -/
def State.gathPlan (s : State) (base : Word) (v : Vec) (e : Nat) : Nat → R (List ReadPlan)
  | 0 => .ok []
  | j + 1 => do
    let l ← s.gathPlan base v e j
    let q := laneAddr base v j
    let r ← s.follow lWindows q 4 4
    let p ← s.planRead s.ctx.core r q 4 (4 * j) e s.serial
    .ok (l ++ [p])

def execGath (g : Guard) (d : VReg) (a : SSrc) (vi : VSrc) (t : BitVec 10) (e : BitVec 6) (s : State) : Out :=
  s.guarded (.gath g d a vi t e) g (do
    let k ← s.dstV noStep d
    let v ← s.rdV 2 noStep vi
    s.landFree e.toNat
    let plans ← s.gathPlan (s.rdS 1 a) v e.toNat 64
    .ok (s.nextSerial.2.arm e.toNat t.toNat
      { due := 0, dest := .v k, form := ⟨.b256, false⟩, serial := s.serial
        req := .gather ((List.range 64).map (laneAddr (s.rdS 1 a) v)) } plans))

/-- The stores of the enabled lanes below j, in ascending order. -/
def State.scatItems (s : State) (base : Word) (x v : Vec) (m : Word) : Nat → R (List StoreItem)
  | 0 => .ok []
  | j + 1 => do
    let l ← s.scatItems base x v m j
    if m.getLsbD j then do
      let q := laneAddr base v j
      let r ← s.follow lWindows q 4 4
      .ok (l ++ [⟨q, r, full (natToBytes 4 (lane x j).toNat)⟩])
    else .ok l

def execScat (g : Guard) (va : VSrc) (a : SSrc) (vi : VSrc) (q : PReg) (s : State) : Out :=
  if !s.on g then .next s
  else match (do
      let x ← s.rdV 0 noStep va
      let v ← s.rdV 2 noStep vi
      s.scatItems (s.rdS 1 a) x v (s.src.preg q.toNat) 64 : R (List StoreItem)) with
    | .error e => .next (s.raiseEvent (.scat g va a vi q) e)
    | .ok its => s.store (.scat g va a vi q) .ordinary its

/-- A request packet with its tag leaves at once, in no pair (11 R215); that of a LOCK pair from its release buffer (19 R354). A module-map entry with V = 0 fails it (21 R387). -/
def State.sendRequest (s : State) (p : Packet) : State :=
  let later : State := { s with queued := s.queued ++ [(s.ctx.core, s.cur.issued, p)] }
  if s.cur.lock then later else (s.depart s.ctx.core p s.cur.issued s.ctx.word s.ctx.pc).getD later

/-- AUX of core c's next request, before a FADDB's increment (log 18). -/
def State.tagAux (s : State) (c : Nat) : Nat := s.reqTag c * 16

def execFetch (g : Guard) (sz : Size) (sx : Bool) (d : XReg) (a : SSrc) (x : SReg) (t : BitVec 10) (e : BitVec 6) (s : State) : Out :=
  s.guarded (.fetch g sz sx d a x t e) g (do
    let dst ← s.dstX noStep d
    s.landFree e.toNat
    let q := s.rdS 1 a + s.src.sreg x.toNat
    let _ ← checkPtr s.cur s.src.limit podOnly q sz.bytes sz.alignment
    let l : Landing := { due := s.ctx.cyc + t.toNat, dest := dst, form := ⟨sz, sx⟩, req := .fetch q sz.bytes, serial := s.serial, left := 1
                         tag := s.reqTag s.ctx.core, pc := s.ctx.pc, slot := s.ctx.slot, iss := s.cur.issued, word := s.ctx.word }
    let p := { s.packet s.ctx.core false tyFetch q [] 0 0 (s.tagAux s.ctx.core) with len := BitVec.ofNat 9 (sz.bytes - 1) }
    .ok (((s.nextSerial.2.ask s.ctx.core l.tag).modCur (·.setLanding e.toNat (some l))).sendRequest p))

end Sys2Proof.Machine
end

