-- ==== Sys2Proof/Machine/Channels.lean ====
section
/-! DEFINITION. The C slot: channels with their residues, one-sided writes, flag operations, sequencer requests and channel entries
(11 R219 to R229, 13 R258 to R267). -/

namespace Sys2Proof.Machine
open Sys2Proof

/-! The channel-table entry (13 Table 13.1). -/

def Chan.valid (e : Chan) : Bool := e.w1.getLsbD 0
def Chan.consumer (e : Chan) : Bool := e.w1.getLsbD 1
def Chan.cls (e : Chan) : Nat := field e.w1 3 2
def Chan.fmt (e : Chan) : Nat := field e.w1 9 4
def Chan.depth (e : Chan) : Nat := field e.w1 17 10 + 1
def Chan.slot (e : Chan) : Nat := (field e.w1 27 18 + 1) * 64
def Chan.peer (e : Chan) : Nat := field e.w1 37 28
def Chan.module (e : Chan) : Nat := field e.w1 49 38
def Chan.fflag (e : Chan) : Nat := field e.w2 7 0
def Chan.eflag (e : Chan) : Nat := field e.w2 15 8
def Chan.pch (e : Chan) : Nat := field e.w2 21 16
def Chan.hop (e : Chan) : Nat := field e.w2 31 24
def Chan.tensor (e : Chan) : Nat := field e.w2 63 32
def Chan.count (e : Chan) : W32 := e.w3.setWidth 32
/-- Bits that Table 13.1 keeps zero at this end. -/
def Chan.reserved (e : Chan) : Bool :=
  field e.w1 63 50 != 0 || field e.w2 23 22 != 0 || field e.w3 63 32 != 0 || (e.consumer && (e.pch != 0 || e.hop != 0))
/-- The class unit u (11 R224). -/
def Chan.unit (e : Chan) : Nat := if e.cls = 1 then 128 else if e.cls = 2 then 512 else if e.cls = 3 then 256 else 64
def Chan.withCount (e : Chan) (v : W32) : Chan := { e with w3 := v.setWidth 64 }

/-- Formats that Table 13.1 gives a class. -/
def Chan.fmtOk (e : Chan) : Bool :=
  match Fmt.ofCode (BitVec.ofNat 6 e.fmt) with
  | none => false
  | some f => if e.cls = 1 then f == .bf16 else if e.cls = 2 then f == .f32 else if e.cls = 3 then f == .int32 || f == .uint32 else true

/-- The ring with its trailer ring lies in the own scratchpad or the own vault window (13 R259, R260). -/
def Chan.ringOk (e : Chan) (k : Core) (limit : Nat) : Bool :=
  let span := e.depth * (e.slot + if e.cls = 0 then 0 else 64)
  match windowOf e.w0 with
  | some .scratch => field e.w0 47 32 == k.seat && (placeOf k limit .scratch e.w0 span).isSome
  | some .gallery => field e.w0 38 32 == k.ownTeamGal && (placeOf k limit .gallery e.w0 span).isSome
  | _ => false

/-- An entry that a channel instruction of the end given may use for n slots (13 R259, 20 Table 20.4). -/
def Chan.usable (e : Chan) (k : Core) (limit : Nat) (consumer : Bool) (n : Nat) : Bool :=
  e.valid && e.consumer == consumer && !e.reserved && decide (n ≤ e.depth) && decide (2 ≤ e.depth) && e.w0.toNat % 64 == 0 && e.fmtOk &&
    e.slot % e.unit == 0 && (if consumer then e.ringOk k limit else windowOf e.w0 == some .pod)

/-- The entry of a channel as the bundle reads it. -/
def State.chan (s : State) (ch : ChReg) : Chan := sget {} s.src.chans ch.toNat
def State.useChan (s : State) (ch : ChReg) (consumer : Bool) (n : Nat) : R Chan := do
  let e := s.chan ch
  raiseIf (!e.usable s.cur s.src.limit consumer n) .channel (ch.setWidth 64)
  .ok e
def Core.modChan (k : Core) (ch : Nat) (f : Chan → Chan) : Core :=
  { k with rf := { k.rf with chans := sset {} ch (f (sget {} k.rf.chans ch)) k.rf.chans } }

/-- The address of the slot that COUNT names. -/
def Chan.slotPtr (e : Chan) : Word := e.w0 + word64 (e.count.toNat % e.depth * e.slot)
/-- The address of its trailer entry (13 R260). -/
def Chan.trailerPtr (e : Chan) : Word := e.w0 + word64 (e.depth * e.slot + 64 * (e.count.toNat % e.depth))

/-! Residues (13 R264, R265, 05 R109, R110). -/

/-- The weight of element i in class `cls`. -/
def weight (cls i : Nat) : Nat := powMod (if cls = 3 then 2 ^ 32 else resP) 32 65537 i
def classMod (cls : Nat) : Nat := if cls = 3 then 2 ^ 32 else resP

/-- Wire words of data at slot byte `off`: element index and residue of each (13 Table 13.4). -/
def wireWords (cls off : Nat) (bs : List Byte) : List (Nat × Nat) :=
  let w := if cls = 1 then 2 else 4
  (List.range (bs.length / w)).map (fun j =>
    let x := bytesToNat ((bs.drop (w * j)).take w)
    let b := off + w * j
    if cls = 1 then (b / 2, residue (decodeF .bf16 x))
    else if cls = 2 then (b / 512 * 64 + b % 256 / 4, residue (decodeF .f32 x))
    else (b / 4, x))
def wireResidue (cls off : Nat) (bs : List Byte) : Nat :=
  (wireWords cls off bs).foldl (fun acc e => (acc + weight cls e.1 * e.2) % classMod cls) 0

/-! Channel instructions (11 R223). -/

def execWfree (g : Guard) (ch : ChReg) (nM1 : BitVec 8) (s : State) : Out :=
  s.guarded (.wfree g ch nM1) g (do
    let _ ← s.useChan ch false (nM1.toNat + 1)
    .ok s)

/-- AUX of a SEND or PUBW: PCH with the position of PEER (log 18). -/
def Chan.aux (e : Chan) (k : Core) : Nat := e.pch + 64 * (e.peer % k.width)

def execSend (g : Guard) (sz : Size) (ch : ChReg) (v : VSrc) (off : BitVec 10) (s : State) : Out :=
  s.guarded (.send g sz ch v off) g (do
    let x ← s.rdV 1 noStep v
    let e ← s.useChan ch false 1
    raiseIf (decide (e.slot < 64 * off.toNat + sz.bytes)) .channel (ch.setWidth 64)
    let bs := vecBytes x sz.bytes
    let p := s.packet s.ctx.core false tySend (e.slotPtr + word64 (64 * off.toNat)) bs 0 0 (e.aux s.cur)
    let t ← s.remote [p]
    .ok (if e.cls = 0 then t
      else t.modCur (·.modChan ch.toNat (fun h =>
        { h with ores := word64 ((h.ores.toNat + wireResidue e.cls (64 * off.toNat) bs) % classMod e.cls) }))))

/-- The trailer entry of a published slot: residue word and chunk header (13 R260, R263). -/
def State.trailer (s : State) (e : Chan) (ores : Word) : List Byte :=
  let k := s.cur
  wordBytes ores ++ natToBytes 24 0
    ++ natToBytes 8 (k.job + k.gen * 2 ^ 16 + e.cls * 2 ^ 24 + e.tensor * 2 ^ 32)
    ++ natToBytes 8 (e.count.toNat + e.hop * 2 ^ 32)
    ++ natToBytes 8 (k.seat + s.ownModule k.job * 2 ^ 16) ++ natToBytes 8 0

def execPubw (g : Guard) (ch : ChReg) (nM1 : BitVec 8) (s : State) : Out :=
  s.guarded (.pubw g ch nM1) g (do
    let n := nM1.toNat + 1
    let e ← s.useChan ch false n
    raiseIf (e.cls != 0 && n != 1) .channel (ch.setWidth 64)
    let p := if e.cls = 0 then
        s.packet s.ctx.core false tyPubw (seatPtr s.cur.width e.module e.peer e.fflag) [] e.fflag (BitVec.ofNat 32 n) (e.aux s.cur)
      else s.packet s.ctx.core false tyPubw e.trailerPtr (s.trailer e (sget {} s.cur.rf.chans ch.toNat).ores) e.fflag 1 (e.aux s.cur)
    let t ← s.remote [p]
    .ok (t.modCur (·.modChan ch.toNat (fun h => { h.withCount (e.count + BitVec.ofNat 32 n) with ores := 0 }))))

/-- A core-port read of a channel slot: its bytes, their poison, and its latency. -/
def State.slotRead (s : State) (p : Word) (n : Nat) : R (List Byte × Word × Nat) := do
  let pl ← checkPtr s.cur s.src.limit lWindows p n 1
  match s.reach s.ctx.core pl with
  | .near off => .ok (s.src.near.read off n, poisonBits s.src.nearPoison off n, 4)
  | .own v off =>
    let r := s.vaultBytes v off n
    .ok (r.1, r.2, 12)
  | _ => .error (.channel, p)

def execRecv (g : Guard) (ch : ChReg) (d : SReg) (nM1 : BitVec 8) (vd : Option VReg) (s : State) : Out :=
  s.guarded (.recv g ch d nM1 vd) g (
    match vd with
    | none => do
      let e ← s.useChan ch true (nM1.toNat + 1)
      .ok (s.resultS 1 d.toNat e.slotPtr)
    | some v => do
      let k ← s.dstV noStep v
      let e ← s.useChan ch true (nM1.toNat + 1)
      let r ← s.slotRead e.slotPtr 256
      .ok ((s.resultS 1 d.toNat e.slotPtr).resultX r.2.2 (.v k) (vecOfBytes r.1) r.2.1))

/-! Receive-add (11 R224, 13 R267, 05 R111). -/

/-- F(a) + F(b) − F(out), exactly. -/
def errTerm (a b out : FVal) : FVal := (a.finitePart.add b.finitePart).sub out.finitePart
/-- A sum with an error term. DESIGN CHOICE (log 92): an error term that is zero adds nothing, so a sum of two zeros keeps its sign; 05 R111
gives such a term no sign. -/
def withErr (x d : FVal) : FVal := if d.isZero then x else x.add d

/-- One lane: results and the terms for LEFT and RIGHT. -/
structure HopLane where
  out   : Nat
  err   : Nat := 0
  left  : Nat
  right : Nat
  deriving Repr

def raddLane (cls : Nat) (a a1 b b1 : Nat) : HopLane :=
  if cls = 3 then { out := (a + b) % 2 ^ 32, left := (a + b) % 2 ^ 32, right := a + b }
  else
    let va := decodeF .f32 a
    if cls = 1 then
      let vb := decodeF .bf16 b
      let o := roundTo .f32 .rne (va.add vb)
      { out := o, left := residue (decodeF .f32 o) + residue (errTerm va vb (decodeF .f32 o)), right := residue va + residue vb }
    else
      let vb := decodeF .f32 b
      let ae := decodeF .f32 a1
      let be := decodeF .f32 b1
      let o := roundTo .f32 .rne (va.add vb)
      let d := errTerm va vb (decodeF .f32 o)
      let e := roundTo .f32 .rne (withErr (ae.add be) d)
      let d2 := ((ae.finitePart.add be.finitePart).add d).sub (decodeF .f32 e).finitePart
      { out := o, err := e, left := residue (decodeF .f32 o) + residue (decodeF .f32 e) + residue d2
        right := residue va + residue ae + residue vb + residue be }

/-- RADD (11 R224, 13 R267). DESIGN CHOICE (log 106): its terms count as formed when its results fall due, 20 cycles after its issue. -/
def execRadd (g : Guard) (ch : ChReg) (d : VReg) (a : VSrc) (off : BitVec 10) (s : State) : Out :=
  s.guarded (.radd g ch d a off) g (do
    let kd ← s.dstV noStep d
    let x ← s.rdV 1 noStep a
    let e ← s.useChan ch true 1
    raiseIf (e.cls == 0 || decide (e.slot < e.unit * (off.toNat + 1))) .channel (ch.setWidth 64)
    let r ← s.slotRead (e.slotPtr + word64 (e.unit * off.toNat)) e.unit
    let kd1 ← if e.cls = 2 then vphys s.src (d.toNat + 1) else .ok 0
    let x1 ← match a with
      | .held => .ok (Config.freeVec s.fresh)
      | .reg n | .latch n => if e.cls = 2 then (vphys s.src (n.toNat + 1)).map s.src.vreg else .ok 0
    let m := bytesToNat r.1
    let wb := if e.cls = 1 then 16 else 32
    let ls := (List.range 64).map (fun j =>
      raddLane e.cls (lane x j).toNat (lane x1 j).toNat (m / 2 ^ (wb * j) % 2 ^ wb) (m / 2 ^ (2048 + 32 * j) % 2 ^ 32))
    let sum (f : HopLane → Nat) : Nat :=
      (ls.zip (List.range 64)).foldl (fun acc q => (acc + weight e.cls (64 * off.toNat + q.2) * f q.1) % classMod e.cls) 0
    let t := s.result 20 (.v kd) (BitVec.ofNat 2048 (packNat 32 (ls.map (·.out))))
    let t1 := if e.cls = 2 then t.result 20 (.v kd1) (BitVec.ofNat 2048 (packNat 32 (ls.map (·.err)))) else t
    let t2 : State := if a = .held then { t1 with fresh := t1.fresh + 1 } else t1
    .ok (t2.modCur (·.modChan ch.toNat (fun h =>
      { h with formed := s.ctx.cyc + 20, left := word64 ((h.left.toNat + sum (·.left)) % classMod e.cls)
               right := word64 ((h.right.toNat + sum (·.right)) % classMod e.cls) }))))

/-- The chunk header of the oldest slot consumed, for the record (13 Table 13.3, 21 R383): VALUE and INFO. -/
def headerOf (bs : List Byte) : Word × Word :=
  (word64 (bytesToNat ((bs.drop 8).take 4) + bytesToNat ((bs.drop 4).take 4) * 2 ^ 32), word64 (bytesToNat ((bs.drop 12).take 1)))

/-- ADVR (11 R223, 13 R267). DESIGN CHOICE (log 115): the hop record that it closes leaves the channel entry and stands in Core.hops until its
comparison. -/
def execAdvr (g : Guard) (ch : ChReg) (nM1 : BitVec 8) (s : State) : Out :=
  s.guarded (.advr g ch nM1) g (do
    let n := nM1.toNat + 1
    let e ← s.useChan ch true n
    let p := s.packet s.ctx.core false tyFadd (seatPtr s.cur.width e.module e.peer e.eflag) [] e.eflag (BitVec.ofNat 32 n)
    let t ← s.remote [p]
    let hdr := match s.slotRead (e.trailerPtr + 32) 32 with
      | .ok r => headerOf r.1
      | .error _ => (0, 0)
    .ok (t.modCur (fun k =>
      let h := sget {} k.rf.chans ch.toNat
      let k1 := k.modChan ch.toNat (fun h => { h.withCount (e.count + BitVec.ofNat 32 n) with left := 0, right := 0 })
      if e.cls = 0 then k1
      else { k1 with hops := k1.hops ++ [{ ch := ch.toNat, iss := k1.issued, due := max s.ctx.cyc h.formed, left := h.left, right := h.right, value := hdr.1
                                           info := hdr.2, addr := e.slotPtr, word := s.ctx.word }] })))

/-! One-sided writes (11 R225). -/

def execPut (g : Guard) (st : Sticky) (sz : Size) (x : XSrc) (a : SSrc) (s : State) : Out :=
  s.guarded (.put g st sz x a) g (do
    let bs ← s.dataX st sz x
    let base := if s.ctx.sticky then s.ctx.sa.getD 0 0 else s.rdS 1 a
    let q := base + BitVec.ofInt 64 (s.ctx.step * st.step.toInt * sz.bytes)
    s.holdRoom bs.length
    let _ ← checkPtr s.cur s.src.limit podOnly q sz.bytes sz.alignment
    s.remote [s.packet s.ctx.core false tyWrite q bs])

def execPutf (g : Guard) (sz : Size) (x : XSrc) (a : SSrc) (f : FReg) (incM1 : BitVec 5) (pos : BitVec 3) (s : State) : Out :=
  s.guarded (.putf g sz x a f incM1 pos) g (do
    let bs ← s.dataX noStep sz x
    let q := s.rdS 1 a
    raiseIf (windowOf q == some .pod && q.getLsbD 39 && pos != 0) .limit q
    s.holdRoom bs.length
    let _ ← checkPtr s.cur s.src.limit podOnly q sz.bytes sz.alignment
    s.remote [s.packet s.ctx.core false tyWritef q bs f.toNat (BitVec.ofNat 32 (incM1.toNat + 1)) (64 * pos.toNat)])

/-! Flag operations (11 R226 to R228). -/

def State.modFlags (s : State) (f : Sparse W32 → Sparse W32) : State := s.modCur (fun k => { k with flags := f k.flags })

/-- A POD seat pointer to a flag (11 R220, 20 Table 20.4). -/
def State.flagPtr (s : State) (p : Word) : R Unit := do
  raiseIf (windowOf p == some .pod && (!p.getLsbD 39 || field p 17 8 != 0)) .limit p
  s.holdRoom 0
  let _ ← checkPtr s.cur s.src.limit podOnly p 1 1
  .ok ()

def execFadd (g : Guard) (f : FReg) (v : FOperand) (s : State) : Out :=
  s.guarded (.fadd g f v) g (.ok (s.modFlags (fun m => flagAdd m f.toNat (s.flagV v))))
def execFset (g : Guard) (f : FReg) (v : FOperand) (s : State) : Out :=
  s.guarded (.fset g f v) g (.ok (s.modFlags (fun m => flagSet m f.toNat (s.flagV v))))

def execFaddRemote (g : Guard) (p : SReg) (v : FOperand) (s : State) : Out :=
  s.guarded (.faddRemote g p v) g (do
    let q := s.src.sreg p.toNat
    s.flagPtr q
    s.remote [s.packet s.ctx.core false tyFadd q [] (field q 7 0) (s.flagV v)])
def execFsetRemote (g : Guard) (p : SReg) (v : FOperand) (s : State) : Out :=
  s.guarded (.fsetRemote g p v) g (do
    let q := s.src.sreg p.toNat
    s.flagPtr q
    s.remote [s.packet s.ctx.core false tyFset q [] (field q 7 0) (s.flagV v)])

def execFaddb (g : Guard) (d : SReg) (f : FReg) (incM1 : BitVec 4) (bound : SReg) (s : State) : Out :=
  let old := flagOf s.cur.flags f.toNat
  s.guarded (.faddb g d f incM1 bound) g (.ok ((s.resultS 1 d.toNat (old.setWidth 64)).modFlags (fun m =>
    flagSet m f.toNat (faddbNew old (incM1.toNat + 1) ((s.src.sreg bound.toNat).setWidth 32)))))

def execFaddbRemote (g : Guard) (d : SReg) (p : SReg) (incM1 : BitVec 4) (bound : SReg) (t : BitVec 10) (e : BitVec 6) (s : State) : Out :=
  s.guarded (.faddbRemote g d p incM1 bound t e) g (do
    raiseIf (s.cur.rgd != 0) .region (word64 s.cur.rgd)
    s.landFree e.toNat
    let q := s.src.sreg p.toNat
    s.flagPtr q
    let b : W32 := (s.src.sreg bound.toNat).setWidth 32
    let l : Landing := { due := s.ctx.cyc + t.toNat, dest := .s d.toNat, form := ⟨.b8, false⟩, serial := s.serial, left := 1
                         req := .faddb q (incM1.toNat + 1) b, tag := s.reqTag s.ctx.core, pc := s.ctx.pc, slot := s.ctx.slot, iss := s.cur.issued, word := s.ctx.word }
    let pk := s.packet s.ctx.core false tyFaddb q [] (field q 7 0) b (s.tagAux s.ctx.core + incM1.toNat)
    ((s.nextSerial.2.ask s.ctx.core l.tag).modCur (·.setLanding e.toNat (some l))).remote [pk])

/-- The value of FSET.M. -/
def State.flagVM (s : State) : FMOperand → W32
  | .imm n => n.setWidth 32
  | .reg a => (s.rdS 1 a).setWidth 32

def execFsetM (g : Guard) (f : FReg) (v : FMOperand) (m : SSrc) (blk : BitVec 4) (s : State) : Out :=
  s.guarded (.fsetM g f v m blk) g (
    let mask := s.rdS 2 m
    let seats := ((List.range 64).filter (fun b => mask.getLsbD b)).map (fun b => 64 * blk.toNat + b)
    match seats.find? (fun n => decide (s.cur.nseats ≤ n)) with
    | some n => .error (.limit, word64 n)
    | none =>
      if seats.isEmpty then .ok s
      else s.remote (seats.map (fun n =>
        { s.packet s.ctx.core false tyFset (seatPtr s.cur.width (s.ownModule s.cur.job) n f.toNat) [] f.toNat (s.flagVM v) with port := 37 })))

/-! Sequencer requests and entries (11 R222, R229). -/

def execSeqGo (g : Guard) (addr : BitVec 16) (f : FReg) (k : SReg) (s : State) : Out :=
  s.guarded (.seqGo g addr f k) g (do
    raiseIf (addr.toNat % 4 != 0 || decide (s.cur.textLen ≤ addr.toNat)) .target (addr.setWidth 64)
    raiseIf (decide (8 ≤ s.cur.seq.cpq.length)) .cpqfull 8
    let c := (List.range 8).map (fun i => s.src.sreg (k.toNat + i))
    .ok (s.modCur (fun x => { x with seq := { x.seq with
      cpq := x.seq.cpq ++ [{ addr := addr.toNat, flag := f.toNat, c := c, iss := x.issued }] } })))

def execChset (g : Guard) (ch : ChReg) (a : SReg) (s : State) : Out :=
  s.guarded (.chset g ch a) g (.ok (s.modCur (·.modChan ch.toNat (fun _ =>
    { w0 := s.src.sreg a.toNat, w1 := s.src.sreg (a.toNat + 1), w2 := s.src.sreg (a.toNat + 2), w3 := s.src.sreg (a.toNat + 3) }))))

end Sys2Proof.Machine
end

