-- ==== Sys2Proof/Machine/Tasks.lean ====
section
/-! DEFINITION. Tasks as instructions touch them: entries of the pending-launch pool, ends of seats and the release of a core (02 R30 to
R35, 03 R47). -/

namespace Sys2Proof.Machine
open Sys2Proof

/-- Entries of the pool (02 R33). -/
def poolSize : Nat := 4096
/-- Entries neither held nor promised to a waiting LAUNCH. -/
def State.poolFree (s : State) : Nat := poolSize - s.tasks.length - (s.launches.filter (fun e => e.2 == 1)).length

/-- The LAUNCH of core c may take an entry: one is promised to it, or one is free and no LAUNCH waits (02 R33). -/
def State.launchReady (s : State) (c : Nat) : Bool :=
  s.launches.contains (c, 1) || (s.launches.all (fun e => e.2 == 1) && decide (0 < s.poolFree))

/-- A task in PENDING whose descriptor has still to be read (02 R31, 12 R243). -/
def State.newTask (s : State) (t : Task) : State :=
  { s with tasks := s.tasks ++ [{ t with id := s.serial, state := .pending, born := s.clock }], serial := s.serial + 1 }

/-- A core whose seat has been saved, dumped or killed: zeroed (22 R402, R405), with the fetch-decrypt unit cleared (14 R279); the message
counter runs on (18 R327). -/
def Core.vacated (k : Core) : Core := { mseq := k.mseq }
/-- A core whose seat has completed TEND: nothing of it runs, and its registers, memory, flags and counters stand as the task left them, which
is what 16 R306 and R310, 17 R315 and 23 R412 and R417 find once the task has ENDED. The zeroing of 03 R47 is done by the next placement,
which starts from an empty core (DEDUCED, log 111). -/
def Core.departed (k : Core) : Core :=
  { rf := k.rf, dom := k.dom, phase := k.phase, cyc := k.cyc, frz := k.frz, srg := k.srg, flags := k.flags, tiles := k.tiles
    tilePoison := k.tilePoison, xpWr := k.xpWr, xpRd := k.xpRd, xpBank := k.xpBank, xpose := k.xpose, dq := k.dq, sticky := k.sticky
    pc := k.pc, rstack := k.rstack, mseq := k.mseq }

/-- A core released, with what is left of it. -/
def State.releaseAs (s : State) (c : Nat) (k : Core) : State :=
  { (((s.setCore c k).dropWalks (hallOf c) (fun w => w.core == c)).dropQueued c).dropLaunch c with
    mail := s.mail.filter (fun m => m.core != c) }
/-- A core released and zeroed. -/
def State.releaseCore (s : State) (c : Nat) : State := s.releaseAs c (s.core c).vacated

/-- A task of which the last seats have been saved, the others having ended, is SAVED (12 R255). -/
def State.settleSaved (s : State) (id : Nat) : State :=
  match s.task id with
  | some t => if t.saved ≠ [] ∧ t.saved.length + t.ended.length = t.nseats then
      { s.modTask id (fun x => { x with state := .saved }) with preempts := s.preempts.filter (fun p => p.task != id) }
    else s
  | none => s

/-- A seat has completed TEND: it counts as triggering, its core is released, and the last one ends the task (02 R32, R35), or leaves it SAVED
where the others have been saved. -/
def State.endSeat (s : State) (c : Nat) : State :=
  let k := s.core c
  let s1 := s.modTask k.task (fun t =>
    let ended := ninsert k.seat t.ended
    { t with ended := ended, triggered := ninsert k.seat t.triggered
             state := if ended.length = t.nseats then .ended else t.state })
  (s1.releaseAs c k.departed).settleSaved k.task

/-- The pages that a descriptor pointer of LAUNCH may name (08 R168, 20 Table 20.4). -/
def launchWindows (w : Window) : Bool := w == .global || w == .priv

/-- A pre-emption of the seat's task has been asked for (08 R171). -/
def State.saveWanted (s : State) (c : Nat) : Bool := s.preempts.any (fun p => p.task == (s.core c).task)

end Sys2Proof.Machine
end

