-- ==== Sys2Proof/Machine/IoAccess.lean ====
section
/-! DEFINITION. Accesses of the I/O dies and of the hardware itself to global memory, walked without any cache, and the context blocks that
they reach (04 R80, 06 R133, 15 R292, 21 R373, R374, R421, 22 R391, R399, R400). -/

namespace Sys2Proof.Machine
open Sys2Proof

/-- A byte with its poison. -/
abbrev PByte := Byte × Bool

/-- How an access of the I/O die ends: its result; a code with its ADDR and UNIT, and the state that its reads have left; or held by a page
under migration. -/
inductive Io (α : Type) where
  | ok (a : α)
  | bad (s : State) (c : Code) (addr unit : Nat)
  | held

def Io.bind {α β : Type} (x : Io α) (f : α → Io β) : Io β :=
  match x with
  | .ok a => f a
  | .bad s c a u => .bad s c a u
  | .held => .held
def Io.get {α : Type} (x : Io α) (d : α) : α :=
  match x with
  | .ok a => a
  | _ => d
/-- What a failing access leaves. -/
def Io.left {α : Type} (x : Io α) (d : State) : State :=
  match x with
  | .bad s _ _ _ => s
  | _ => d

/-! Walks and bytes. -/

/-- The entry at which a walk ends. -/
def State.walkLast (s : State) (va : Nat) : Nat → Nat → Nat
  | 0, base => base
  | fuel + 1, base =>
    let a := base + 8 * levelIndex fuel va
    let e := s.hbm.word a
    if (sectorOf s a).poison || (sectorOf s a).soft == 2 || !e.getLsbD 0 || e.getLsbD 1 then a else s.walkLast va fuel (field e 51 8 * 256)

/-- UNIT of a failing code: the stack of the sector for HBMUE (18 R422). -/
def Code.stack (c : Code) (pa : Nat) : Nat := if c = .hbmue then stackUnit pa else 0

/-- A walk by a walker of an I/O die: the leaf's A and D are set, no cache is used or filled (04 R80). -/
def State.ioWalk (s : State) (job world va : Nat) (write : Bool) : Io (State × Home) :=
  let root := ((s.worldOf job world).map (·.troot)).getD 0
  match walkFrom s job world (s.accepted 7) va write true 4 root 0 with
  | .leaf a level e _ =>
    .ok ((setAD (s.walkFix va 4 root) a e write).1, homeOf (e.getLsbD 6) (field e 59 24 * 2 ^ 16 + va % leafBytes level) (field e 23 8) va)
  | .migrating => .held
  | .bad c => .bad (s.walkFix va 4 root) c va (c.stack (s.walkLast va 4 root))

/-- A code that an access meets at a home. -/
def Io.fails {α : Type} (s : State) (c : Code) (h : Home) : Io α := .bad s c (failAddr c h).toNat (if c = .hbmue then unitOf h 0 else 0)

/-- An access of the I/O dies that the host completes with an error (21 R377). -/
def State.hostError (s : State) (h : Home) : Bool := s.hostFails && h.isHost
/-- What such an access leaves and how it ends. -/
def Io.hostError {α : Type} (s : State) (h : Home) : Io α := .fails { s with hostFails := false } .hbmue h

/-- Bytes of one sector for a reader that uses no bit of a poisoned or uncorrectable one. The reader of a structure rewrites no such sector
(21 R421); any other read marks an uncorrectable one poisoned (21 R377). -/
def State.structRead (s : State) (h : Home) (n : Nat) (struct : Bool) : Io (State × List Byte) :=
  let t := if struct then s else s.afterRead h n
  let sick := match h with
    | .hbm pa _ _ => (sectorOf s pa).poison || (sectorOf s pa).soft == 2
    | _ => false
  if s.hostError h then .hostError s h
  else match readHome s h n with
  | .error c => .fails (if c = .hbmue then t else s) c h
  | .ok r => if sick then .fails t .hbmue h else .ok ((s.portRead h n).1, r.1)

def State.ioReadL (s : State) (job world : Nat) (struct : Bool) : List (Nat × Nat × Nat) → Io (State × List Byte)
  | [] => .ok (s, [])
  | q :: t => (s.ioWalk job world q.1 false).bind (fun w =>
      (w.1.structRead w.2 q.2.2 struct).bind (fun r => (r.1.ioReadL job world struct t).bind (fun u => .ok (u.1, r.2 ++ u.2))))
/-- n bytes of global memory of a job and world. -/
def State.ioRead (s : State) (job world va n : Nat) : Io (State × List Byte) := s.ioReadL job world false (piecesOf va n)
/-- The same of a scheduling structure: a queue packet, a task descriptor, a node record or a spawn descriptor. -/
def State.ioStruct (s : State) (job world va n : Nat) : Io (State × List Byte) := s.ioReadL job world true (piecesOf va n)

/-- Bytes of global memory with the poison of their words; only an uncorrectable sector fails, and is marked poisoned (21 R377, 22 R400,
R407). -/
def State.ioGetL (s : State) (job world : Nat) : List (Nat × Nat × Nat) → Io (State × List PByte)
  | [] => .ok (s, [])
  | q :: t => (s.ioWalk job world q.1 false).bind (fun w =>
      if w.1.hostError w.2 then .hostError w.1 w.2
      else match readHome w.1 w.2 q.2.2 with
      | .error c => .fails (if c = .hbmue then w.1.afterRead w.2 q.2.2 else w.1) c w.2
      | .ok r =>
        let bs := (r.1.zip (List.range r.1.length)).map (fun e => (e.1, r.2.getLsbD ((q.1 % 4 + e.2) / 4)))
        ((w.1.portRead w.2 q.2.2).1.ioGetL job world t).bind (fun u => .ok (u.1, bs ++ u.2)))
def State.ioGet (s : State) (job world va n : Nat) : Io (State × List PByte) := s.ioGetL job world (piecesOf va n)

/-- Bytes written piece after piece, each piece at its home; `kept` is the state with the walks alone, which a write that fails leaves. -/
def State.ioWriteL (s : State) (job world : Nat) (kept : State) : List PByte → List (Nat × Nat × Nat) → Io State
  | _, [] => .ok s
  | bs, q :: t =>
    match s.ioWalk job world q.1 true with
    | .held => .held
    | .bad _ c a u => .bad ((kept.ioWalk job world q.1 true).left kept) c a u
    | .ok w =>
      let part := bs.take q.2.2
      let k := ((kept.ioWalk job world q.1 true).get (kept, w.2)).1
      if w.1.hostError w.2 then .hostError k w.2
      else match writeHome w.1 w.2 (full (part.map (·.1))) (part.any (·.2)) with
      | .ok u => u.ioWriteL job world k (bs.drop q.2.2) t
      | .error c => .fails k c w.2
/-- Bytes with their poison written to global memory. -/
def State.ioPut (s : State) (job world va : Nat) (bs : List PByte) : Io State := s.ioWriteL job world s bs (piecesOf va bs.length)
def State.ioWrite (s : State) (job world va : Nat) (bs : List Byte) : Io State :=
  s.ioPut job world va (bs.map (fun b => (b, false)))

/-! Context blocks (22 R399 to R404). -/

/-- The address of a block of the job's context pool. -/
def State.blockVa (s : State) (job : Nat) (mib : Nat) : Nat := ((s.job job).map (·.ctxBase)).getD 0 + mib * 2 ^ 20

/-- The bytes of an area that grows, from place `start` on, written as whole sectors: what stands before in its first sector again, and zeros
behind its last byte. -/
def State.areaPut (s : State) (job world base start : Nat) (area : List PByte) : Io State :=
  let bs := area.drop (start / 32 * 32)
  s.ioPut job world (base + start / 32 * 32) (bs ++ List.replicate ((bs.length + 31) / 32 * 32 - bs.length) (0, false))

/-- The seat block of a seat's task, once it has blocks. -/
def State.seatBlock (s : State) (c : Nat) : Option Nat :=
  let k := s.core c
  ((s.task k.task).bind (fun t => t.blocks[k.seat]?)).map (s.blockVa k.job)
/-- Bytes kept at a level, oldest first, as its undo space holds them. -/
def Frame.undo (f : Frame) : List PByte :=
  f.keeps.reverse.flatMap (fun r => (r.2.2.1.zip (List.range r.2.1)).map (fun e => (e.1, r.2.2.2.contains e.2)))
/-- Undo space of level n in a seat block (22 Table 22.2). -/
def undoOffset (level : Nat) : Nat := 0xA0000 + 0x10000 * (level - 1)
/-- The last n bytes kept at the innermost level go to its undo space in the seat's context block (22 R391); none while a migration holds the
block's page (04 R83). A block that cannot be written keeps what it holds (log 86). -/
def State.putUndo (s : State) (c n : Nat) : Option State :=
  let k := s.core c
  match s.seatBlock c, k.frames with
  | some b, f :: _ => (match s.areaPut k.job k.world (b + undoOffset k.rgd) (f.undo.length - n) f.undo with
      | .ok u => some u
      | .held => none
      | .bad u _ _ _ => some u)
  | _, _ => some s
/-- The keep records of a level with the bytes that its undo space holds (22 R394). -/
def reloadKeeps (bs : List PByte) : List (Word × Nat × List Byte × List Nat) → List (Word × Nat × List Byte × List Nat)
  | [] => []
  | r :: t =>
    let mine := bs.take r.2.1
    (r.1, r.2.1, mine.map (·.1), ((mine.zip (List.range r.2.1)).filter (fun e => e.1.2)).map (·.2)) :: reloadKeeps (bs.drop r.2.1) t
def State.getUndo (s : State) (c : Nat) : Io (State × Frame) :=
  let k := s.core c
  match s.seatBlock c, k.frames with
  | some b, f :: _ =>
    if f.keeps.isEmpty then .ok (s, f)
    else (s.ioGet k.job k.world (b + undoOffset k.rgd) f.undo.length).bind (fun r =>
      .ok (r.1, { f with keeps := (reloadKeeps r.2 f.keeps.reverse).reverse }))
  | _, f :: _ => .ok (s, f)
  | _, [] => .ok (s, {})

end Sys2Proof.Machine
end

