-- ==== Sys2Proof/Machine/Io.lean ====
section
/-! DEFINITION. The memory structures that the schedulers and the loader read through accesses of the I/O dies (12 R239 to R251, 18 R333). -/

namespace Sys2Proof.Machine
open Sys2Proof

/-- A 4-byte word added to, modulo 2³², in one step (12 R240, R247). -/
def State.ioAdd (s : State) (job world va : Nat) (v : W32) : Io State :=
  (s.ioRead job world va 4).bind (fun r => r.1.ioWrite job world va (natToBytes 4 (bytesToNat r.2 + v.toNat)))

/-- An aligned GLOBAL range of n bytes. -/
def globalOk (p : Word) (align n : Nat) : Bool := p.toNat % align == 0 && decide (p.toNat + n ≤ 2 ^ 57)

/-! Fields of structures held as byte lists. -/

def bword (bs : List Byte) (off : Nat) : Word := BitVec.ofNat 64 (bytesToNat ((bs.drop off).take 8))
/-- Bits [hi:lo] of the word at `off`. -/
def bfield (bs : List Byte) (off hi lo : Nat) : Nat := field (bword bs off) hi lo
/-- The bits that a mask leaves out of the word at `off` are zero. -/
def reservedZero (bs : List Byte) (off : Nat) (used : Word) : Bool := bword bs off &&& ~~~used == 0
def tailZero (bs : List Byte) (off : Nat) : Bool := (bs.drop off).all (· == 0)
/-- Bits [hi:lo] of a mask. -/
def bits (hi lo : Nat) : Word := word64 (2 ^ (hi + 1) - 2 ^ lo)

/-! Task descriptors (12 R243, R244). -/

/-- A descriptor's fields that break Table 12.4 whatever its task: reserved bits, limits, the nesting of R26, the image. EST = 0 is taken, as
the descriptor of 17 R317 has it (log 84). -/
def State.badDesc (s : State) (job world : Nat) (bs : List Byte) : Bool :=
  let dom (i : Nat) : Nat := bfield bs 0x48 (10 * i + 9) (10 * i)
  let nested (a b : Nat) : Bool := a ||| b == b
  let image := ((s.job job).bind (fun j => j.images.find? (fun (x : Image) => x.id == bfield bs 0x40 15 0 && x.world == world)))
  !(reservedZero bs 0x40 (bits 58 0) && reservedZero bs 0x48 (bits 46 0 ||| bits 55 48) && reservedZero bs 0x60 (bits 32 0)
      && reservedZero bs 0x68 (bits 47 0) && tailZero bs 0x70)
    || (match image with
      | none => true
      | some x => x.nseats != bfield bs 0x40 42 32 || x.lock != (bfield bs 0x40 43 43 == 1))
    || bfield bs 0x40 48 44 == 0 || decide (16 < bfield bs 0x40 48 44) || bfield bs 0x40 53 49 != world
    || !(nested (dom 1) (dom 0) && nested (dom 2) (dom 1) && nested (dom 3) (dom 2))
    || bfield bs 0x48 46 40 == 0 || decide (64 < bfield bs 0x48 46 40)
    || (bfield bs 0x60 32 0 != 0 && (bfield bs 0x50 15 0 != 0 || bfield bs 0x58 15 0 != 0 || decide (2 ^ 32 < bfield bs 0x60 32 0)
      || decide ((bword bs 0x58).toNat < bfield bs 0x60 32 0) || decide (2 ^ 57 ≤ (bword bs 0x50).toNat)))

/-- The lowest task number from 1 that no live task of the job holds (12 Table 12.4). -/
def State.freeTaskid (s : State) (job : Nat) : Nat :=
  ((List.range 65536).find? (fun n => n != 0 && (s.liveTask job n).isNone)).getD 0

/-- The task with what its descriptor gives it; `gen` where the descriptor's GEN is zero. -/
def State.describe (s : State) (t : Task) (bs : List Byte) (gen : Nat) : Task :=
  let g := bfield bs 0x48 55 48
  { t with args := (List.range 8).map (fun i => bword bs (8 * i)), image := bfield bs 0x40 15 0
           taskid := if t.taskid ≠ 0 then t.taskid else if bfield bs 0x40 31 16 ≠ 0 then bfield bs 0x40 31 16 else s.freeTaskid t.job
           nseats := bfield bs 0x40 42 32, lock := bfield bs 0x40 43 43 == 1, allot := bfield bs 0x40 48 44
           rst := bfield bs 0x40 58 58 == 1, dom := (List.range 4).map (fun i => bfield bs 0x48 (10 * i + 9) (10 * i))
           vsize := bfield bs 0x48 46 40, gen := if g = 0 then gen else g, pbase := (bword bs 0x50).toNat
           pstride := (bword bs 0x58).toNat, psize := bfield bs 0x60 32 0, est := bfield bs 0x68 47 0 }

/-- The task is a tile of a spawn (12 R250). -/
def Task.isTile (t : Task) : Bool :=
  match t.creator with
  | .tile _ _ _ => true
  | _ => false

/-- A descriptor read for a job and world: its bytes, or the code that its source handles with ADDR naming it (18 R333). The numbers that a
descriptor asks for must be free: its TASKID, and its PRIO where the queue fixes one. That of a spawn, its template, has at most a gallery's
seats, and its TASKID is not looked at (12 R250; log 110). -/
def State.readDesc (s : State) (job world : Nat) (va : Word) (prio : Option Nat) (taskid : Nat) (tile : Bool := false) : Io (State × List Byte) :=
  if !globalOk va 256 256 then .bad s .descriptor va.toNat 0
  else (s.ioStruct job world va.toNat 256).bind (fun r =>
    let own := bfield r.2 0x40 31 16
    if s.badDesc job world r.2 || (prio.isSome && prio != some (bfield r.2 0x40 57 54))
        || (if tile then decide ((if bfield r.2 0x40 43 43 = 1 then 4 else 8) < bfield r.2 0x40 42 32)
            else own != 0 && own != taskid && (s.liveTask job own).isSome) then .bad r.1 .descriptor va.toNat 0
    else .ok r)

/-! Scopes (06 Table 6.2). -/

/-- The homes of L-slot accesses that a scope of core c covers. -/
def scopeHome (c : Nat) (sc : Scope) : Home → Bool
  | .near d _ =>
    match sc with
    | .core => d == c
    | .quad => d / 4 == c / 4
    | .gallery => galOf d == galOf c
    | .hall => hallOf d == hallOf c
    | _ => true
  | .vault g _ =>
    match sc with
    | .core | .quad => false
    | .gallery => g == galOf c
    | .hall => g / 16 == hallOf c
    | _ => true
  | .hbm pa _ _ =>
    match sc with
    | .core | .quad | .gallery => false
    | .hall => pa / 0x3000000000 == hallOf c
    | _ => true
  | .host _ _ _ => sc == .system

/-- A piece at a known home is in scope by it; one whose walk finds no leaf yet is, from HALL outward. A fence asks for pieces at the homes
that their pages have now (06 R128). -/
def scopePiece (c : Nat) (sc : Scope) (p : Piece) : Bool :=
  match p.home with
  | some h => scopeHome c sc h
  | none => !(sc == .core || sc == .quad || sc == .gallery)

/-- Every L-slot write of a core from before a bundle has performed at CHIP scope: the store of a LAUNCH's own bundle is not before it
(17 Table 17.8). -/
def State.writesDoneTo (s : State) (c n : Nat) : Bool :=
  !((s.core c).pend ++ (s.core c).hxq.flatten ++ (s.core c).wc.flatten).any (fun p => p.write && decide (p.iss < n) && scopePiece c .chip p)

/-- What stands in memory once the L-slot writes of core c from before bundle n have performed. -/
def State.foreseen (s : State) (c n : Nat) : State :=
  let k := s.core c
  (k.pend ++ k.hxq.flatten ++ k.wc.flatten).foldl (fun t p => match p.home with
    | some h => if p.write && decide (p.iss < n) then (match writeHome t (s.rehome k.task h) p.data p.poison with
        | .ok u => u
        | .error _ => t) else t
    | none => t) s

/-- Why the descriptor that a LAUNCH names cannot be used: its page or key, its sectors or its fields, as the seat's earlier writes make them
(06 R134, 18 R333). What anything else changes before the Concourse reads it is found then (log 30). -/
def State.launchFault (s : State) (c va : Nat) : Option (Code × Word × Nat) :=
  let k := s.core c
  let told {α : Type} (r : Io α) : Option (Code × Word × Nat) := match r with
    | .bad _ code a u => some (code, word64 a, u)
    | _ => none
  (told (s.ioWalk k.job k.world va false)).or (told ((s.foreseen c k.issued).readDesc k.job k.world (word64 va) none 0))

/-! Queue-table entries and packets (12 R239, R240). -/

structure QEntry where
  base  : Nat
  logn  : Nat
  job   : Nat
  world : Nat
  prio  : Nat
  slice : Nat
  widx  : Nat
  ridx  : Nat
  halt  : Bool
  deriving DecidableEq, Repr

/-- HBM address of queue-table entry q (15 Table 15.4). -/
def State.qAddr (s : State) (q : Nat) : Nat := s.host.qtBase.toNat % 2 ^ 41 + 64 * q

/-- Queue-table entry q as it stands, or the code that its reading raises (18 R333). -/
def State.qEntry (s : State) (q : Nat) : Except Code QEntry :=
  let a := s.qAddr q
  let bs := s.hbm.read a 64
  let e : QEntry := { base := bfield bs 0 56 0, logn := bfield bs 8 4 0, job := bfield bs 8 31 16, world := bfield bs 8 36 32
                      prio := bfield bs 8 43 40, slice := bfield bs 8 63 48, widx := bfield bs 0x10 31 0, ridx := bfield bs 0x18 31 0
                      halt := bfield bs 0x18 32 32 == 1 }
  if [0, 32].any (fun i => (sectorOf s (a + i)).poison || (sectorOf s (a + i)).soft == 2) then .error .hbmue
  else if e.logn < 4 ∨ 16 < e.logn ∨ e.base % 64 ≠ 0 ∨ (s.job e.job).isNone
      ∨ !(reservedZero bs 0 (bits 56 0) && reservedZero bs 8 (bits 4 0 ||| bits 36 16 ||| bits 43 40 ||| bits 63 48)
        && reservedZero bs 0x10 (bits 31 0) && reservedZero bs 0x18 (bits 32 0) && tailZero bs 0x20) then .error .descriptor
  else .ok e

/-- HALT of queue q as its entry holds it, whatever the rest of the entry does. -/
def State.qHalted (s : State) (q : Nat) : Bool := (Mem.byte s.hbm (s.qAddr q + 0x1C)).getLsbD 0
/-- Single errors that the Foyer's read of entry q finds are corrected and counted (21 R377). -/
def State.fixEntry (s : State) (q : Nat) : State :=
  ((s.portRead (.hbm (s.qAddr q) 0 0) 32).1.portRead (.hbm (s.qAddr q + 32) 0 0) 32).1

/-- RIDX of queue q, written in part of its sector (21 R377). -/
def State.setRidx (s : State) (q v : Nat) : State :=
  let t := s.afterRead (.hbm (s.qAddr q + 0x18) 0 0) 4
  { t with hbm := s.hbm.write (s.qAddr q + 0x18) (natToBytes 4 v) }
/-- HALT of queue q set. -/
def State.setHalt (s : State) (q : Nat) : State :=
  let a := s.qAddr q + 0x1C
  { s.afterRead (.hbm a 0 0) 1 with hbm := s.hbm.write a [Mem.byte s.hbm a ||| 1] }

/-- The queues whose table entries name a job; an entry that cannot be read names none (21 R421). -/
def State.queuesOf (s : State) (job : Nat) : List Nat :=
  let lo := s.qAddr 0
  let at_ := s.hbm.filter (fun e => lo ≤ e.1 && decide (e.1 < lo + 64 * 65536))
  (at_.foldl (fun acc e => ninsert ((e.1 - lo) / 64) acc) []).filter (fun q =>
    let sec := sectorOf s (s.qAddr q)
    !sec.poison && sec.soft != 2 && s.hbm.nat (s.qAddr q + 10) 2 == job)

/-! Queues of tasks: where a packet's work comes from. -/

/-- The queue and packet number that a task's chain began with. -/
def State.packetOf (s : State) (t : Task) : Option (Nat × Nat) :=
  match t.origin with
  | .packet q i => some (q, i)
  | .node g _ | .tile g _ _ => (s.graphs.find? (·.id == g)).map (fun x => (x.queue, x.index))
  | .launch _ _ _ _ => none

end Sys2Proof.Machine
end

