-- ==== Sys2Proof/Machine/Control.lean ====
section
/-! DEFINITION. The B slot: branches, loops, waits, fences, recovery regions, launches and ends, traps and seal requests (08 R161 to R173,
14 R286, 22 R390 to R393). -/

namespace Sys2Proof.Machine
open Sys2Proof

/-! Branches (08 R161). -/

/-- The next bundle stands at `t`, after `gap` empty cycles. -/
def State.jump (s : State) (t gap : Nat) : State := { s with ctx := { s.ctx with npc := some t, gap := gap } }

/-- A branch target: a multiple of 4 below TEXTLEN (20 Table 20.4). -/
def State.target (s : State) (t : Int) : R Nat :=
  if t % 4 = 0 ∧ 0 ≤ t ∧ t < s.cur.textLen then .ok t.toNat else .error (.target, BitVec.ofInt 64 t)
def State.relative (s : State) (off : BitVec 16) : Int := s.ctx.pc + 4 * off.toInt
def State.nextPc (s : State) : Nat := s.ctx.pc + s.ctx.len
def State.pushRet (s : State) : R State :=
  if 8 ≤ s.cur.rstack.length then .error (.retstack, word64 s.cur.rstack.length)
  else .ok (s.modCur (fun k => { k with rstack := s.nextPc % 0x10000 :: k.rstack }))

def execBr (g : Guard) (off : BitVec 16) (s : State) : Out :=
  s.guarded (.br g off) g (do
    let t ← s.target (s.relative off)
    .ok (s.jump t 1))
def execBri (g : Guard) (a : SSrc) (s : State) : Out :=
  s.guarded (.bri g a) g (do
    let t ← s.target (s.rdS 1 a).toNat
    .ok (s.jump t 1))
def execCall (g : Guard) (off : BitVec 16) (s : State) : Out :=
  s.guarded (.call g off) g (do
    let t ← s.target (s.relative off)
    let u ← s.pushRet
    .ok (u.jump t 1))
def execCalli (g : Guard) (a : SSrc) (s : State) : Out :=
  s.guarded (.calli g a) g (do
    let t ← s.target (s.rdS 1 a).toNat
    let u ← s.pushRet
    .ok (u.jump t 1))
def execRet (g : Guard) (s : State) : Out :=
  s.guarded (.ret g) g (match s.cur.rstack with
    | [] => .error (.retstack, 0)
    | t :: r => .ok ((s.modCur (fun k => { k with rstack := r })).jump t 1))

/-! Loops (08 R162, 03 R52). Table 20.4 tests the target of a LOOP whose guard holds, taken or not (20 R365; log 75). -/

/-- LCNT after the bundle, as a result of slot 7. -/
def State.setLcnt (s : State) (v : Int) : State := s.result 1 (.special 0x014) (BitVec.ofNat 2048 (wrapInt 32 v))

def execLoop (g : Guard) (off : BitVec 16) (s : State) : Out :=
  let old := s.src.lcnt.toInt
  s.guarded (.loop g off) g (do
    let t ← s.target (s.relative off)
    .ok (if 0 < old then (s.setLcnt (old - 1)).jump t 0 else s.setLcnt 0))

def execLoopR (g : Guard) (off : BitVec 16) (epi : BitVec 2) (s : State) : Out :=
  let old := s.src.lcnt.toInt
  s.guarded (.loopR g off epi) g (do
    let t ← s.target (s.relative off)
    if -(epi.toNat : Int) < old then
      let s1 := (s.setLcnt (old - 1)).jump t 0
      let s2 := (((s1.resultP 1 4 (s.src.preg 3)).resultP 1 3 (s.src.preg 2)).resultP 1 2 (s.src.preg 1)).resultP 1 1
        (allOnes (decide (0 < old)))
      .ok (if s.src.rsize = 0 then s2
        else s2.result 1 (.special loopRrb) (BitVec.ofNat 2048 ((s.src.rrb + s.src.rsize - 1) % s.src.rsize)))
    else .ok (s.setLcnt 0))

/-! Waits, delays, fences: the bundle was held until the condition held, so that issuing is the acquire (08 R163 to R165, 06 R126 to
R131). -/

def execWait (g : Guard) (fc : FCond) (f : FReg) (v : FOperand) (s : State) : Out := s.guarded (.wait g fc f v) g (.ok s)
def execWaitany (g : Guard) (fc : FCond) (f : FReg) (nM1 : BitVec 3) (v : FOperand) (s : State) : Out :=
  s.guarded (.waitany g fc f nM1 v) g (.ok s)
def execDelay (g : Guard) (n : BitVec 16) (s : State) : Out :=
  s.guarded (.delay g n) g (.ok { s with ctx := { s.ctx with gap := n.toNat } })
def execFence (g : Guard) (sc : Scope) (s : State) : Out := s.guarded (.fence g sc) g (.ok s)
def execFenceQueue (g : Guard) (q : Queue) (s : State) : Out := s.guarded (.fenceQueue g q) g (.ok s)
def execDrain (g : Guard) (sc : Scope) (s : State) : Out := s.guarded (.drain g sc) g (.ok s)
def execQfence (g : Guard) (qs : BitVec 4) (s : State) : Out := s.guarded (.qfence g qs) g (.ok s)

/-! Recovery regions (08 R166, R167, 22 R390 to R393). -/

/-- The frame of the state as the bundle reads it. -/
def State.frame (s : State) (limit : Nat) : Frame :=
  let k := s.cur
  { s := s.src.s, sPoison := s.src.sPoison, p := s.src.p, lcnt := s.src.lcnt, dom := k.dom, allot := s.src.allot, rbase := s.src.rbase, rsize := s.src.rsize
    rrb := s.src.rrb, phase := k.phase, rstack := k.rstack, srg := s.ctx.srg, dq := s.ctx.dq, dqRetained := s.ctx.dqRetained
    chans := s.src.chans, restart := s.nextPc, limit := limit, iss := k.issued }

def execRgnBegin (g : Guard) (limit : BitVec 4) (s : State) : Out :=
  s.guarded (.rgnBegin g limit) g (
    if 4 ≤ s.cur.rgd then .error (.region, word64 s.cur.rgd)
    else .ok (s.modCur (fun k => { k with rgd := k.rgd + 1, frames := s.frame limit.toNat :: k.frames })))

/-- Bytes kept at the innermost level. -/
def Frame.kept (f : Frame) : Nat := (f.keeps.map (fun r => r.2.1)).foldl (· + ·) 0

/-- The windows of an L-slot load. -/
def execRgnKeep (g : Guard) (a b : SSrc) (s : State) : Out :=
  s.guarded (.rgnKeep g a b) g (do
    let k := s.cur
    let p := s.rdS 1 a
    let n := (s.rdS 2 b).toNat
    match k.frames with
    | [] => .error (.region, word64 k.rgd)
    | f :: _ => do
      raiseIf (n == 0 || decide (65536 < n) || decide (k.regions.getD (k.rgd - 1) 0 < f.kept + n) || windowOf p == some .pod) .region
        (word64 n)
      raiseIf (decide (64 ≤ f.keeps.length)) .region (word64 f.keeps.length)
      let pl ← checkPtr k s.src.limit lWindows p n 1
      let r := s.reach s.ctx.core pl
      let bad := match r with
        | .global va => firstBad (k.globalPieces va n false)
        | _ => none
      match bad with
      | some c => .error (c, p)
      | none => .ok (s.modCur (fun k => { k.flushWc with keep := some (p, n), keepWord := s.ctx.word, keepPc := s.ctx.pc, keepReady := s.clock, keepCost := 0, keepGot := [] })))

def execRgnEnd (g : Guard) (s : State) : Out :=
  s.guarded (.rgnEnd g) g (
    let k := s.cur
    if k.rgd = 0 then .error (.region, 0)
    else
      let l := k.rgd
      let k1 := { k with rgd := l - 1, frames := k.frames.drop 1 }
      .ok (s.setCur (if l = 1 then
          { k1 with cmq := k1.cmq ++ k1.hold.map (fun h => { h.2 with iss := k.issued }), hold := [], dqRetained := [] }
        else { k1 with hold := k1.hold.map (fun h => if h.1 = l then (l - 1, h.2) else h) })))

/-! Launching and ending (08 R168 to R171, 02 R32 to R35). -/

/-- What a LAUNCH does: its child enters PENDING, or it meets one of the conditions of Table 20.4. -/
def State.launchTask (s : State) (a : SSrc) (f : Option FReg) : R State := do
    let k := s.cur
    let c := s.ctx.core
    let depth := ((s.task k.task).map (·.depth)).getD k.depth
    raiseIf (k.rgd != 0) .region (word64 k.rgd)
    raiseIf (decide (8 ≤ depth)) .launchdepth 8
    let p := s.rdS 1 a
    let pl ← checkPtr k s.src.limit launchWindows p 256 256
    let va := pl.off
    match (firstBad (k.globalPieces va 256 false)).or ((s.launchFault c va).map (·.1)) with
    | some code => .error (code, p)
    | none =>
      let t : Task := { id := 0, creator := .launch c k.task k.seat (f.map (·.toNat)), job := k.job, world := k.world, depth := depth + 1
                        prio := ((s.task k.task).map (·.prio)).getD 0, gen := k.gen, desc := word64 va, lptr := p, lpc := s.ctx.pc, lword := s.ctx.word, fence := some (c, k.issued)
                        origin := ((s.task k.task).map (·.origin)).getD (.launch c k.task k.seat none)
                        ancestors := k.task :: ((s.task k.task).map (·.ancestors)).getD [] }
      let s1 := s.newTask t
      .ok ((s1.dropLaunch c).modCur (fun k =>
        match f with
        | some x => { k with children := k.children ++ [(s.serial, x.toNat)] }
        | none => k))

/-- LAUNCH; an event of its descriptor names what failed (18 R333, 20 Table 20.4). -/
def execLaunch (g : Guard) (a : SSrc) (f : Option FReg) (s : State) : Out :=
  let r := s.launchTask a f
  match s.on g, r with
  | true, .error (.hbmue, p) =>
    .next (s.splitAt s.ctx.slot (s.thisOp (.launch g a f) :: s.ctx.todo) .hbmue p s.ctx.word
      ((s.launchFault s.ctx.core (s.cur.vaOf p).toNat).map (·.2)))
  | _, _ => s.guarded (.launch g a f) g r

def execTrigger (g : Guard) (s : State) : Out :=
  s.guarded (.trigger g) g (do
    let k := s.cur
    raiseIf (k.rgd != 0) .region (word64 k.rgd)
    .ok (if k.triggered then s else s.modCur (fun k => { k with triggered := true, trigAt := some k.issued })))

def execTend (g : Guard) (s : State) : Out :=
  s.guarded (.tend g) g (do
    raiseIf (s.cur.rgd != 0) .region (word64 s.cur.rgd)
    .ok (s.modCur (fun k => { k with ended := true })))

def execYield (g : Guard) (s : State) : Out :=
  s.guarded (.yield g) g (.ok (if s.saveWanted s.ctx.core then s.modCur (fun k => { k.flushWc with saveAsked := true }) else s))

/-! Traps, breakpoints and seal requests (08 R172, 14 R286). -/

/-- The trap message after the bundle has committed; the seat waits for its reply. -/
def State.trapNow (s : State) (code : BitVec 8) (v : Word) : State :=
  (s.modCur (fun k => { k with stop := some .trap })).post s.ctx.core
    { gal := 0, slot := 0, core := 0, kind := .trap, code := .trap code, opSlot := 7, pc := s.ctx.pc, npc := s.nextPc, value := v
      word := s.ctx.word } 0

def execTrap (g : Guard) (code : BitVec 8) (a : SSrc) (s : State) : Out :=
  s.guarded (.trap g code a) g (.ok (s.trapNow code (s.rdS 1 a)))

/-- A seal request inside a region raises REGION (22 R392). -/
def State.sealTrap (s : State) (code : BitVec 8) (a : SSrc) : R State := do
  raiseIf (s.cur.rgd != 0) .region (word64 s.cur.rgd)
  .ok (s.trapNow code (s.rdS 1 a))

def execSealOpen (g : Guard) (a : SSrc) (s : State) : Out := s.guarded (.sealOpen g a) g (s.sealTrap 0xC0 a)
def execSealAdd (g : Guard) (a : SSrc) (s : State) : Out := s.guarded (.sealAdd g a) g (s.sealTrap 0xC1 a)
def execSealClose (g : Guard) (a : SSrc) (s : State) : Out := s.guarded (.sealClose g a) g (s.sealTrap 0xC2 a)

def execBkpt (g : Guard) (id : BitVec 8) (s : State) : Out :=
  s.guarded (.bkpt g id) g (.ok (
    match s.cur.debug with
    | 0 => s
    | 1 => { s with traces := s.traces ++ [(s.cur.identity, id.toNat, s.ctx.pc, s.cur.cyc)] }
    | _ => s.modCur (fun k => { k with debugHalt := true })))

end Sys2Proof.Machine
end

