-- ==== Sys2Proof/Machine/Holds.lean ====
section
/-! DEFINITION. What holds a bundle: waits on flags, channels, queues, tiles, results in flight, fences and drains, launches and ends
(02 R37, 06 R121, R126 to R131, 10 R200, 08 R163 to R170). -/

namespace Sys2Proof.Machine
open Sys2Proof

/-! Scopes (06 Table 6.2). -/

/-- GROUP of a job's logical module (15 R294). -/
def State.groupOfModule (s : State) (job m : Nat) : Nat := field (s.mapEntry job m) 18 13

/-- A seat of core c's own team stands in c's quad; one that is saved, and so on no core, counts by its position (01 R12, 06 R127;
log 72). -/
def State.sameQuad (s : State) (c seat : Nat) : Bool :=
  let k := s.core c
  match s.liveTask k.job k.taskid with
  | none => false
  | some t =>
    if t.saved.contains seat then seat % k.width / (k.width / 2) == k.seat % k.width / (k.width / 2)
    else match t.cores[seat]? with
      | some d => d / 4 == c / 4
      | none => false

/-- A destination on module m, or on the own one whatever the module map says, at physical gallery g, of team gallery t, with its target
seat: whether a scope of core c covers it (06 R130). -/
def State.scopeDest (s : State) (c : Nat) (sc : Scope) (here : Bool) (m g t : Nat) (pos : Option Nat) : Bool :=
  let k := s.core c
  let own := here || s.isOwnModule k.job m
  let same := own && t == k.ownTeamGal
  match sc with
  | .core => same && pos == some (k.seat % k.width)
  | .quad => same && (match pos with
      | some p => s.sameQuad c (k.width * t + p)
      | none => false)
  | .gallery => same
  | .hall => own && g / 16 == hallOf c
  | .chip => own
  | .group => own || s.groupOfModule k.job m == s.groupOfModule k.job (s.ownModule k.job)
  | .pod | .system => true

/-- The seats that a remote operation names: the one whose scratchpad it writes, and the one whose flag it changes (06 R130). DESIGN CHOICE
(log 72): a kind-0 PUTF or PUBW, which also writes a vault, lies whole in CORE or QUAD by its flag's seat. -/
def scopeSeats (p : Packet) : List Nat :=
  (if p.kind then [p.dataPos] else []) ++ (if flagType p.ty.toNat then [p.pos] else [])

/-- A packet's destination lies in a scope of core c: by its gallery, for CORE and QUAD by a seat that it names. -/
def State.scopePacket (s : State) (c : Nat) (sc : Scope) (p : Packet) : Bool :=
  let g := s.targetGal p (galOf c)
  s.scopeDest c sc (p.port == 37) p.dmod.toNat g p.gal none
    || (scopeSeats p).any (fun j => s.scopeDest c sc (p.port == 37) p.dmod.toNat g p.gal (some j))

/-! What is outstanding. -/

def Core.engineIdle (k : Core) (clock : Nat) : Bool :=
  match k.run with
  | none => true
  | some r => decide (r.endClock ≤ clock)
def Core.tstFlying (k : Core) : Bool := k.inflight.any (·.tst)
/-- Every MXQ entry has performed, register-form TSTs included (06 R129, R131). -/
def Core.mxqDone (k : Core) (clock : Nat) : Bool := k.mxq.isEmpty && k.engineIdle clock && !k.tstFlying
def Core.cpqDone (k : Core) : Bool := k.seq.cpq.isEmpty && k.seq.mode == .idle
/-- Remote operations of the seat, of its CMQ or of its sequencer, that have left and not performed: on their way, or held at their
destination for a seat that cannot receive yet (02 R38). A FETCH is none of them (15 R296). -/
def State.flights (s : State) (c : Nat) (sq : Bool) : List Packet :=
  (s.lateral.map (·.pkt) ++ (s.spill.map (·.2)).filter (fun p => decide (36 ≤ p.port))).filter (fun p => p.paired && (s.core c).owns sq p)
/-- A request has still to perform: it has not been answered, and it stands on the own module or has not reached the other one. Its
response need not have come back (06 R128, R130). -/
def State.unperformed (s : State) (c : Nat) (l : Landing) : Bool :=
  let mine (p : Packet) : Bool := p.isRequest && (s.core c).owns false p && p.tag == l.tag
  !l.arrived && !l.lost && l.left != 0 && (s.isOwnModule (s.core c).job (field l.req.ptr 51 40)
    || s.lateral.any (fun f => mine f.pkt) || s.queued.any (fun e => e.1 == c && mine e.2.2))
/-- A request of the kind given has still to perform. -/
def State.awaits (s : State) (c : Nat) (f : TimedReq → Bool) : Bool :=
  (s.core c).landing.any (fun e => match e.2 with
    | some l => f l.req && s.unperformed c l
    | none => false)
def TimedReq.isFaddb : TimedReq → Bool
  | .faddb _ _ _ => true
  | _ => false
def State.cmqDone (s : State) (c : Nat) : Bool :=
  (s.core c).cmq.isEmpty && (s.flights c false).isEmpty && !s.awaits c TimedReq.isFaddb
def Core.hxqDone (k : Core) : Bool := k.hxq.isEmpty && k.wc.isEmpty
def State.queueDone (s : State) (c : Nat) : Queue → Bool
  | .mxq => (s.core c).mxqDone s.clock
  | .cpq => (s.core c).cpqDone
  | .cmq => s.cmqDone c
  | .hxq => (s.core c).hxqDone

/-- An access that FENCE with a scope waits for has still to perform (06 R128). -/
def State.fenceWaits (s : State) (c : Nat) (sc : Scope) : Bool :=
  let k := s.core c
  ((s.sited c).pend ++ k.hxq.flatten ++ k.wc.flatten).any (scopePiece c sc) ||
    s.awaits c (fun r => match r with
      | .fetch p _ => s.scopeDest c sc false (field p 51 40) (((s.vaultWindow k.task (field p 38 32)).map (·.1)).getD (galOf c)) (field p 38 32)
          (if p.getLsbD 39 then some (field p 20 18) else none)
      | _ => false)

/-- A remote operation that DRAIN with a scope waits for has still to perform (06 R130). -/
def State.drainWaits (s : State) (c : Nat) (sc : Scope) : Bool :=
  ((s.core c).cmq.flatMap (·.pkts) ++ s.flights c false).any (s.scopePacket c sc) ||
    s.awaits c (fun r => match r with
      | .faddb p _ _ => s.scopeDest c sc false (field p 51 40) (((s.vaultWindow (s.core c).task (field p 38 32)).map (·.1)).getD (galOf c))
          (field p 38 32) (some (field p 20 18))
      | _ => false)

/-- The MXQ is empty and its last entry has performed; a register-form TST takes no entry (10 R207). -/
def Core.mxqEmpty (k : Core) (clock : Nat) : Bool := k.mxq.isEmpty && k.engineIdle clock

/-- The four conditions of TEND (02 R32, 08 R170). -/
def State.endWaits (s : State) (c : Nat) : Bool :=
  let k := s.core c
  !(k.mxqEmpty s.clock && k.cpqDone && s.cmqDone c && k.hxqDone && k.children.isEmpty)

/-- The frame's registers have a result or a landing on its way (22 R390). -/
def Core.frameBusy (k : Core) : Bool :=
  k.inflight.any (fun p => match p.dest with
    | .s _ | .p _ | .special _ => true
    | _ => false) ||
  k.landing.any (fun e => match e.2 with
    | some l => (match l.dest with
      | .s _ => true
      | _ => false)
    | none => false)
/-- A vector register has a result or a landing on its way (03 R54). -/
def Core.vecBusy (k : Core) : Bool :=
  k.inflight.any (fun p => match p.dest with
    | .v _ => true
    | _ => false) ||
  k.landing.any (fun e => match e.2 with
    | some l => (match l.dest with
      | .v _ => true
      | _ => false)
    | none => false)

/-! Queue room (06 R121). -/

/-- Operations that take a CMQ entry. -/
def entersCmq (s : State) : Instr → Bool
  | .send _ _ _ _ _ | .pubw _ _ _ | .advr _ _ _ | .put _ _ _ _ _ | .putf _ _ _ _ _ _ _ | .faddRemote _ _ _ | .fsetRemote _ _ _
  | .faddbRemote _ _ _ _ _ _ _ => true
  | .fsetM _ _ _ m _ => s.rdS 2 m != 0
  | _ => false

/-- Runs of bytes that an L-slot operation reaches through generic pointers, with its kind of host store; none for a read. -/
def State.genericRuns (s : State) (i : Instr) : List (Word × Nat) × Option HostKind :=
  match i with
  | .ldg _ sz _ _ a x _ _ => ([(s.rdS 1 a + s.src.sreg x.toNat, sz.bytes)], none)
  | .gath _ _ a vi _ _ => (match s.rdV 2 noStep vi with
    | .ok v => ((List.range 64).map (fun j => (laneAddr (s.rdS 1 a) v j, 4)), none)
    | .error _ => ([], none))
  | .stg _ sz hk _ a x => ([(s.rdS 1 a + s.src.sreg x.toNat, sz.bytes)], some hk)
  | .stNb _ ty _ a x _ _ => ([(s.rdS 1 a + s.src.sreg x.toNat, 8 * Fmt.width ty)], some .ordinary)
  | .scat _ _ a vi q => (match s.rdV 2 noStep vi with
    | .ok v => (((List.range 64).filter (fun j => (s.src.preg q.toNat).getLsbD j)).map (fun j => (laneAddr (s.rdS 1 a) v j, 4)), some .ordinary)
    | .error _ => ([], some .ordinary))
  | _ => ([], none)
/-- Pieces of those runs in global memory. -/
def State.genericPieces (s : State) (l : List (Word × Nat)) (hk : HostKind) : List Piece :=
  l.flatMap (fun e => match (windowOf e.1).bind (fun w => placeOf s.cur s.src.limit w e.1 e.2) with
    | some (.va a) => (s.storePieces { ptr := e.1, to_ := .global a, data := List.replicate e.2 (0, 0xFF) } hk).map (s.site s.ctx.core)
    | _ => [])
/-- Entries that an L-slot operation brings to HXQ: its own, and combining buffers posted with it (06 R121, R132; log 70). -/
def State.hxqNeed (s : State) (i : Instr) : Nat :=
  let r := s.genericRuns i
  let ps := s.genericPieces r.1 (r.2.getD .ordinary)
  if r.2 = some .writeCombining then ((ps.filter (·.isHost)).foldl Core.combine s.cur).hxq.length - s.cur.hxq.length
  else ((s.cur.postTouched ps).hxq.length - s.cur.hxq.length) + (if r.2.isSome ∧ ps.any (·.isHost) then 1 else 0)
/-- They do not fit: the bundle waits. Into an empty HXQ they fit, being 13 at most: eight open buffers, and five lines of a store. -/
def State.hxqWaits (s : State) (i : Instr) : Bool :=
  !s.cur.hxq.isEmpty &&
    (let n := s.hxqNeed i
     n != 0 && decide (hxqSize < s.cur.hxq.length + n))

/-- Tiles that an M-slot operation names (10 R200). -/
def tilesOf : Instr → List Nat
  | .mma _ _ d _ _ | .mmaz _ _ d _ _ | .tld _ _ d _ | .tzero _ d | .tscale _ _ d _ => [d.toNat]
  | .tstMemory _ _ _ a | .tstRegister _ _ _ a => [a.toNat]
  | .tadd _ _ d b => [d.toNat, b.toNat]
  | _ => []

/-- The condition of an operation that its bundle waits for, on the flags that R60 shows it. -/
def State.mustWait (s : State) (fl : Sparse W32) (i : Instr) : Bool :=
  let k := s.cur
  let c := s.ctx.core
  if !s.on (guardOf i) then false
  else if k.rgd = 0 ∧ entersCmq s i ∧ 64 ≤ k.cmq.length then true
  else if (tilesOf i).any (fun t => k.tileBusy.contains t) then true
  else match i with
    | .wait _ _ _ _ | .waitany _ _ _ _ _ => !s.waitHolds fl i
    | .wfree _ ch n =>
      let e := s.chan ch
      e.usable k s.src.limit false (n.toNat + 1) && decide ((BitVec.ofNat 32 e.depth - (e.count - flagOf fl e.eflag)).toNat < n.toNat + 1)
    | .recv _ ch _ n _ =>
      let e := s.chan ch
      e.usable k s.src.limit true (n.toNat + 1) && decide ((flagOf fl e.fflag - e.count).toNat < n.toNat + 1)
    | .fetch _ _ _ _ _ _ _ _ | .faddbRemote _ _ _ _ _ _ _ => (s.freeTag c).isNone
    | .stg _ _ _ _ _ _ | .stNb _ _ _ _ _ _ _ | .scat _ _ _ _ _ | .ldg _ _ _ _ _ _ _ _ | .gath _ _ _ _ _ _ => s.hxqWaits i
    | .tstRegister _ _ _ _ => !(k.mxq.isEmpty && k.engineIdle s.clock) || k.tstFlying
    | .srwr _ n _ => n.toNat == 0x10 && k.vecBusy
    | .rgnBegin _ _ => k.frameBusy
    | .launch _ _ _ => !s.launchReady c
    | .tend _ => s.endWaits c
    | .fence _ sc => s.fenceWaits c sc
    | .fenceQueue _ q => !s.queueDone c q
    | .drain _ sc => s.drainWaits c sc
    | .qfence _ qs => [(0, Queue.mxq), (1, .cpq), (2, .cmq), (3, .hxq)].any (fun e => qs.getLsbD e.1 && !s.queueDone c e.2)
    | _ => false

/-- Operations that empty every combining buffer (06 R132). -/
def emptiesBuffers : Instr → Bool
  | .fence _ sc => sc == .system
  | .fenceQueue _ q => q == .hxq
  | .qfence _ qs => qs.getLsbD 3
  | .tend _ => true
  | _ => false

end Sys2Proof.Machine
end

