-- ==== Sys2Proof/Machine/Issue.lean ====
section
/-! DEFINITION. Presenting and issuing a bundle: header and word checks, sticky and repeated operations, waits, poison and corrections,
slots in order, the bundle's end, and the replay of a split bundle (02 R37, 03 R44, 07 R143 to R148, 19 R341 to R349, 20 R360 to R367). -/

namespace Sys2Proof.Machine
open Sys2Proof

/-! Reading the bundle. -/

/-- The header at the seat's PC (07 R136). -/
def Core.headerWord (k : Core) : W32 := BitVec.ofNat 32 (k.imem.nat k.pc 4)
/-- The word of a present slot: words follow the header in slot order. -/
def Core.slotWord (k : Core) (h : Header) (slot : Nat) : Word :=
  k.imem.word (k.pc + 4 + 8 * ((List.range slot).filter (fun j => h.present.getLsbD j)).length)

/-- Table 20.1, in its order; TENDSHAPE is its slot's. -/
def Core.headerCode (k : Core) : Option Code :=
  let h := Header.ofWord k.headerWord
  if !h.fieldsOk then some .header
  else if (List.range 8).any (fun n => h.sticky.getLsbD n && !(sget {} k.sticky n).sv) then some .header
  else if h.repreg && !k.rf.prcv then some .repcount
  else if k.textLen < k.pc + h.bytes then some .header
  else none

/-- The repeat count that a header asks for (07 R143, R144). -/
def Core.repeatCount (k : Core) (h : Header) : Nat := if h.repreg then k.rf.prc else h.rep.toNat + 1

/-- The context of the bundle at the seat's PC, its sources those of the present cycle; latches that earlier repetitions wrote count as the
bundle's (07 R148). -/
def State.openCtx (s : State) (c rep n : Nat) : State :=
  let k := s.core c
  { s with ctx := { active := true, core := c, hdr := k.headerWord, pc := k.pc, len := (Header.ofWord k.headerWord).bytes, rep := rep
                    count := n, cyc := k.sched, src := k.rf, latched := if rep = 0 then [] else k.latched
                    srg := k.srg, dq := k.dq, dqRetained := k.dqRetained } }

/-- A bundle takes the pending count that it read, which is then invalid (07 R144). -/
def State.takeCount (s : State) : State :=
  if (Header.ofWord s.ctx.hdr).repreg && s.ctx.rep == 0 then s.modCur (fun k => { k with rf := { k.rf with prcv := false } }) else s
/-- A repetition issues: REPLEFT says how many follow it, and the first takes the count (03 R49, 07 R143, R144). -/
def State.startRep (s : State) : State := s.takeCount.modCur (fun k => { k with repleft := s.ctx.count - 1 - s.ctx.rep })

/-- The context moved to one slot operation, with those behind it. -/
def State.enterSlot (s : State) (op : SlotOp) (rest : List SlotOp) : State :=
  { s with ctx := { s.ctx with slot := op.slot, word := op.word, step := op.step, sticky := op.sticky, sa := op.sa, todo := rest } }

/-! Presentation events (20 R360, R363 to R365). -/

/-- A held use of an invalid latch, or of one that holds the other class. -/
def State.badHold (s : State) (src : Src) : Bool :=
  match src with
  | .s f .held => !(s.latch f).valid || (s.latch f).vec
  | .v f _ .held => !(s.latch f).valid || !(s.latch f).vec
  | _ => false

/-- The feature an operation needs and has not been accepted (20 Table 20.4). -/
def State.missingFeature (s : State) (i : Instr) : Option Nat :=
  let need (n : Nat) : Option Nat := if s.feature n then none else some n
  let chan (ch : ChReg) : Option Nat := if 2 ≤ (s.chan ch).cls then need 2 else none
  match i with
  | .rgnBegin _ _ | .rgnKeep _ _ _ | .rgnEnd _ => need 4
  | .sealOpen _ _ | .sealAdd _ _ | .sealClose _ _ => need 5
  | .vcvt _ _ _ (.plain _ _ m _ _) => if srMode m then need 3 else none
  | .vcvt _ _ _ (.block _ m _ _) => if srMode m then need 3 else none
  | .send _ _ ch _ _ => chan ch
  | .pubw _ ch _ => chan ch
  | .radd _ ch _ _ _ => chan ch
  | _ => none

/-- SRRD and SRWR names that Table 3.4 does not give (20 R364). -/
def badSpecial : Instr → Bool
  | .srrd _ _ n => !specialListed n.toNat
  | .srwr _ n _ => !specialWritable n.toNat
  | _ => false

/-- The channel conditions of a WFREE or RECV whose guard holds. -/
def State.badWaitChannel (s : State) (i : Instr) : Bool :=
  match i with
  | .wfree g ch n => s.on g && !(s.chan ch).usable s.cur s.src.limit false (n.toNat + 1)
  | .recv g ch _ n _ => s.on g && !(s.chan ch).usable s.cur s.src.limit true (n.toNat + 1)
  | _ => false
def channelOf : Instr → Nat
  | .wfree _ ch _ | .recv _ ch _ _ _ => ch.toNat
  | _ => 0

/-- TEND alone in its bundle, once (20 Table 20.1). -/
def tendMisshapen (h : Header) (i : Instr) : Bool :=
  match i with
  | .tend _ => h.present != 0x80 || h.rep != 0 || h.repreg
  | _ => false

/-- The event that the presentation of a decoded operation finds, in the order of its classes. -/
def State.presentEvent (s : State) (h : Header) (i : Instr) : Option (Code × Word) :=
  match i with
  | .undefopc _ _ => some (.undefopc, 0)
  | _ =>
    if (sources i).any s.badHold then some (.hold, 0)
    else if badSpecial i then some (.specreg, 0)
    else if tendMisshapen h i then some (.tendshape, 0)
    else match s.missingFeature i with
      | some n => some (.feature, word64 n)
      | none => if s.badWaitChannel i then some (.channel, word64 (channelOf i)) else none

/-! The operations of a repetition (07 R143, R145). -/

/-- Places in MOD, S2 and D of the codes that an operand table may reserve: conditions, formats, scopes, rounding modes, sizes, kinds. -/
def codePlaces : List (BitVec 16 × BitVec 10 × BitVec 10) :=
  [(0, 0, 0), (7, 0, 0), (0xF, 0, 0), (0xF0, 0, 0), (0xFF, 0, 0), (0x700, 0, 0), (0x70F, 0, 0), (0x7F0, 0, 0), (0x7FF, 0, 0),
   (0, 0x1C0, 0), (0x18, 0x1C0, 0), (0, 7, 0), (0x1F, 0, 0), (0, 0, 0xF8), (0x1F, 0, 0xF8)]
/-- The operation that a word's opcode and fields name, whatever its checks say. Where a code is reserved, its sources are those of the same
word with code 0 there (DEDUCED, log 21). -/
def rowIns (slot : Nat) (w : Word) : Option Instr :=
  let f := Fields.ofWord w
  codePlaces.findSome? (fun m =>
    (rowOf slot { f with mod := f.mod &&& ~~~m.1, s2 := f.s2 &&& ~~~m.2.1, d := f.d &&& ~~~m.2.2 }).bind (·.ins))
/-- A slot word decoded: an operation, or one that carries its encoding event; such a word's sources are still read (20 R360). -/
def decodeOp (slot : Nat) (a0 : Option Word) (w : Word) : SlotOp :=
  match decodeSlot slot a0 w with
  | .ok i => { slot := slot, ins := i, word := w }
  | .error e => { slot := slot, ins := (rowIns slot w).getD (.undefopc (BitVec.ofNat 3 slot) w), word := w, event := some (EncFail.code e, 0) }

/-- The next issue of a slot's sticky state. -/
def StickyState.next (y : StickyState) (slot : Nat) : SlotOp :=
  { decodeOp slot none y.sw with step := y.so + 1, sticky := true, sa := y.sa }

/-- The operation of one slot in repetition `rep`; the B slot's in the last one, or in all where `all` is set. -/
def Core.slotOp (k : Core) (h : Header) (rep n : Nat) (all : Bool) (slot : Nat) : Option SlotOp :=
  let y := sget {} k.sticky slot
  if h.present.getLsbD slot then
    if slot = 7 ∧ rep + 1 ≠ n ∧ all = false then none
    else
      let a0 := if h.present.getLsbD 0 then some (k.slotWord h 0) else none
      let op := decodeOp slot a0 (k.slotWord h slot)
      if 0 < rep ∧ (stickyOf op.ins).k ∧ op.event = none then some (y.next slot) else some op
  else if h.sticky.getLsbD slot then some (y.next slot)
  else none
def Core.opsAt (k : Core) (h : Header) (rep n : Nat) (all : Bool) : List SlotOp :=
  if h.present = 0 ∧ h.sticky = 0 then [{ slot := 0, ins := .emptyBundle }]
  else (List.range 8).filterMap (k.slotOp h rep n all)

/-- Each operation with the event that its presentation finds; a sticky re-issue has passed its own (R360). -/
def State.checkOps (s : State) (h : Header) (ops : List SlotOp) : List SlotOp :=
  ops.map (fun op => if op.event.isSome || op.sticky then op else { op with event := (s.enterSlot op []).presentEvent h op.ins })

/-! Poison and memory errors (19 R349 to R352). -/

/-- Sources of an operation that it reads now: a sticky issue took its address sources before. -/
def liveSources (op : SlotOp) : List Src :=
  if op.sticky then (sources op.ins).filter (fun x => match x with
    | .sr _ => false
    | .s f _ => f != 1 || !(op.slot == 5 || op.slot == 6)
    | _ => true)
  else sources op.ins

/-- Physical vector registers that a source reads. -/
def State.physOf (s : State) : Src → List Nat
  | .v _ st (.reg n) => one (vphys s.src (s.stepped st n))
  | .v _ _ (.latch n) => one (vphys s.src n.toNat)
  | .vr st n m => (List.range m).flatMap (fun (j : Nat) => one (vphys s.src (s.stepped st n + j)))
  | _ => []
where
  one (r : R Nat) : List Nat := match r with
    | .ok i => [i]
    | .error _ => []

def State.scalarPoison (s : State) : Src → Bool
  | .s _ (.reg n) | .s _ (.latch n) | .sr n => s.src.sPoison.contains n.toNat
  | .tile n => s.cur.tilePoisoned n
  | _ => false

/-- The second register of an EXACT RADD, a source whatever its guard holds (11 R224, 19 R352). -/
def State.exactPair (s : State) (i : Instr) : List Nat :=
  match i with
  | .radd _ ch _ (.reg n) _ | .radd _ ch _ (.latch n) _ =>
    if (s.chan ch).cls == 2 then (match vphys s.src (n.toNat + 1) with
      | .ok j => [j]
      | .error _ => []) else []
  | _ => []

/-- The bytes that an operation reads through the core port at an address, as homes. -/
def State.coreReads (s : State) (i : Instr) : List (Home × Nat) :=
  if !s.on (guardOf i) then []
  else
    let c := s.ctx.core
    let v := s.ownVault c
    let at_ (p : Word) (n align : Nat) : List (Home × Nat) :=
      match s.follow lWindows p n align with
      | .ok (.near off) => [(.near c off, n)]
      | .ok (.own g off) => [(.vault g off, n)]
      | _ => []
    match i with
    | .ld _ st sz _ _ a disp =>
      let off := s.rawOff st a disp sz.bytes
      if off + sz.bytes ≤ s.src.limit then [(.near c off, sz.bytes)] else []
    | .ldv _ st sz _ _ a disp =>
      let off := s.rawOff st a disp sz.bytes
      if off + sz.bytes ≤ s.cur.vaultLimit then [(.vault v.1 (v.2 + off), sz.bytes)] else []
    | .ldg _ sz _ _ a x _ _ => at_ (s.rdS 1 a + s.src.sreg x.toNat) sz.bytes sz.alignment
    | .gath _ _ a vi _ _ => (match s.rdV 2 noStep vi with
      | .ok x => (List.range 64).flatMap (fun j => at_ (laneAddr (s.rdS 1 a) x j) 4 4)
      | .error _ => [])
    | .recv _ ch _ _ (some _) => at_ (s.chan ch).slotPtr 256 1
    | .radd _ ch _ _ off => at_ ((s.chan ch).slotPtr + word64 ((s.chan ch).unit * off.toNat)) (s.chan ch).unit 1
    | _ => []

/-- Bit errors of words at a home, as the bundle finds them: near SRAM as it reads it, a vault as it stands. -/
def State.softAt (s : State) (h : Home) (n kind : Nat) : List Nat :=
  match h with
  | .near _ off => softWords s.src.soft off n kind
  | .vault g off => softWords (s.gal g).soft off n kind
  | _ => []

/-- Everything an operation reads through the core port: its vector registers and its memory. -/
def State.portWords (s : State) (op : SlotOp) : List (Home × Nat) :=
  ((liveSources op).flatMap s.physOf ++ s.exactPair op.ins).map (fun i => (Home.near s.ctx.core (vbase i), 256)) ++ s.coreReads op.ins

/-- A RADD takes the words that it reads from memory as sources. -/
def State.raddPoison (s : State) (i : Instr) : Bool :=
  match i with
  | .radd g ch _ _ off =>
    s.on g && (match s.slotRead ((s.chan ch).slotPtr + word64 ((s.chan ch).unit * off.toNat)) (s.chan ch).unit with
      | .ok r => r.2.1 != 0
      | .error _ => false)
  | _ => false

/-- The words of the bundle in progress in instruction memory. -/
def State.fetches (s : State) (arr place : Nat) : Bool := arr == 2 && decide (s.ctx.pc < 4 * place + 4 ∧ 4 * place < s.ctx.pc + s.ctx.len)

/-- Uncorrectable errors that an operation finds in the other arrays: in the words of its bundle, and in a tile that it reads (18 R335; log 14). -/
def State.brokenReads (s : State) (op : SlotOp) : List (Nat × Nat) :=
  s.cur.broken.filter (fun e => s.fetches e.1 e.2 || (e.1 == 1 && (liveSources op).any (fun x => match x with
    | .tile n => e.2 / 64 == n
    | _ => false)))

/-- What an operation consumes: POISON, or SRAMUE (R352). -/
def State.consumes (s : State) (op : SlotOp) : Option Code :=
  if (liveSources op).any s.scalarPoison
      || ((liveSources op).flatMap s.physOf ++ s.exactPair op.ins).any (fun i => s.src.vpoison i != 0)
      || s.raddPoison op.ins then some .poison
  else if (s.portWords op).any (fun e => !(s.softAt e.1 e.2 2).isEmpty) || !(s.brokenReads op).isEmpty then some .sramue
  else none

/-- The lowest consuming operation of those that issue. -/
def State.firstConsumer (s : State) : List SlotOp → Option (SlotOp × Code)
  | [] => none
  | op :: rest =>
    match (s.enterSlot op rest).consumes op with
    | some c => some (op, c)
    | none => s.firstConsumer rest

/-- Single errors that the operations of a bundle find: each is corrected and counted, and one CORRECT freeze of 12 cy follows (R349). -/
def State.correctReads (s : State) (ops : List SlotOp) (look : Home → Bool := fun _ => true) : State :=
  let found := ops.flatMap (fun op => (((s.enterSlot op []).portWords op).filter (fun e => look e.1)).flatMap (fun e =>
    ((s.enterSlot op []).softAt e.1 e.2 1).map (fun w => (e.1, w))))
  let once := found.foldl (fun acc e => if acc.any (fun x => unitOf x.1 x.2 == unitOf e.1 e.2 && x.2 == e.2) then acc else acc ++ [e]) []
  if once.isEmpty then s
  else
    let t := once.foldl (fun a e => (a.clearSoft e.1 e.2).countCorrected (unitOf e.1 e.2) (some s.ctx.core)) s
    t.modCur (·.startCorrect s.clock)

/-- The predicate that guards a slot operation: PRED of its word (07 R138). -/
def SlotOp.pred (op : SlotOp) : Nat :=
  match op.ins with
  | .undefopc _ _ | .headerEvent | .emptyBundle => 0
  | _ => (Fields.ofWord op.word).pred.toNat

/-- What an operation reads of the core's arrays but near SRAM (18 R422): registers, predicates and flags, constants, a tile, the queue. -/
def State.arrayReads (s : State) (op : SlotOp) (arr place : Nat) : Bool :=
  let on := s.on (guardOf op.ins)
  match arr with
  | 1 => (liveSources op).any (fun x => match x with
    | .tile n => place / 64 == n
    | _ => false)
  | 3 => (match op.ins with
    | .ldc _ sz _ _ a disp =>
      let off := s.rawOff noStep a disp sz.bytes
      on && decide (off < 4 * place + 4 ∧ 4 * place < off + sz.bytes)
    | _ => false)
  | 4 =>
    place == 64 + op.pred || (liveSources op).any (fun x => match x with
      | .s _ (.reg n) | .s _ (.latch n) | .sr n => place == n.toNat
      | _ => false) || (predSources op.ins).any (fun p => place == 64 + p.toNat)
      || (on && (match op.ins with
        | .wait _ _ f _ | .fadd _ f _ | .faddb _ _ f _ _ => place == 256 + f.toNat
        | .waitany _ _ f n _ => decide (256 + f.toNat ≤ place ∧ place ≤ 256 + f.toNat + n.toNat)
        | .wfree _ ch _ => place == 256 + (s.chan ch).eflag
        | .recv _ ch _ _ _ => place == 256 + (s.chan ch).fflag
        | _ => false))
  | 6 => (match op.ins with
    | .drq g _ _ fl _ => s.guard g != 0 && decide (place < (if fl then min s.cur.dq.length 64 else if 64 ≤ s.cur.dq.length then 64 else 0))
    | _ => false)
  | _ => false

/-- The flag that a local FSET writes whole. -/
def State.setsFlag (s : State) (op : SlotOp) (arr place : Nat) : Bool :=
  match op.ins with
  | .fset g f _ => s.on g && arr == 4 && place == 256 + f.toNat
  | _ => false

/-- Single errors that a bundle finds in the core's other arrays: in its own words and, once it issues, in what its operations read. -/
def State.correctArrays (s : State) (ops : List SlotOp) : State :=
  if s.cur.weak.isEmpty then s
  else (s.correctWeak s.ctx.core (fun arr place => s.fetches arr place || ops.any (fun op => (s.enterSlot op []).arrayReads op arr place))).modCur
    (·.renew (fun arr place => ops.any (fun op => s.setsFlag op arr place)))

/-- Units whose uncorrectable errors an operation finds, one for each word (18 R422). -/
def State.badUnits (s : State) (op : SlotOp) : List Nat :=
  (s.portWords op).flatMap (fun e => (s.softAt e.1 e.2 2).map (unitOf e.1)) ++ (s.brokenReads op).map (fun e => nearUnit s.ctx.core + e.1)

/-- The bundle is cancelled whole: every slot goes to the replay registers (R352). -/
def State.cancel (s : State) (ops : List SlotOp) (op : SlotOp) (code : Code) : State :=
  let us := if code = .sramue then (s.enterSlot op []).badUnits op else []
  let s1 := s.splitBare 0 ops .split 3
  let s2 := us.foldl (fun t u => { t with sramue := sput u (sget 0 t.sramue u + 1) t.sramue }) s1
  s2.post s.ctx.core { gal := 0, slot := 0, core := 0, kind := .split, code := code, opSlot := op.slot, pc := s.ctx.pc
                       npc := s.ctx.pc + s.ctx.len, word := op.word, unit := us.headD 0 }

/-! The slots in order. -/

/-- Latches that an operation writes: index and content, the value that it uses, which for the address of a sticky re-issue is the captured
one (07 R145, R147). DESIGN CHOICE (log 9): a V- or X-slot operation latches also where its
predicate is zero in every lane, because it issues and reads its sources; a scalar-guarded one whose guard is false writes none. -/
def State.newLatches (s : State) (op : SlotOp) : List (Nat × Latch) :=
  if !s.on (guardOf op.ins) then []
  else (sources op.ins).filterMap (fun x => match x with
    | .s f (.latch n) =>
      let v := if op.sticky ∧ f = 1 ∧ (op.slot = 5 ∨ op.slot = 6) then op.sa.headD 0 else s.src.sreg n.toNat
      some (3 * op.slot + f, { valid := true, vec := false, value := v.setWidth 2048 })
    | .v f _ (.latch n) => (match vphys s.src n.toNat with
      | .ok i => some (3 * op.slot + f, { valid := true, vec := true, value := s.src.vreg i })
      | .error _ => none)
    | _ => none)

/-- Sticky state after an issue (07 R145). DESIGN CHOICE (log 90): SO counts on without a bound, since R145 gives it no width. -/
def State.newSticky (s : State) (op : SlotOp) (y : StickyState) : StickyState :=
  if op.sticky then { y with so := op.step }
  else if (stickyOf op.ins).k then { sv := true, sw := op.word, so := 0, sa := addressSrcs s.src s.latch op.ins }
  else { y with sv := false }

/-- A slot operation has issued: its hold and sticky state follow it. -/
def State.leaveSlot (s : State) (op : SlotOp) : State :=
  let ls := s.newLatches op
  let s1 := s.modCur (fun k => { k with
    rf := { k.rf with latches := ls.foldl (fun m e => sset {} e.1 e.2 m) k.rf.latches }
    sticky := if 2 ≤ op.slot ∧ op.slot ≤ 6 then sset {} op.slot (s.newSticky op (sget {} k.sticky op.slot)) k.sticky else k.sticky })
  { s1 with ctx := { s1.ctx with latched := s1.ctx.latched ++ ls.map (·.1) } }

/-- The operations of a bundle in slot order, up to the one that splits it. `ex` is the meaning of an instruction. -/
def runOps (ex : Instr → State → Out) : List SlotOp → State → Out
  | [], s => .next s
  | op :: rest, s =>
    let s1 := s.enterSlot op rest
    match op.event with
    | some e => .next (s1.splitAt op.slot (op :: rest) e.1 e.2 op.word)
    | none =>
      match ex op.ins s1 with
      | .next t => if t.ctx.split.isSome then .next t else runOps ex rest (t.leaveSlot op)
      | .fault f => .fault f
      | .refused r => .refused r

/-! The bundle's end. -/

/-- Stores of an ended seat perform, in their order; a write that fails leaves one record (21 R376; logs 4 and 74). -/
def State.endWrites (s : State) (c : Nat) : State :=
  let k := s.core c
  ((k.pend.filter (·.write)).foldl (fun (acc : State × List Nat) p => match p.home with
    | some h => (match writeHome acc.1 h p.data p.poison with
      | .ok u => (u, acc.2)
      | .error code =>
        if p.told || acc.2.contains p.iss then acc
        else (acc.1.record { seq := 0, code := code, src := 2, slot := 5, pcn := c, pc := p.pc, mpc := k.seq.mpc, identity := k.identity
                             addr := failAddr code h, value := p.ptr, cyc := k.cyc }, p.iss :: acc.2))
    | none => acc) (s, [])).1

/-- After the last slot: latches released, the next repetition or the next bundle, and the end of a seat (07 R143, R144, R148, 08 R161). -/
def State.endBundle (s : State) : State :=
  let x := s.ctx
  let noted (k : Core) : Core := { k with
    begun := true, recent := (k.issued, s.clock) :: k.recent.take 2
    recentPcs := (k.issued, x.pc, x.npc.getD (x.pc + x.len)) :: k.recentPcs.take 2
    released := if k.lock && !x.under.isEmpty then
      (k.issued, (s.ownVault x.core).1, x.under.reverse) :: k.released.filter (fun e => k.recent.any (fun r => r.1 == e.1)) else k.released }
  if x.split.isSome then { s.modCur noted with ctx := {} }
  else
    let last := decide (x.count ≤ x.rep + 1)
    let clear := (Header.ofWord x.hdr).holdclr && last && x.count != 0
    let t := s.modCur (fun k => { noted k with
      rf := { k.rf with latches := if clear then k.rf.latches.filter (fun e => x.latched.contains e.1) else k.rf.latches }
      pc := if last then x.npc.getD (x.pc + x.len) else k.pc
      count := if last then none else k.count
      rep := if last then 0 else x.rep + 1
      latched := if last then [] else x.latched
      nextIssue := x.cyc + 1 + (if last then x.gap else 0)
      issued := k.issued + 1 })
    let u := { t with ctx := {} }
    if (u.core x.core).ended then (u.endWrites x.core).endSeat x.core else u

/-! Presenting. -/

/-- What a core does when its turn to issue comes. -/
inductive Presented where
  | idle (s : State)
  | ops (s : State) (l : List SlotOp)

/-- The seat's next bundle would issue, or be held, in a clock that no cause freezes. -/
def Core.wouldIssue (k : Core) : Bool :=
  k.placed && k.started && k.stop.isNone && decide (k.nextIssue ≤ k.sched) && k.keep.isNone && !k.ended && !k.debugHalt
    && k.rolling.isNone && !k.dump && !k.saveAsked && !k.killed && k.abort.isNone
/-- The seat may issue a bundle in this clock. -/
def Core.mayIssue (k : Core) : Bool := k.ran && k.wouldIssue

/-- The bundle has a LAUNCH for which no pool entry is free or promised (02 R33). -/
def State.launchWaits (s : State) (ops : List SlotOp) : Bool :=
  ops.any (fun op => match op.ins with
    | .launch g _ _ => s.on g
    | _ => false) && !s.launchReady s.ctx.core

/-- A waiting LAUNCH takes its place among the creators that wait for a pool entry (02 R33). -/
def State.queueLaunch (s : State) (ops : List SlotOp) : State :=
  let c := s.ctx.core
  if s.launchWaits ops && !s.launches.any (fun e => e.1 == c) then { s with launches := s.launches ++ [(c, 0)] } else s

/-- An operation that tests flags while it waits. -/
def isWait : Instr → Bool
  | .wait _ _ _ _ | .waitany _ _ _ _ _ | .wfree _ _ _ | .recv _ _ _ _ _ => true
  | _ => false

/-- An issue attempt of operations that raised nothing when presented: they wait, are cancelled, or issue. -/
def State.attempt (s : State) (ops : List SlotOp) : Presented :=
  let c := s.ctx.core
  let drop (t : State) : State := { t with ctx := {} }
  let s1 := if ops.any (fun op => emptiesBuffers op.ins && s.on (guardOf op.ins)) then s.modCore c Core.flushWc else s
  let fl := ops.foldl (fun m op => if op.slot = 6 then (s1.enterSlot op []).localFlags op.ins m else m) (s1.core c).flags
  if ops.any (fun op => (s1.enterSlot op []).mustWait fl op.ins) then .idle (drop ((s1.queueLaunch ops).correctArrays (ops.filter (fun op => isWait op.ins))))
  else
    let s2 := ((s1.correctReads ops).correctArrays ops).startRep
    match s1.firstConsumer ops with
    | some (op, code) => .idle (drop (s2.cancel ops op code))
    | none => .ops s2 ops

/-- The bundle at the PC presented for the first time, or tried again (20 R360). -/
def State.present (s : State) (c : Nat) : Presented :=
  let k := s.core c
  let h := Header.ofWord k.headerWord
  match k.count with
  | some n => (s.openCtx c k.rep n).attempt (k.opsAt h k.rep n false)
  | none =>
    let n := k.repeatCount h
    let void (t : State) : State := if n = 0 then t.takeCount else t
    match k.headerCode with
    | some _ =>
      let bad : List SlotOp := [{ slot := 0, ins := .headerEvent, word := (k.headerWord).setWidth 64 }]
      let s1 := (s.openCtx c 0 (if h.repreg && !k.rf.prcv then 1 else n)).correctArrays []
      (match s1.firstConsumer bad with
        | some (op, code) => .idle { s1.cancel bad op code with ctx := {} }
        | none => .ops (void s1) bad)
    | none =>
      let s1 := (s.modCore c (fun k => { k with count := some n, rep := 0 })).openCtx c 0 n
      let all := s1.checkOps h (k.opsAt h 0 n true)
      if all.any (fun op => op.event.isSome) then
        if n = 0 then .ops s1.takeCount (all.dropWhile (fun op => op.event.isNone))
        else
          let s2 := ((s1.correctReads all).correctArrays all).startRep
          match s1.firstConsumer all with
          | some (op, code) => .idle { s2.cancel all op code with ctx := {} }
          | none => .ops s2 all
      else if n = 0 then .ops s1.takeCount []
      else s1.attempt (k.opsAt h 0 n false)

/-- A core's turn to issue. -/
def State.issueTurn (s : State) (c : Nat) : Presented :=
  if !(s.core c).mayIssue then .idle s else s.present c

/-- What a replay cycle reads anew: the replay registers, and the own vault (19 R343, R349). -/
def State.correctReplay (s : State) (ops : List SlotOp) : State :=
  (s.correctWeak s.ctx.core (fun arr _ => arr == 7)).correctReads ops (fun h => match h with
    | .vault _ _ => true
    | _ => false)

/-- The replay cycle of a split bundle: its uncommitted slots with their captured sources (19 R343). A LAUNCH among them waits for its pool
entry as at its first issue (02 R33). -/
def State.replayTurn (s : State) (c : Nat) : Presented :=
  match (s.core c).replay with
  | none => .idle s
  | some r =>
    let s1 := s.modCore c (fun k => { k with replay := none, replayNow := false, stop := none, resume := 8 })
    let s2 : State := { s1 with ctx := { active := true, core := c, hdr := r.hdr, pc := r.pc, len := r.len, rep := r.rep, count := r.count
                                         cyc := r.cyc, src := r.src, latched := r.latched, replay := true, npc := r.npc, gap := r.gap
                                         under := r.under, srg := r.srg, dq := r.dq, dqRetained := r.dqRetained } }
    let ops := if r.count = 0 then [] else r.ops.filter (fun op => op.slot != 7 || r.rep + 1 == r.count || op.event.isSome)
    if s2.launchWaits ops then .idle { s with launches := (s2.queueLaunch ops).launches }
    else match s2.firstConsumer ops with
    | some (op, code) => .idle { s2.cancel ops op code with ctx := {} }
    | none => .ops (s2.correctReplay ops) ops

/-- A presented bundle run to its end by the meanings `ex`. -/
def Presented.finish (ex : Instr → State → Out) (p : Presented) : Out :=
  match p with
  | .idle s => .next s
  | .ops s l =>
    match runOps ex l s with
    | .next t => .next t.endBundle
    | o => o

/-! The rows that a slot word without an instruction stands for. -/

/-- The header condition of the bundle in progress, by the pending count that it read: one of zero has been taken by then (07 R144). -/
def State.headerCode (s : State) : Option Code := Core.headerCode { s.cur with rf := s.ctx.src }
/-- HEADER_EVENT (20 R361): the bundle splits at slot 0 and nothing of it commits. -/
def execHeaderEvent (s : State) : Out :=
  match s.headerCode with
  | some code => .next (s.splitAt 0 [{ slot := 0, ins := .headerEvent, word := s.ctx.word, event := some (code, 0) }] code 0 s.ctx.word)
  | none => .next s

/-- UNDEFOPC (20 R362). -/
def execUndefopc (slot : BitVec 3) (w : Word) (s : State) : Out := s.finish (.undefopc slot w) (.error (.undefopc, 0))

/-- EMPTY_BUNDLE (07 R137): nothing issues for one cycle. -/
def execEmptyBundle (s : State) : Out := .next s

end Sys2Proof.Machine
end

