-- ==== Sys2Proof/Machine/Sequencer.lean ====
section
/-! DEFINITION. The copy sequencer: program start, copies by 256-byte units, address and loop steps, flags, residue checks, and the end of
a program (03 R61 to R63, 11 R230 to R236, 19 R356, 20 R366, 21 R378, R384). -/

namespace Sys2Proof.Machine
open Sys2Proof

/-! The sequencer's own state. -/

def State.modSeq (s : State) (c : Nat) (f : Seq → Seq) : State := s.modCore c (fun k => { k with seq := f k.seq })
def Seq.reg (q : Seq) (n : BitVec 3) : Word := q.c.getD n.toNat 0
def Seq.setReg (q : Seq) (n : BitVec 3) (v : Word) : Seq := { q with c := q.c.set n.toNat v }
/-- The micro-instruction has completed: PROG to zero and MPC to the next one, after `t` cycles. DESIGN CHOICE (log 105): behind 0xFFFC comes 0,
since MPC has 16 bits (Table 3.8). -/
def Seq.done (q : Seq) (clock t : Nat) : Seq := { q with prog := 0, mpc := (q.mpc + 4) % 2 ^ 16, mode := .running, ready := clock + t }

/-- A walk that the sequencer waits for. -/
def State.seqWalking (s : State) (c : Nat) : Bool :=
  let h := s.hall (hallOf c)
  (h.walks ++ h.waiting).any (fun w => w.core == c && w.who == 2)

/-- The sequencer executes in this clock: it is not halted, not stopped by a correction or a dump, and its last step has ended. -/
def State.seqFree (s : State) (c : Nat) : Bool :=
  let k := s.core c
  k.placed && !k.seq.halted && !k.dump && k.saveAt.isNone && !k.correcting s.clock && decide (k.seq.ready ≤ s.clock) && !s.seqWalking c

/-- SEQ_PROGRAM_START (03 R62): an idle sequencer takes the oldest request. -/
def execSeqProgramStart (c : Nat) (s : State) : Out :=
  let q := (s.core c).seq
  match q.cpq with
  | r :: rest =>
    if q.mode = .idle ∧ s.seqFree c ∧ !(s.core c).holdsBack s.clock r.iss then
      .next (s.modSeq c (fun q => { q with cpq := rest, mpc := r.addr, c := r.c, lc := [0, 0, 0, 0], prog := 0, cflag := r.flag
                                           mode := .running, start := r.addr, iss := r.iss }))
    else .next s
  | [] => .next s

/-! Fetching (20 R366). -/

/-- What the word at MPC comes to. -/
inductive Fetched where
  | ins (i : Instr) (w : W32)
  | bad (c : Code) (value : Word) (w : W32)

def cpFieldEvent (k : Core) : Instr → Option (Code × Word)
  | .cpLoop _ back n =>
    if n = 0 then some (.rsvdfield, 0)
    else if back = 0 ∨ (k.seq.mpc : Int) - 4 * back.toNat < k.seq.start then
      some (.target, BitVec.ofInt 64 ((k.seq.mpc : Int) - 4 * back.toNat))
    else none
  | .cpFlag ca loc _ _ => if loc ∧ ca ≠ 0 then some (.rsvdfield, 0) else none
  | .cpChk _ cls len =>
    if cls = .exact ∧ (len.toNat + 1) % 2 = 1 then some (.rsvdfield, 0)
    else if (cls = .exact ∨ cls = .masked) ∧ !k.feat.getLsbD 2 then some (.feature, 2)
    else none
  | _ => none

def Core.cpFetch (k : Core) : Fetched :=
  let w : W32 := BitVec.ofNat 32 (k.imem.nat k.seq.mpc 4)
  if k.textLen ≤ k.seq.mpc then .bad .target (word64 k.seq.mpc) w
  else match decodeCp w with
    | .error e => .bad (EncFail.code e) 0 w
    | .ok i =>
      match cpFieldEvent k i with
      | some e => .bad e.1 e.2 w
      | none => .ins i w

/-! Runs of bytes. -/

/-- A run of one unit: its pointer, its length, and its place in the unit. -/
structure Seg where
  ptr : Word
  n   : Nat
  pos : Nat
  deriving DecidableEq, Repr

/-- How an attempt to reach bytes ends: a result; an event with its pointer and the home that failed, as nothing had been read or with what
the reads have corrected and poisoned; a page that misses; or a window that is not placed (log 89). -/
inductive Try (α : Type) where
  | ok (a : α)
  | bad (c : Code) (p : Word) (at_ : Option Home := none)
  | halt (s : State) (c : Code) (p : Word) (at_ : Option Home := none)
  | miss (page : Nat) (p : Word) (write : Bool)
  | wait

def Try.bind {α β : Type} (x : Try α) (f : α → Try β) : Try β :=
  match x with
  | .ok a => f a
  | .bad c p h => .bad c p h
  | .halt s c p h => .halt s c p h
  | .miss g p w => .miss g p w
  | .wait => .wait
/-- An event after reads keeps what they left. -/
def Try.keep {α : Type} (x : Try α) (t : State) : Try α :=
  match x with
  | .bad c p h => .halt t c p h
  | y => y

/-- Homes of a run, in pieces: home, place in the run, length. -/
def State.seqHomes (s : State) (c : Nat) (g : Seg) (write : Bool) : Try (List (Home × Nat × Nat)) :=
  let k := s.core c
  match checkPtr k k.rf.limit lWindows g.ptr g.n 1 with
  | .error e => .bad e.1 e.2
  | .ok pl =>
    match s.reach c pl with
    | .near off => .ok [(.near c off, 0, g.n)]
    | .own v off => .ok [(.vault v off, 0, g.n)]
    | .away h => if h.missing then .wait else .ok [(h, 0, g.n)]
    | .global va =>
      let l := k.globalPieces va g.n write
      match firstBad l, missPages l with
      | some code, _ => .bad code g.ptr
      | none, p :: _ => .miss p g.ptr write
      | none, [] => .ok (l.filterMap (fun e => match e.2 with
          | .hit h => some (h, e.1.2.1, e.1.2.2)
          | _ => none))

/-- Poison of each byte that a read brings. -/
def State.bytePoison (s : State) (h : Home) (n : Nat) : List Bool :=
  match h with
  | .near c off => (List.range n).map (fun i => (s.core c).rf.nearPoison.contains ((off + i) / 4))
  | .vault g off => (List.range n).map (fun i => (s.gal g).poison.contains ((off + i) / 4))
  | .hbm pa _ _ => List.replicate n (sectorOf s pa).poison
  | .host _ _ _ => List.replicate n false

/-- A read through a port outside the core: corrections are made, uncorrectable words are poisoned, and poison moves with the bytes
(19 R350, R351, 21 R377). -/
def State.portBytes (s : State) (h : Home) (n : Nat) : Except Code (State × List PByte) :=
  let t := s.afterRead h n
  match readHome t h n with
  | .error e => .error e
  | .ok r => .ok (t, r.1.zip (t.bytePoison h n))

/-- Bytes with their poison written at a home: array words one by one, a sector whole. -/
def State.putBytes (s : State) (h : Home) (bs : List PByte) : Except Code State :=
  let off := match h with
    | .near _ o | .vault _ o => o
    | _ => 0
  match h with
  | .hbm _ _ _ | .host _ _ _ => writeHome s h (full (bs.map (·.1))) (bs.any (·.2))
  | _ => (List.range (bs.length / 4 + 2)).foldlM (fun t j =>
      let lo := max off (off / 4 * 4 + 4 * j)
      let hi := min (off + bs.length) (off / 4 * 4 + 4 * j + 4)
      if hi ≤ lo then .ok t
      else
        let part := (bs.drop (lo - off)).take (hi - lo)
        writeHome t (h.plus (lo - off)) (full (part.map (·.1))) (part.any (·.2))) s

/-- As putBytes, with the home that fails. -/
def State.putAt (s : State) (h : Home) (bs : List PByte) : Except (Code × Home) State :=
  match s.putBytes h bs with
  | .ok u => .ok u
  | .error code => .error (code, h)

/-- The bytes of the homes of one run, up to the first that fails. -/
def State.readRun (s : State) : List (Home × Nat × Nat) → State × List PByte × Option (Code × Home)
  | [] => (s, [], none)
  | h :: t =>
    match s.portBytes h.1 h.2.2 with
    | .error e => (s, [], some (e, h.1))
    | .ok r =>
      let q := r.1.readRun t
      (q.1, r.2 ++ q.2.1, q.2.2)

/-- The bytes of a list of runs, in order. -/
def State.readSegs (s : State) (c : Nat) : List Seg → Try (State × List PByte)
  | [] => .ok (s, [])
  | g :: t =>
    (s.seqHomes c g false).bind (fun hs =>
      match s.readRun hs with
      | (u, _, some e) => .halt u e.1 g.ptr (some e.2)
      | (u, bs, none) => ((u.readSegs c t).keep u).bind (fun q => .ok (q.1, bs ++ q.2)))

/-- The homes of a list of runs to write. -/
def State.writeHomes (s : State) (c : Nat) : List Seg → Try (List (Seg × List (Home × Nat × Nat)))
  | [] => .ok []
  | g :: t => (s.seqHomes c g true).bind (fun hs => (s.writeHomes c t).bind (fun l => .ok ((g, hs) :: l)))

/-- The unit written at its runs. A poisoned word does not reach host memory (21 R378). -/
def State.writeSegs (s : State) (c : Nat) (gs : List Seg) (bs : List PByte) : Try State :=
  (s.writeHomes c gs).bind (fun l =>
    match l.find? (fun e => e.2.any (fun h => h.1.isHost && (((bs.drop (e.1.pos + h.2.1)).take h.2.2).any (·.2)))) with
    | some e => .bad .poison e.1.ptr
    | none => l.foldl (fun (r : Try State) e => r.bind (fun t =>
        match e.2.foldlM (fun a h => a.putAt h.1 ((bs.drop (e.1.pos + h.2.1)).take h.2.2)) t with
        | .ok u => .ok u
        | .error e' => .bad e'.1 e.1.ptr (some e'.2))) (.ok s))

/-- Runs of unit u of rows of rb bytes at a pitch: the stream bytes 256u to 256u + 255 of nr rows (R232). -/
def unitRows (base : Word) (pitch : Int) (nr rb u : Nat) : List Seg :=
  let lo := 256 * u
  let hi := min (256 * u + 256) (nr * rb)
  (List.range (256 / rb + 2)).filterMap (fun j =>
    let r := lo / rb + j
    let a := max lo (r * rb)
    let b := min hi ((r + 1) * rb)
    if a < b then some ⟨base + BitVec.ofInt 64 (r * pitch) + word64 (a - r * rb), b - a, a - lo⟩ else none)

/-- A halt at the present micro-instruction, or a walk asked for. -/
def State.seqTry (s : State) (c : Nat) (w : Word) (r : Try State) : State :=
  let stop (u : State) (code : Code) (p : Word) (h : Option Home) : State :=
    u.seqHalt c code p w (h.map (failAddr code)) (if code = .hbmue then (h.map (unitOf · 0)).getD 0 else 0)
  match r with
  | .ok t => t
  | .bad code p h => stop s code p h
  | .halt t code p h => stop t code p h
  | .wait => s
  | .miss page p write => s.requestWalk { core := c, who := 2, va := page, write := write, ptr := p, ready := 0 }

/-- A read or merge of near SRAM or of a vault has been corrected between two states: 12 cy more (19 R350). -/
def fixTime (s t : State) : Nat :=
  if t.corrected.filter (fun e => decide (4 * 0x2000 ≤ e.1)) = s.corrected.filter (fun e => decide (4 * 0x2000 ≤ e.1)) then 0 else 12

/-- Cycles of a unit between two runs: 1, 1 more when an end is not 256-byte aligned, 12 more after a correction, and a free time where a
home is neither near SRAM nor a vault (log 4). -/
def State.unitTime (s t : State) (src dst : Word) : Nat :=
  let array (p : Word) : Bool := match windowOf p with
    | some .scratch | some .gallery => true
    | _ => false
  1 + (if array src && array dst && (src.toNat % 256 != 0 || dst.toNat % 256 != 0) then 1 else 0)
    + fixTime s t + (if array src && array dst then 0 else Config.delay s.fresh)

/-- One unit has moved; after the last of `total` the micro-instruction completes with `fin`. DESIGN CHOICE (log 93): PROG counts units without
a bound, since a copy of 1,024 rows of 32 KiB has more units than the 16 bits of 03 Table 3.8 number. -/
def State.unitDone (s : State) (c total time : Nat) (fin : Seq → Seq) : State :=
  let t : State := { s with fresh := s.fresh + 1 }
  t.modSeq c (fun q =>
    if total ≤ q.prog + 1 then (fin q).done s.clock time else { q with prog := q.prog + 1, ready := s.clock + time, mode := .running })

/-! Micro-instructions. Each step of a copy moves the unit that PROG names. -/

def State.seqCore (s : State) : Nat := s.ctx.core

def execCpMove (ca cb : BitVec 3) (inc : Bool) (len : BitVec 16) (s : State) : Out :=
  let c := s.seqCore
  let q := (s.core c).seq
  let n := len.toNat + 1
  let off := word64 (256 * q.prog)
  let src := q.reg cb + off
  let dst := q.reg ca + off
  .next (s.seqTry c s.ctx.word ((s.readSegs c [⟨src, 256, 0⟩]).bind (fun r =>
    ((r.1.writeSegs c [⟨dst, 256, 0⟩] r.2).keep r.1).bind (fun t =>
      .ok (t.unitDone c n (s.unitTime t src dst) (fun q =>
        if inc then
          let a := q.setReg ca (q.reg ca + word64 (256 * n))
          a.setReg cb ((if ca = cb then a.reg cb else q.reg cb) + word64 (256 * n))
        else q))))))

/-- Destination and source pitch of CP.STR and CP.PUT. -/
def pitches (p : Word) : Int × Int := ((p.extractLsb' 0 32 : W32).toInt, (p.extractLsb' 32 32 : W32).toInt)

def execCpStr (ca cb pitch : BitVec 3) (rows : BitVec 10) (rowlen : BitVec 9) (s : State) : Out :=
  let c := s.seqCore
  let q := (s.core c).seq
  let nr := rows.toNat + 1
  let rb := (rowlen.toNat + 1) * 64
  let ps := pitches (q.reg pitch)
  let src := unitRows (q.reg cb) ps.2 nr rb q.prog
  let dst := unitRows (q.reg ca) ps.1 nr rb q.prog
  .next (s.seqTry c s.ctx.word ((s.readSegs c src).bind (fun r =>
    ((r.1.writeSegs c dst r.2).keep r.1).bind (fun t =>
      .ok (t.unitDone c ((nr * rb + 255) / 256)
        (s.unitTime t ((src.head?.map (·.ptr)).getD 0) ((dst.head?.map (·.ptr)).getD 0)) id)))))

/-- Packets of the sequencer leave in order; none of them while a port is not ready. -/
def State.seqSend (s : State) (c : Nat) : List Packet → Option State
  | [] => some s
  | p :: t =>
    match s.depart c p (s.core c).seq.iss 0 0 with
    | some u => u.seqSend c t
    | none => none

/-- POD destinations of a unit, checked; a module-map entry with V = 0 stops the whole operation before any packet is formed (21 R387). -/
def State.podSegs (s : State) (c : Nat) (gs : List Seg) : Try Unit :=
  match gs.findSome? (fun g => match checkPtr (s.core c) (s.core c).rf.limit podOnly g.ptr g.n 1 with
      | .error e => some (e.1, g.ptr)
      | .ok _ => if (s.mapEntry (s.core c).job (field g.ptr 51 40)).getLsbD 0 then none else some (.podtarget, g.ptr)) with
  | some (e, p) => .bad e p
  | none => .ok ()

def execCpPut (ca cb pitch : BitVec 3) (rows : BitVec 10) (rowlen : BitVec 9) (s : State) : Out :=
  let c := s.seqCore
  let q := (s.core c).seq
  let nr := rows.toNat + 1
  let rb := (rowlen.toNat + 1) * 64
  let ps := pitches (q.reg pitch)
  let src := unitRows (q.reg cb) ps.2 nr rb q.prog
  let dst := unitRows (q.reg ca) ps.1 nr rb q.prog
  .next (s.seqTry c s.ctx.word ((s.readSegs c src).bind (fun r =>
    ((r.1.podSegs c dst).keep r.1).bind (fun _ =>
      match src.find? (fun g => (((r.2.drop g.pos).take g.n).any (·.2))) with
      | some g => .halt r.1 .poison g.ptr
      | none =>
        let pk := dst.map (fun g => r.1.packet c true tyWrite g.ptr (((r.2.drop g.pos).take g.n).map (·.1)))
        match r.1.seqSend c pk with
        | none => .ok s
        | some t => .ok (t.unitDone c ((nr * rb + 255) / 256)
            (s.unitTime t ((src.head?.map (·.ptr)).getD 0) ((src.head?.map (·.ptr)).getD 0)) id)))))

/-- CP.LOOP (R233); its counter and target were checked when it was fetched. -/
def execCpLoop (lvl : BitVec 2) (back : BitVec 10) (n : BitVec 16) (s : State) : Out :=
  let c := s.seqCore
  .next (match cpFieldEvent (s.core c) (.cpLoop lvl back n) with
    | some e => s.seqHalt c e.1 e.2 s.ctx.word
    | none => s.modSeq c (fun q =>
      let v := (q.lc.getD lvl.toNat 0 + 1) % 65536
      if v < n.toNat then { q with lc := q.lc.set lvl.toNat v, mpc := q.mpc - 4 * back.toNat, ready := s.clock + 1 }
      else { q with lc := q.lc.set lvl.toNat 0 }.done s.clock 1))

def execCpAdd (ca : BitVec 3) (imm : BitVec 25) (s : State) : Out :=
  .next (s.modSeq s.seqCore (fun q => (q.setReg ca (q.reg ca + imm.signExtend 64)).done s.clock 1))

/-- Every write of the running program has performed (R234, R236). -/
def State.programDone (s : State) (c : Nat) : Bool := (s.flights c true).isEmpty

def execCpFlag (ca : BitVec 3) (loc : Bool) (val : BitVec 16) (f : FReg) (s : State) : Out :=
  let c := s.seqCore
  let q := (s.core c).seq
  .next (match cpFieldEvent (s.core c) (.cpFlag ca loc val f) with
    | some e => s.seqHalt c e.1 e.2 s.ctx.word
    | none =>
      if loc then
        if s.programDone c then (s.flagAt c f.toNat (.add (val.setWidth 32))).modSeq c (·.done s.clock 1) else s
      else
        let p := q.reg ca
        if windowOf p ≠ some .pod then s.seqHalt c .winlimit p s.ctx.word
        else if !p.getLsbD 39 then s.seqHalt c .limit p s.ctx.word
        else match s.podSegs c [⟨p, 1, 0⟩] with
          | .ok _ =>
            let pk := s.packet c true tyFadd p [] f.toNat (val.setWidth 32)
            (match s.depart c pk q.iss 0 0 with
              | some t => t.modSeq c (·.done s.clock 1)
              | none => s)
          | .bad code v _ => s.seqHalt c code v s.ctx.word
          | _ => s)

def execCpWait (val : BitVec 16) (f : FReg) (s : State) : Out :=
  let c := s.seqCore
  let t := s.correctWeak c (fun arr place => arr == 4 && place == 256 + f.toNat)
  .next (if fcondHolds .ge (flagOf (s.core c).flags f.toNat) (val.setWidth 32) then t.modSeq c (·.done s.clock 1)
    else t.modSeq c (fun q => { q with mode := .waiting }))

/-- The residue of a chunk by the class of CP.CHK (R235). -/
def chkResidue (cls : ChkClass) (bs : List Byte) : Nat :=
  match cls with
  | .bf16 => wireResidue 1 0 bs
  | .exact => wireResidue 2 0 bs
  | .masked => wireResidue 3 0 bs
  | .fp32 => ((List.range (bs.length / 4)).foldl (fun acc j =>
      (acc + weight 1 j * residue (decodeF .f32 (bytesToNat ((bs.drop (4 * j)).take 4)))) % resP) 0)
/-- The class that a chunk header of the check carries. -/
def chkWire : ChkClass → Nat
  | .bf16 | .fp32 => 1
  | .exact => 2
  | .masked => 3

/-- Runs of at most 256 bytes from a pointer. -/
def runsOf (p : Word) (n : Nat) : List Seg :=
  (List.range ((n + 255) / 256)).map (fun u => ⟨p + word64 (256 * u), min 256 (n - 256 * u), 256 * u⟩)

/-- The chunk header behind a failed check, for its record: zero where its bytes cannot be reached or carry another class (21 R384). -/
def State.chkHeader (s : State) (c : Nat) (cls : ChkClass) (p : Word) : Try (State × Word × Word) :=
  match s.readSegs c [⟨p, 32, 0⟩] with
  | .ok q =>
    let h := q.2.map (·.1)
    .ok (q.1, if bytesToNat ((h.drop 3).take 1) % 4 = chkWire cls then headerOf h else (0, 0))
  | .miss page q w =>
    let k := s.core c
    (match walkFrom s k.job k.world (s.accepted 7) page false true 4 (((s.worldOf k.job k.world).map (·.troot)).getD 0) 0 with
      | .bad _ => .ok (s, 0, 0)
      | _ => .miss page q w)
  | .halt t _ _ _ => .ok (t, 0, 0)
  | .wait => .wait
  | .bad _ _ _ => .ok (s, 0, 0)

def execCpChk (ca : BitVec 3) (cls : ChkClass) (len : BitVec 16) (s : State) : Out :=
  let c := s.seqCore
  let p := (s.core c).seq.reg ca
  let n := (len.toNat + 1) * 256
  .next (match cpFieldEvent (s.core c) (.cpChk ca cls len) with
    | some e => s.seqHalt c e.1 e.2 s.ctx.word
    | none => s.seqTry c s.ctx.word ((s.readSegs c (runsOf p n ++ [⟨p + word64 n, 8, n⟩])).bind (fun r =>
      if r.2.any (·.2) then .halt r.1 .poison p
      else
        let bs := r.2.map (·.1)
        let t : State := { r.1 with fresh := r.1.fresh + 1 }
        if chkResidue cls (bs.take n) = bytesToNat (bs.drop n) then
          .ok (t.modSeq c (·.done s.clock (len.toNat + 2 + fixTime s r.1 + (match windowOf p with
            | some .scratch | some .gallery => 0
            | _ => Config.delay s.fresh))))
        else (r.1.chkHeader c cls (p + word64 (n + 32))).bind (fun hdr =>
          .ok ((hdr.1.modSeq c (fun q => { q with halted := true })).post c
            { gal := 0, slot := 0, core := 0, kind := .boundary, code := .chkfail, src := 1, opSlot := 6, pc := (s.core c).pc
              npc := (s.core c).pc, value := hdr.2.1, word := s.ctx.word, addr := p, info := hdr.2.2 })))))

/-- CP.END (R62, R236): the completion flag rises by 1 once every write of the program has performed. -/
def execCpEnd (s : State) : Out :=
  let c := s.seqCore
  .next (if s.programDone c then
      (s.flagAt c (s.core c).seq.cflag (.add 1)).modSeq c (fun q => { q with mode := .idle, prog := 0, ready := s.clock + 1 })
    else s)

/-- OP 0x0 or 0x9 to 0xE (20 R366). -/
def execCpUndefopc (s : State) : Out := .next (s.seqHalt s.seqCore .undefopc 0 s.ctx.word)

/-- Runs that the present unit of a micro-instruction reads and writes. -/
def Seq.runs (q : Seq) : Instr → List Seg
  | .cpMove ca cb _ _ => [⟨q.reg cb + word64 (256 * q.prog), 256, 0⟩, ⟨q.reg ca + word64 (256 * q.prog), 256, 0⟩]
  | .cpStr ca cb pitch rows rowlen =>
    let ps := pitches (q.reg pitch)
    let rb := (rowlen.toNat + 1) * 64
    unitRows (q.reg cb) ps.2 (rows.toNat + 1) rb q.prog ++ unitRows (q.reg ca) ps.1 (rows.toNat + 1) rb q.prog
  | .cpPut _ cb pitch rows rowlen => unitRows (q.reg cb) (pitches (q.reg pitch)).2 (rows.toNat + 1) ((rowlen.toNat + 1) * 64) q.prog
  | .cpChk ca _ len => runsOf (q.reg ca) ((len.toNat + 1) * 256)
  | _ => []
/-- The host completes an access of the running program's unit with an error: the sequencer halts with HBMUE (21 R377; log 74). -/
def State.seqHostError (s : State) (c : Nat) : State :=
  let k := s.core c
  if !s.seqFree c || k.seq.mode == .idle then s
  else match k.cpFetch with
    | .bad _ _ _ => s
    | .ins i w =>
      match (k.seq.runs i).findSome? (fun g => match s.seqHomes c g false with
          | .ok l => (l.find? (fun e => e.1.isHost)).map (fun e => (g.ptr, e.1))
          | _ => none) with
      | some (p, h) => s.seqHalt c .hbmue p (w.setWidth 64) (some (failAddr .hbmue h))
      | none => s

/-- The sequencer's turn: rejects halt it at this boundary (21 R381), an idle one starts its next program, a running one executes the
word at MPC. -/
def State.seqTurn (ex : Instr → State → Out) (s : State) (c : Nat) : Out :=
  let q := (s.core c).seq
  if !s.seqFree c then .next s
  else match q.faults with
    | e :: rest =>
      .next ((s.modSeq c (fun q => { q with halted := true, faults := rest })).post c
        { gal := 0, slot := 0, core := 0, kind := .boundary, code := e.code, src := 1, opSlot := 6, pc := (s.core c).pc
          npc := (s.core c).pc, value := e.value, word := e.word })
    | [] =>
      match q.mode with
      | .idle => ex (.seqProgramStart c) s
      | _ =>
        match (s.core c).cpFetch with
        | .bad code v w => .next (s.seqHalt c code v (w.setWidth 64))
        | .ins i w =>
          match ex i { s.correctWeak c (fun arr place => arr == 2 && 4 * place == q.mpc) with ctx := { core := c, word := w.setWidth 64 } } with
          | .next t => .next { t with ctx := {} }
          | o => o

end Sys2Proof.Machine
end

