-- ==== Sys2Proof/Machine/Engines.lean ====
section
/-! DEFINITION. What a core's engines and the memory system do on their own: landings, walks, queues leaving, posted accesses, keep copies,
hop comparisons, lockstep, corrections (03 R58 to R60, 04 R82, R83, 06 R121, 13 R267, 19 R346 to R355, 21 R372, R376, R383, 22 R391). -/

namespace Sys2Proof.Machine
open Sys2Proof

/-! Landings (03 R58, 19 R347). -/

/-- LANDING_ARRIVAL: the response of entry e reaches the landing buffer; a CORRECT freeze holds it (R349). -/
def execLandingArrival (c e : Nat) (s : State) : Out :=
  .next (s.modCore c (fun k =>
    match sget none k.landing e with
    | some l => if !l.arrived && l.left == 0 && decide (l.ready ≤ s.clock) && decide (k.correct ≤ s.clock)
        then (k.renew (fun arr place => arr == 5 && place == e)).setLanding e (some { l with arrived := true }) else k
    | none => k))

/-- Busy entries that fall due by the present schedule cycle, by entry number. -/
def Core.dueEntries (k : Core) : List (Nat × Landing) :=
  k.landing.filterMap (fun e => match e.2 with
    | some l => if l.due ≤ k.sched then some (e.1, l) else none
    | none => none)

/-- A landing as a result of the slot that issued its request (03 R45). -/
def Landing.pend (l : Landing) : Pend :=
  { due := l.due, slot := l.slot, iss := l.iss, dest := l.dest, value := l.form.value (vecBytes l.data l.form.sz.bytes), poison := l.poison }

/-- One more frozen cycle with the cause given. -/
def Core.freeze (k : Core) (cause : Nat) : Core := { k with ran := false, frzcause := cause, cyc := k.cyc + 1, frz := k.frz + 1 }

/-- A running cycle: results and landings that are due are delivered in the commit order, then the port's flag operations apply. -/
def Core.runCycle (k : Core) : Core :=
  let due := k.dueEntries
  let k1 := k.deliver (due.map (fun e => e.2.pend))
  let now := k.inflight.filter (fun p => p.due ≤ k.sched) ++ due.map (fun e => e.2.pend)
  let whole (arr place : Nat) : Bool := arr == 4 && now.any (fun p => match p.dest with
    | .s n => place == n
    | .p n => place == 64 + n && (p.mask.setWidth 64 : Word) == BitVec.allOnes 64
    | _ => false)
  { (k1.renew whole) with
    ran := true, frzcause := 0, landing := due.foldl (fun m e => sset none e.1 none m) k1.landing
    flags := k1.flagBuf.foldl flagArrive k1.flags, flagBuf := [] }

/-- What the start of a running cycle reads: the landing entries that deliver, the flags that an arrived add changes, and after a stop the
snapshot registers that hold the results in flight. -/
def Core.cycleReads (k : Core) (due : List (Nat × Landing)) (arr place : Nat) : Bool :=
  (arr == 5 && due.any (fun e => e.1 == place)) || (arr == 7 && k.frzcause == 3 && !k.inflight.isEmpty)
    || (arr == 4 && ((k.flagBuf.find? (fun o => place == 256 + o.1)).any (fun o => o.2.reads)))

/-- The seat stops before the bundle of this cycle: the cycle is frozen, and the message is posted in it. -/
def State.stopBefore (s : State) (c : Nat) (kind : StopKind) (m : Msg) : State :=
  ((s.modCore c (fun k => { k with stop := some kind, resume := 8, frzcause := 3 })).post c m 0).modCore c (·.freeze 3)

/-- The bounded adds that a running cycle applies answer their requests with the value that each found (11 R227). -/
def State.answerFlags (s : State) (c : Nat) (k : Core) : State :=
  (flagAnswers k.flags k.flagBuf).foldl (fun t e => t.respond e.1 tyFaddbRsp (natToBytes 4 e.2.toNat) (galOf c) s.clock) s

/-- LANDING_DUE: the start of a cycle of a core that no other cause freezes. A failed entry that is due stops the seat, a late one
freezes it, and otherwise every due entry delivers. -/
def execLandingDue (c : Nat) (s : State) : Out :=
  let k := s.core c
  let due := k.dueEntries
  .next (match due.find? (fun e => e.2.arrived && e.2.failed.isSome) with
    | some (e, l) =>
      let f := l.failed.getD (.nopage, 0, 0)
      s.stopBefore c (.landing e) { gal := 0, slot := 0, core := 0, kind := .landing e, code := f.1, opSlot := l.slot, pc := l.pc
                                    npc := k.nextAfter l.pc, value := f.2.1, word := l.word, addr := f.2.2, unit := l.unit }
    | none =>
      if due.any (fun e => !e.2.arrived) then s.modCore c (·.freeze 1)
      else
        (((s.modCore c Core.runCycle).correctWeak c (k.cycleReads due)).modCore c
          (·.renew (fun arr place => arr == 4 && k.flagBuf.any (fun o => place == 256 + o.1)))).answerFlags c k)

/-! Accesses that perform at their homes (06 R112, R117). -/

/-- Bytes of a vault that the release buffer of another core than c holds: an access to them waits for the comparison (19 R354). -/
def State.hides (s : State) (c : Nat) (h : Home) (n : Nat) : Bool :=
  match h with
  | .vault g a => (s.hidden c g).any (fun e => decide (a ≤ e.1 ∧ e.1 < a + n))
  | _ => false

/-- The k-th access may perform: its home is known, its time has come, and no earlier access of the seat to the same bytes stands before
it, a FETCH on its way included (06 R117). -/
def State.pieceReady (s : State) (c i : Nat) : Option (Piece × Home) :=
  let k := s.core c
  match k.pend[i]? with
  | some p =>
    match p.home.map (s.rehome k.task) with
    | some h =>
      if !h.missing ∧ p.ready ≤ s.clock ∧ !k.holdsBack s.clock p.iss ∧ !s.hides c h p.n ∧ !(s.sited c).blocked i p
          ∧ !s.fetchBefore c p.iss h p.n then some (p, h) else none
    | none => none
  | none => none

/-- A read piece takes its value for its landing entry, or fails it. -/
def State.readPiece (s : State) (c : Nat) (p : Piece) (h : Home) : State :=
  match readHome s h p.n with
  | .error code => (if code = .hbmue then s.afterRead h p.n else s).modLanding c p.entry p.serial (fun l =>
      { l with failed := some (l.failed.getD (code, p.ptr, failAddr code h)), left := l.left - 1
               unit := if l.failed.isNone ∧ code = .hbmue then unitOf h 0 else l.unit })
  | .ok _ =>
    let t := s.portRead h p.n
    match readHome t.1 h p.n with
    | .ok r => t.1.modLanding c p.entry p.serial (fun l =>
        let a := l.feed p.pos r.1 r.2
        if t.2 then { a with ready := max a.ready (s.clock + 12) } else a)
    | .error _ => t.1

def Core.dropPend (k : Core) (i : Nat) : Core := { k with pend := k.pend.eraseIdx i }

/-- The late event of a failed store (21 R376). -/
def storeFail (p : Piece) (code : Code) (h : Home) : LateEvent :=
  { code := code, src := 2, opSlot := 5, value := p.ptr, addr := failAddr code h, word := p.word }

/-- Pieces of a write that has raised its event raise no other. -/
def tell (iss : Nat) (ps : List Piece) : List Piece := ps.map (fun q => if q.write ∧ q.iss = iss then { q with told := true } else q)
/-- A piece of a write fails: the write raises one event (21 R376; log 74). -/
def State.pieceFails (s : State) (c : Nat) (p : Piece) (code : Code) (h : Home) : State :=
  if p.told then s
  else (s.lateEvent c (storeFail p code h)).modCore c (fun k =>
    { k with pend := tell p.iss k.pend, hxq := k.hxq.map (tell p.iss), wc := k.wc.map (tell p.iss) })

/-- POSTED_WRITE_PERFORMED: the i-th access of core c that has not performed performs, a write at its home or a read taking its value. A
merge that corrects an error of a vault performs 12 cy later (21 R420). -/
def execPostedWritePerformed (c i : Nat) (s : State) : Out :=
  match s.pieceReady c i with
  | none => .next s
  | some (p, h) =>
    if p.write then
      match s.preMerge h p.data with
      | some t => .next (t.modCore c (fun k => { k with pend := k.pend.set i { p with ready := s.clock + 12 } }))
      | none =>
        match writeHome s h p.data p.poison with
        | .ok t => .next (t.modCore c (·.dropPend i))
        | .error _ => .next s
    else .next ((s.readPiece c p h).modCore c (·.dropPend i))

/-! Queues (06 R120, R121, R132). -/

/-- Pieces of a list that fail, by a test on the state so far, and those that perform; a write raises one event. -/
def State.hostWrites (s : State) (c : Nat) (fails : State → Piece → Home → Except Code State) (ps : List Piece) : State :=
  (ps.foldl (fun (a : State × List Nat) p => match p.home with
    | some h => (match fails a.1 p h with
      | .ok u => (u, a.2)
      | .error code => (if a.2.contains p.iss then a.1 else a.1.pieceFails c p code h, p.iss :: a.2))
    | none => a) (s, [])).1
/-- A write at its home. -/
def homeWrite (s : State) (p : Piece) (h : Home) : Except Code State := writeHome s h p.data p.poison
/-- The host completes a write with an error (21 R376; log 74). -/
def hostError (_ : State) (_ : Piece) (_ : Home) : Except Code State := .error .hbmue

/-- An ordinary store leaves in its order; the other kinds are unordered, but for stores to the same bytes (06 R117, R120). -/
def Core.hxqReady (k : Core) (i : Nat) (clock : Nat) : Bool :=
  match k.hxq[i]? with
  | some ps =>
    ps.all (fun p => decide (p.ready ≤ clock) && !k.holdsBack clock p.iss && !((k.pend.any (fun q => decide (q.iss < p.iss) && p.touches q)))) &&
      (ps.any (fun p => p.kind != .ordinary) || (k.hxq.take i).all (fun qs => qs.any (fun q => q.kind != .ordinary))) &&
      (k.hxq.take i).all (fun qs => qs.all (fun q => ps.all (fun p => !p.touches q)))
  | none => false

/-- HXQ_ENTRY_LEAVE: the posted write of an entry leaves the host port and is visible. -/
def execHxqEntryLeave (c i : Nat) (s : State) : Out :=
  if (s.sited c).hxqReady i s.clock then
    .next ((s.hostWrites c homeWrite ((s.core c).hxq.getD i [])).modCore c (fun k => { k with hxq := k.hxq.eraseIdx i }))
  else .next s

/-- CMQ_ENTRY_LEAVE: the oldest entry sends its next packet; it has left with its last one. An operation that no port in service can
carry, or whose module-map entry is invalid, ends here (21 R386, R387). -/
def execCmqEntryLeave (c : Nat) (s : State) : Out :=
  match (s.core c).cmq with
  | [] => .next s
  | r :: rest =>
    if (s.core c).holdsBack s.clock r.iss then .next s
    else match r.pkts with
    | [] => .next (s.modCore c (fun k => { k with cmq := rest }))
    | p :: ps =>
      match s.depart c p r.iss r.word r.pc with
      | none => .next s
      | some t => .next (t.modCore c (fun k => { k with cmq := if ps.isEmpty then rest else { r with pkts := ps } :: rest }))

/-- Requests that waited for a port or in a release buffer. -/
def State.retryQueued (s : State) : State :=
  s.queued.foldl (fun t e => match if (t.core e.1).holdsBack t.clock e.2.1 then none else t.depart e.1 e.2.2 e.2.1 0 0 with
    | some u => { u with queued := u.queued.drop 1 }
    | none => { t with queued := t.queued.drop 1 ++ t.queued.take 1 }) s

/-! Walks (04 R82, R83, 19 R346, 21 R372). -/

/-- The sectors that a walk reads, with their single errors corrected. -/
def State.walkFixes (s : State) (w : Walk) : State :=
  let k := s.core w.core
  let st := s.walkStart (s.hall (hallOf w.core)) k.job k.world w.va
  s.walkFix w.va st.1 st.2

/-- What the k-th walk of a hall comes to as memory stands. -/
def State.walkResult (s : State) (w : Walk) : WalkEnd :=
  let k := s.core w.core
  let st := s.walkStart (s.hall (hallOf w.core)) k.job k.world w.va
  walkFrom s k.job k.world (s.accepted 7) w.va w.write true st.1 st.2 0

/-- The walk leaves the walker, and the oldest waiting request takes its place. -/
def State.endWalk (s : State) (hall i : Nat) : State :=
  (s.modHall hall (fun x => { x with walks := x.walks.eraseIdx i })).startWalks hall 1

/-- Table entries of levels 3 and 2 that a walk has read, kept for the hall's cores; 1,024 at most, the oldest replaced first. -/
def State.keepTables (s : State) (hall : Nat) (w : Walk) : State :=
  let k := s.core w.core
  let st := s.walkStart (s.hall hall) k.job k.world w.va
  let new := (s.walkTables w.va st.1 st.2).map (fun e => (k.job, k.world, e.1, w.va / 2 ^ (12 + 9 * e.1), e.2))
  s.modHall hall (fun h =>
    let l := h.cache ++ new
    { h with cache := l.drop (l.length - 1024) })

/-- Load pieces of a core whose page has its translation now. -/
def State.resolvePieces (s : State) (c : Nat) (page : Nat) : State :=
  let k := s.core c
  let hit (p : Piece) : Option Home :=
    if p.home.isNone && !p.write && p.va / 0x10000 == page / 0x10000 then
      match k.tcLookup p.va false with
      | .hit h => some h
      | _ => none
    else none
  let late := (k.pend.filterMap (fun p => (hit p).map (fun h => (p, h))))
  let s1 := s.modCore c (fun k => { k with pend := k.pend.map (fun p => match hit p with
    | some h => { p with home := some h }
    | none => p) })
  late.foldl (fun t e => t.modLanding c e.1.entry e.1.serial (fun l => { l with ready := max l.ready (s.clock + s1.homeCost (galOf c) e.2) })) s1

/-- Load pieces of a page whose walk failed: their landing entries fail. -/
def State.failPieces (s : State) (c page : Nat) (code : Code) : State :=
  let k := s.core c
  let hit (p : Piece) : Bool := p.home.isNone && !p.write && p.va / 0x10000 == page / 0x10000
  let s1 := s.modCore c (fun k => { k with pend := k.pend.filter (fun p => !hit p) })
  (k.pend.filter hit).foldl (fun t p => t.modLanding c p.entry p.serial (fun l =>
    { l with failed := some (l.failed.getD (code, p.ptr, word64 p.va)), left := l.left - 1
             unit := if l.failed.isNone ∧ code = .hbmue then walkerUnit (hallOf c) else l.unit })) s1

/-- The access that waited goes on. -/
def State.walkHit (s : State) (w : Walk) : State :=
  match w.who with
  | 0 => { s.modCore w.core (fun k => { k with replayNow := true }) with agenda := .replay w.core :: .hops w.core :: s.agenda }
  | 1 => s.resolvePieces w.core w.va
  | _ => s

/-- The access that waited fails: a store's WALK freeze becomes STOP, a load fails its landing, the sequencer halts, and the copy of a
RGN.KEEP stops the seat. -/
def State.walkFail (s : State) (w : Walk) (code : Code) : State :=
  let c := w.core
  let k := s.core c
  let unit := if code = .hbmue then walkerUnit (hallOf c) else 0
  match w.who with
  | 0 =>
    let op := (k.replay.bind (fun r => r.ops.head?)).map (·.word)
    (s.modCore c (fun k => { k with stop := some .split, frzcause := 3 })).post c
      { gal := 0, slot := 0, core := 0, kind := .split, code := code, opSlot := 5, pc := (k.replay.map (·.pc)).getD k.pc
        npc := (k.replay.map (fun r => r.pc + r.len)).getD k.pc, value := w.ptr, word := op.getD 0, addr := word64 w.va, unit := unit }
  | 1 => s.failPieces c w.va code
  | 2 => s.seqHalt c code w.ptr (BitVec.ofNat 64 (k.imem.nat k.seq.mpc 4)) (some (word64 w.va)) unit
  | _ =>
    (s.modCore c (fun k => { k with stop := some .boundary, frzcause := 3, keep := none, keepGot := [] })).post c
      { gal := 0, slot := 0, core := 0, kind := .boundary, code := code, opSlot := 7, pc := k.keepPc, npc := k.pc, value := w.ptr
        word := k.keepWord, addr := word64 w.va, unit := unit }

/-- WALK_COMPLETE: a walk whose time has come returns a leaf, whose A and D bits it sets and which fills the core's cache, or a fault. A
leaf under migration is left to MIG_REPOLL. -/
def execWalkComplete (hall i : Nat) (s : State) : Out :=
  match (s.hall hall).walks[i]? with
  | none => .next s
  | some w =>
    if s.clock < w.ready then .next s
    else match s.walkResult w with
      | .migrating => .next s
      | .leaf a level e _ =>
        let r := setAD (s.walkFixes w) a e w.write
        .next (((((r.1.keepTables hall w).modCore w.core (·.tcFill (tcOf (s.core w.core).world w.va level r.2)))).endWalk hall i).walkHit w)
      | .bad code =>
        if w.who = 2 ∧ (s.core w.core).correcting s.clock then
          .next (s.modHall hall (fun h => { h with walks := h.walks.set i { w with ready := (s.core w.core).correct } }))
        else .next ((((s.walkFixes w).keepTables hall w).endWalk hall i).walkFail w code)

/-- MIG_REPOLL (R83): a request held by MIG reads its entry again 256 cy later. -/
def execMigRepoll (hall i : Nat) (s : State) : Out :=
  match (s.hall hall).walks[i]? with
  | none => .next s
  | some w =>
    if s.clock < w.ready then .next s
    else match s.walkResult w with
      | .migrating => .next ((s.walkFixes w).modHall hall (fun h => { h with walks := h.walks.set i { w with ready := s.clock + 256 } }))
      | _ => .next s

/-! Keep copies (22 R391). -/

/-- An earlier write to the bytes has still to perform. -/
def State.keepBlocked (s : State) (c : Nat) (p : Word) (n : Nat) : Bool :=
  let k := s.core c
  let hs := (runsOf p n).flatMap (fun g => match s.seqHomes c g false with
    | .ok l => l.map (fun e => (e.1, e.2.2))
    | _ => [])
  (k.pend.filter (·.write) ++ k.hxq.flatten ++ k.wc.flatten).any (fun q => match q.home with
    | some h => hs.any (fun e => e.1.meets e.2 h q.n)
    | none => true)

/-- The access cost of a copy: none from the scratchpad or the own vault, else that of the path (08 R167). -/
def State.keepPath (s : State) (c : Nat) (g : Seg) : Nat :=
  match s.seqHomes c g false with
  | .ok l => (l.map (fun e => match e.1 with
      | .near _ _ => 0
      | .vault v _ => if v = (s.ownVault c).1 then 0 else s.homeCost (galOf c) e.1
      | h => s.homeCost (galOf c) h)).foldl max 0
  | _ => 0

/-- The access of the copy fails: the seat stops at its boundary, with the address that fails (22 R391; log 31). -/
def State.keepFail (s : State) (c : Nat) (code : Code) (p : Word) (h : Option Home) : State :=
  s.walkFail { core := c, who := 3, va := ((h.map (failAddr code)).getD ((s.core c).eventAddr code p)).toNat, write := false, ptr := p, ready := 0 } code
/-- A word that the copy found in error has been corrected since state `s0`: from the scratchpad or the own vault it freezes the core with
CORRECT, elsewhere the access takes 12 cy more (19 R349, R350). -/
def State.keepFixed (s : State) (c : Nat) (s0 : State) (g : Seg) : State :=
  if fixTime s0 s = 0 then s
  else match s0.seqHomes c g false with
    | .ok l => if l.any (fun e => match e.1 with
          | .near _ _ => true
          | .vault v _ => v == (s0.ownVault c).1
          | _ => false) then s.modCore c (·.startCorrect s.clock)
        else s.modCore c (fun k => { k with keepReady := s.clock + 12 })
    | _ => s

/-- The host completes a read of that copy with an error. -/
def State.keepHostError (s : State) (c : Nat) : State :=
  match (s.core c).keep with
  | none => s
  | some (p, n) =>
    let got := (s.core c).keepGot.length
    match s.seqHomes c ⟨p + word64 got, min 256 (n - got), 0⟩ false with
    | .ok l => (match l.find? (fun e => e.1.isHost) with
      | some e => s.keepFail c .hbmue (p + word64 got) (some e.1)
      | none => s)
    | _ => s

/-- POSTED_STORE_FAIL (R376): the i-th access is a store that fails at its home; its piece is discarded and the seat stops before its next
bundle. From outside it is also the error with which the host completes an access (21 R377; log 74): a read of host memory, whose landing entry
fails; or, counted on behind the accesses, an entry of HXQ, which leaves with its writes lost; behind those the copy sequencer's unit; behind that
the copy of a RGN.KEEP; and, with a number that no core has, the next access of the I/O dies to host memory. -/
def execPostedStoreFail (c i : Nat) (s : State) : Out :=
  let n := (s.core c).pend.length
  if Config.cores ≤ c then .next { s with hostFails := true }
  else if n ≤ i then
    .next (if (s.sited c).hxqReady (i - n) s.clock then
      (s.hostWrites c hostError ((s.core c).hxq.getD (i - n) [])).modCore c (fun k => { k with hxq := k.hxq.eraseIdx (i - n) })
      else if (s.core c).hxq.length = i - n then s.seqHostError c
      else if (s.core c).hxq.length < i - n then s.keepHostError c else s)
  else match s.pieceReady c i with
  | none => .next s
  | some (p, h) =>
    if p.write then
      match writeHome s h p.data p.poison with
      | .ok _ => .next s
      | .error code => .next ((s.pieceFails c p code h).modCore c (·.dropPend i))
    else if h.isHost then
      .next ((s.modLanding c p.entry p.serial (fun l =>
        { l with failed := some (l.failed.getD (.hbmue, p.ptr, failAddr .hbmue h)), left := l.left - 1 })).modCore c (·.dropPend i))
    else .next s

/-- KEEP_COPY_COMPLETE: the copy of a RGN.KEEP takes the access cost of its path, once, and then one unit of 256 bytes; with the last one
it ends, its record joins the frame of the level, and its bytes the level's undo space. -/
def execKeepCopyComplete (c : Nat) (s : State) : Out :=
  let k := s.core c
  match k.keep with
  | none => .next s
  | some (p, n) =>
    let unit : Seg := ⟨p + word64 k.keepGot.length, min 256 (n - k.keepGot.length), 0⟩
    if s.clock < k.keepReady ∨ s.keepBlocked c p n ∨ (s.hall (hallOf c)).walks.any (fun w => w.core == c && w.who == 3)
      ∨ (s.hall (hallOf c)).waiting.any (fun w => w.core == c && w.who == 3) then .next s
    else if k.keepCost < s.keepPath c unit then
      .next (s.modCore c (fun k => { k with keepCost := s.keepPath c unit, keepReady := s.clock + (s.keepPath c unit - k.keepCost) }))
    else match s.readSegs c [unit] with
      | .ok r =>
        let got := k.keepGot ++ r.2
        let u := r.1.keepFixed c s unit
        let poison := ((got.zip (List.range n)).filter (fun e => e.1.2)).map (·.2)
        .next (if s.clock < (u.core c).keepReady then u
          else if got.length < n then u.modCore c (fun k => { k with keepGot := got })
          else ((u.modCore c (fun k => { k with keep := none, keepGot := [], frames := match k.frames with
            | f :: t => { f with keeps := (p, n, got.map (·.1), poison) :: f.keeps } :: t
            | [] => [] })).putUndo c n).getD s)
      | .miss page q _ => .next (s.requestWalk { core := c, who := 3, va := page, write := false, ptr := q, ready := 0 })
      | .bad code q _ => .next (s.keepFail c code q none)
      | .halt t code q h => .next (t.keepFail c code q h)
      | .wait => .next s

/-! Hop comparison and lockstep. -/

/-- HOP_COMPARISON (13 R267, 21 R383): once the last RADD before an ADVR has formed its terms, both sides of its record are compared. -/
def execHopComparison (c ch : Nat) (s : State) : Out :=
  let k := s.core c
  match k.hops.find? (fun h => h.ch == ch && decide (h.due ≤ k.sched)) with
  | none => .next s
  | some h =>
    let t := s.modCore c (fun k => { k with hops := k.hops.erase h })
    .next (if h.left = h.right then t
      else t.lateEvent c { code := .reshop, src := 0, opSlot := 6, value := h.value, info := h.info, addr := h.addr, word := h.word })

/-- The first of the bundles whose writes the release buffer still holds (19 R354). -/
def Core.unreleased (k : Core) (clock : Nat) : Nat := (k.recent.filter (fun e => clock ≤ e.2 + 2)).foldl (fun m e => min m e.1) k.issued

/-- PC of the mismatched bundle, and of the one behind it (18 R327): the first that the release buffer holds, or the next where it holds none. -/
def Core.unreleasedPc (k : Core) (clock : Nat) : Nat × Nat :=
  ((k.recentPcs.find? (fun e => e.1 == k.unreleased clock)).map (·.2)).getD (k.pc, k.nextAfter k.pc)

/-- Queue entries, matrix entries and accesses of those bundles dropped (19 R355). -/
def Core.discardRecent (k : Core) (clock : Nat) : Core :=
  let from_ := k.unreleased clock
  let gone := (k.mxq.filter (fun e => decide (from_ ≤ e.iss))) ++ ((k.run.filter (fun r => decide (from_ ≤ r.entry.iss))).map (·.entry)).toList
  let clear := k.tileClear.filter (fun e => decide (e.2.2 < from_))
  { k with
           run := k.run.filter (fun r => decide (r.entry.iss < from_)), tileClear := clear
           tileBusy := k.tileBusy.filter (fun t => !gone.any (fun e => e.cmd.tiles.contains t)
             || k.mxq.any (fun e => decide (e.iss < from_) && e.cmd.tiles.contains t) || clear.any (fun x => x.1 == t))
           cmq := k.cmq.filter (fun r => r.iss < from_)
           hold := k.hold.filter (fun h => h.2.iss < from_)
           hxq := k.hxq.filter (fun ps => ps.all (fun p => p.iss < from_))
           pend := k.pend.filter (fun p => p.iss < from_)
           wc := k.wc.filter (fun ps => ps.all (fun p => p.iss < from_))
           hops := k.hops.filter (fun h => h.iss < from_)
           mxq := k.mxq.filter (fun e => e.iss < from_)
           landing := k.landing.filter (fun e => match e.2 with
             | some l => l.iss < from_
             | none => true)
           seq := { k.seq with cpq := k.seq.cpq.filter (fun q => q.iss < from_) } }

/-- The own vault as it stood before the stores of bundles from number n on. -/
def State.unstore (s : State) (c n : Nat) : State :=
  let mine := (s.core c).released.filter (fun e => decide (n ≤ e.1))
  (mine.foldl (fun t e => e.2.2.foldl (fun u b => u.modGal e.2.1 (·.merge b.1 [(b.2, 0xFF)])) t) s).modCore c (fun k => { k with released := [] })

/-- LOCKSTEP_COMPARE (R354, R355): the signatures of a LOCK pair for one bundle; a mismatch stops the pair and discards what the release
buffer holds. -/
def execLockstepCompare (c : Nat) (even odd : Word) (s : State) : Out :=
  let k := s.core c
  if !k.placed || !k.lock || even == odd then .next s
  else
    let u := nearUnit c
    let at_ := k.unreleasedPc s.clock
    let s1 : State := { s with lockMis := sput u (sget 0 s.lockMis u + 1) s.lockMis }
    let s2 := (s1.unstore c (k.unreleased s.clock)).modCore c (fun k => { (k.discardRecent s.clock) with stop := some .boundary, frzcause := 3, resume := 8, count := none, rep := 0, replay := none, replayNow := false })
    let s3 : State := { s2.dropMailIf (fun m => m.core == c && m.src == 0) .rollback with
                                queued := s2.queued.filter (fun e => !(e.1 == c && decide (k.unreleased s.clock ≤ e.2.1))) }
    .next (s3.post c { gal := 0, slot := 0, core := 0, kind := .boundary, code := .lockstep, opSlot := 0, pc := at_.1, npc := at_.2 })

/-- CORRECT_FREEZE_END (R349): the freeze ends 12 cy after it began. -/
def execCorrectFreezeEnd (c : Nat) (s : State) : Out :=
  .next (s.modCore c (fun k => if k.correct ≠ 0 ∧ k.correct ≤ s.clock then { k with correct := 0, frzcause := 0 } else k))

/-! The start of a core's cycle (19 R340). -/

/-- The seat issues no further bundle: it is to be saved, or its task is killed. Such a cycle counts in neither CYC nor FRZ (22 R402, R405). -/
def Core.halting (k : Core) : Bool := (k.saveAsked || k.killed) && k.keep.isNone && k.rolling.isNone
/-- A halting seat stands at a boundary: a LANDING freeze that had begun lasts until its entries have arrived, and a failed one of them stops
the seat (22 R402). -/
def Core.halts (k : Core) : Bool := k.halting && k.stop.isNone && (k.frzcause != 1 || !k.dueEntries.any (fun e => !e.2.arrived || e.2.failed.isSome))

/-- A seat of an aborted job enters DUMP now: at once in a STOP, in the midst of no replay, and not while a walk or a late landing freezes it
(19 R340, R357). -/
def Core.dumpsNow (k : Core) : Bool :=
  k.abort.isSome && !k.dump && (match k.stop with
    | some .walk => false
    | some .split | some .boundary | some (.landing _) => true
    | some .trap | none => !k.started || !k.dueEntries.any (fun e => !e.2.arrived))

/-- It enters DUMP, which freezes the cycle once its first bundle may have issued. -/
def Core.enterDump (k : Core) : Core :=
  let d := { k with dump := true, rolling := none }
  if k.started then d.freeze 5 else d

/-- An entry that is due has not arrived, or has failed: it is the higher cause. -/
def Core.landingWaits (k : Core) : Bool := k.dueEntries.any (fun e => !e.2.arrived || e.2.failed.isSome)

/-- A message of a port waits while every shared slot of its gallery is taken (18 R326). -/
def State.lateHeld (s : State) (c : Nat) (e : LateEvent) : Bool := e.src == 2 && s.sharedFull (galOf c)

/-- A late event stops the seat before its next bundle (18 R326, 21 R376, R381). -/
def State.stopLate (s : State) (c : Nat) (e : LateEvent) (rest : List LateEvent) : State :=
  let k := s.core c
  (s.modCore c (fun k => { k with late := rest })).stopBefore c .boundary
    { gal := 0, slot := 0, core := 0, kind := .boundary, code := e.code, src := e.src, opSlot := e.opSlot
      pc := e.pc.getD k.pc, npc := k.nextAfter k.pc, value := e.value, word := e.word, addr := e.addr, info := e.info, unit := e.unit }

/-- A core's clock begins: the highest cause freezes it, or landings are tested and it runs. A TRAP is a wait, not a freeze; a failed landing
that falls due in it stops the seat, and its message follows the TRAP's reply. -/
def State.cycleTurn (ex : Instr → State → Out) (s : State) (c : Nat) : Out :=
  let k := s.core c
  if !k.placed then .next s
  else if k.dumpsNow then .next (s.modCore c (·.enterDump))
  else if !k.started then .next (s.modCore c (fun k => { k with ran := false, started := decide (k.startAt ≤ s.clock + 1) }))
  else if k.dump then .next (s.modCore c (·.freeze 5))
  else if s.clock < k.correct then .next (s.modCore c (·.freeze 2))
  else if k.halts then .next (s.modCore c (fun k => { k with ran := false, frzcause := 0 }))
  else
    let rep : List Agent := if k.replayNow then [.replay c] else []
    match k.stop with
    | some .split | some .boundary =>
      .next { s.modCore c (·.freeze 3) with agenda := rep ++ s.agenda }
    | some (.landing _) => .next (s.modCore c (·.freeze 3))
    | some .walk => .next { s.modCore c (·.freeze 4) with agenda := rep ++ s.agenda }
    | some .trap => if k.dueEntries.any (fun e => e.2.arrived && e.2.failed.isSome) then .next (s.modCore c (·.freeze 3)) else ex (.landingDue c) s
    | none =>
      match k.late with
      | e :: rest => if k.wouldIssue && !k.landingWaits && !s.lateHeld c e then .next (s.stopLate c e rest) else ex (.landingDue c) s
      | [] => ex (.landingDue c) s

end Sys2Proof.Machine
end

