-- ==== Sys2Proof/Machine/Containment.lean ====
section
/-! DEFINITION. Containment: fault policies, the end of seal sessions, killing a task, aborting a job, fencing a gallery, retiring banks,
and events of tasks and structures without a seat (12 R255, 14 R288, 18 R322 to R338, 21 R373, 22 R405). -/

namespace Sys2Proof.Machine
open Sys2Proof

/-! Fault policies (18 R322, R323, R329). -/

/-- The default action of Table 18.1. -/
def Code.defaultAction (c : Code) : Action :=
  match c with
  | .trap _ => .resume
  | _ => if c.cls = 4 ∨ c.cls = 5 then .rollback else .abort
/-- ACTION codes; 5 to 7 act as ABORT. -/
def Action.ofCode : Nat → Action
  | 0 => .resume
  | 1 => .redirect
  | 2 => .rollback
  | 3 => .kill
  | _ => .abort
/-- The entry of a fault policy table that governs a code. -/
def Code.entry (c : Code) : Nat :=
  match c with
  | .trap x => 256 + x.toNat
  | _ => c.num
/-- A code whose record carries what a chunk header names (18 Table 18.4). -/
def Code.isResidue : Code → Bool
  | .resarrive | .reshop | .chkfail => true
  | _ => false

/-- The action and NPC that a world's table gives a code. DESIGN CHOICE (log 96): bits [15:3] of an entry, which 18 R329 gives as zero, are
ignored whatever they hold. -/
def State.policy (s : State) (job world : Nat) (c : Code) : Action × Nat :=
  match (s.worldOf job world).bind (·.policy) with
  | some t =>
    let e : W32 := sget 0 t c.entry
    (Action.ofCode (e.toNat % 8), e.toNat / 2 ^ 16)
  | none => (c.defaultAction, 0)

/-! Seal sessions that end (14 R286 to R288). -/

/-- A seal record (14 Table 14.6). -/
def sealRecord (x : Seal) (world measurement : Nat) (isWhole : Bool) : List Byte :=
  let body := natToBytes 4 0x4C414553 ++ natToBytes 4 (if isWhole then 1 else 2) ++ natToBytes 4 (x.job + world * 2 ^ 16)
    ++ natToBytes 4 x.chunks ++ natToBytes 8 (x.chunks * x.chlen) ++ x.nonce.take 16 ++ natToBytes 48 measurement
    ++ natToBytes 48 (Config.sha384 x.bytes)
  let sig := (Config.sign (Config.sha384 body)).take 96
  body ++ sig ++ List.replicate (256 - body.length - sig.length) 0

/-- A program's range reaches the context pool of its job, which no program address does (22 R399). -/
def State.inContext (s : State) (job va n : Nat) : Bool :=
  match s.job job with
  | some j => decide (0 < j.ctxLen ∧ va < j.ctxBase + j.ctxLen * 2 ^ 20 ∧ j.ctxBase < va + n)
  | none => false
/-- The seal engine's reads and writes at program addresses. -/
def State.sealGet (s : State) (job world va n : Nat) : Io (State × List Byte) :=
  if s.inContext job va n then .bad s .nopage va 0 else s.ioRead job world va n
def State.sealPut (s : State) (job world va : Nat) (bs : List Byte) : Io State :=
  if s.inContext job va bs.length then .bad s .nopage va 0 else s.ioWrite job world va bs

/-- A session ends with its record written at OUT, once no migration holds that page. -/
def State.endSeal (s : State) (x : Seal) (world : Nat) (isWhole : Bool) : State :=
  let m := ((s.worldOf x.job world).map (·.measurement)).getD 0
  let t : State := { s with sessions := s.sessions.filter (fun y => !(y.job == x.job && y.taskid == x.taskid && y.seat == x.seat)) }
  let r := sealRecord x world m isWhole
  match t.sealPut x.job world x.out.toNat r with
  | .ok u => u
  | .held => { t with sealOut := t.sealOut ++ [(x.job, world, x.out.toNat, r)] }
  | .bad u _ _ _ => u

/-- Seal records that waited for a page under migration are written. -/
def State.writeSeals (s : State) : State :=
  s.sealOut.foldl (fun t e => match t.sealPut e.1 e.2.1 e.2.2.1 e.2.2.2 with
    | .ok u => u
    | .held => { t with sealOut := t.sealOut ++ [e] }
    | .bad u _ _ _ => u) { s with sealOut := [] }

/-- Every open session of a task ends ABORTED. -/
def State.abortSeals (s : State) (t : Task) : State :=
  (s.sessions.filter (fun x => x.job == t.job && x.taskid == t.taskid)).foldl (fun u x => u.endSeal x t.world false) s

/-! What a task holds. -/

/-- Cores where seats of the task are placed. -/
def State.seatCores (s : State) (t : Task) : List Nat := t.cores.filter (fun c => (s.core c).placed && (s.core c).task == t.id)
/-- Vault windows of a task freed. -/
def State.freeWindows (s : State) (t : Nat) : State :=
  { s with gals := s.gals.map (fun e => (e.1, { e.2 with windows := e.2.windows.filter (fun w => w.1 != t) })) }
/-- A generation tag is live no more (13 R274). -/
def State.retireGen (s : State) (t : Task) : State :=
  { s with retired := s.retired.filter (· != (t.job, t.taskid, t.gen)) ++ [(t.job, t.taskid, t.gen)] }

/-- Cores, windows, blocks, images, held writes and sessions of a task given up; nothing of it is written (22 R405). -/
def State.vacate (s : State) (t : Task) : State :=
  let s1 := ((s.seatCores t).foldl State.releaseCore (s.abortSeals t)).freeWindows t.id
  { s1 with saves := s1.saves.filter (fun e => e.1 != t.id)
            saveVaults := s1.saveVaults.filter (fun e => e.1 != t.id)
            spill := s1.spill.filter (fun e => !(e.2.job.toNat == t.job && e.2.taskid.toNat == t.taskid))
            preempts := s1.preempts.filter (fun p => p.task != t.id) }

/-- A task removed from the pool without completion effects (02 Table 2.5). -/
def State.removeTask (s : State) (t : Task) : State :=
  let s1 := (s.vacate t).retireGen t
  { s1 with tasks := s1.tasks.filter (fun x => x.id != t.id) }

/-- Descendants that have not ended. -/
def State.descendants (s : State) (t : Nat) : List Task := s.tasks.filter (fun x => x.ancestors.contains t && x.state != .ended)

/-! Killing (12 R255, 22 R405). -/

/-- The next generation tag. -/
def nextGen (g : Nat) : Nat := g % 255 + 1

/-- A task killed now: descendants go, its tag is retired, and it is PENDING with its descriptor to be read again. -/
def State.killNow (s : State) (id : Nat) : State :=
  match s.task id with
  | none => s
  | some t =>
    let s0 := ((t :: s.descendants id).flatMap s.seatCores).foldl (fun u c => u.dropEvents c .kill) s
    let s1 := (((s.descendants id).foldl State.removeTask s0).vacate t).retireGen t
    s1.modTask id (fun x => { x with
      state := .pending, gen := nextGen x.gen, born := s.clock, cores := [], ended := [], triggered := [], saved := [], winAt := []
      fence := some (Config.cores, 0), blocks := [], galBlocks := [], runAt := 0, killing := false })

/-- A seat at a bundle boundary outside a freeze. -/
def Core.atBoundary (k : Core) (clock : Nat) : Bool :=
  (k.stop.isNone || k.stop == some .trap) && decide (k.correct ≤ clock) && k.frzcause == 0 && k.keep.isNone && k.rolling.isNone
    && k.replay.isNone

/-- A KILL that waits for every seat of the task and its descendants to reach a boundary. -/
def State.askKill (s : State) (id : Nat) : State :=
  match s.task id with
  | none => s
  | some t =>
    let cs := (t :: s.descendants id).flatMap s.seatCores
    (cs.foldl (fun u c => u.modCore c (fun k => { k with killed := true })) s).modTask id (fun x => { x with killing := true })

/-- Kills whose seats have all stopped. -/
def State.settleKills (s : State) : State :=
  (s.tasks.filter (·.killing)).foldl (fun u t =>
    if ((t :: u.descendants t.id).flatMap u.seatCores).all (fun c => (u.core c).atBoundary u.clock) then u.killNow t.id else u) s

/-! Aborting a job (18 R325, 19 R357, R358). -/

/-- Cores of a job's seats, by number. -/
def State.jobCores (s : State) (job : Nat) : List Nat :=
  (s.cores.filter (fun e => e.2.placed && e.2.job == job)).map (·.1)

/-- The Foyer stops serving the queues of a job. -/
def State.haltQueues (s : State) (job : Nat) : State :=
  let qs := s.queuesOf job
  let t := qs.foldl State.setHalt s
  { t with foyer := t.foyer.map (fun e => if qs.contains e.2.queue then (e.1, {}) else e)
           waiting := t.waiting.filter (fun w => !qs.contains w.1), incoming := t.incoming.filter (fun q => !qs.contains q) }

/-- Every node is COMPLETE or SKIPPED (12 R248). -/
def Graph.over_ (g : Graph) : Bool := g.nodes.all (fun x => x.state == .complete || (x.state == .skipped && x.begun))
/-- A graph that has come to its end. -/
def Graph.finished (g : Graph) : Bool := g.done || (g.over_ && !g.halted)
/-- The work of a packet has ended, its completion add apart: an ABORT ends none of it (18 R325). -/
def State.workEnded (s : State) (a : Admitted) : Bool :=
  a.due || (match s.graphs.find? (fun g => g.queue == a.queue && g.index == a.index) with
    | some g => g.finished
    | none => !s.tasks.any (fun t => t.state != .ended && s.packetOf t == some (a.queue, a.index)))

/-- Every seat of the job but those of fenced galleries is to be dumped, every tag of it is retired, its queues halt and its sessions end; also how many seats this module
dumps. -/
def State.abortJob (s : State) (job : Nat) (code : Code) : State × Nat :=
  let cs := (s.jobCores job).filter (fun c => !(s.gal (galOf c)).fenced)
  let ts := s.tasks.filter (fun t => t.job == job && t.state != .ended)
  let s1 := ts.foldl (fun u t => (u.abortSeals t).retireGen t) s
  let s2 := (ts.filter (fun t => (s.seatCores t).isEmpty)).foldl State.removeTask s1
  let s3 : State := { s2 with tasks := s2.tasks.map (fun t => if t.job = job ∧ t.state ≠ .ended then { t with aborted := true } else t) }
  let s4 := (cs.zip (List.range cs.length)).foldl (fun u e => u.modCore e.1 (fun k => { k with abort := some (code, e.2) })) s3
  let s5 := s4.haltQueues job
  let s6 : State := { s5 with admitted := s5.admitted.filter (fun a => a.job != job || s.workEnded a)
                              graphs := s5.graphs.filter (fun g => g.job != job || g.finished)
                              launches := s5.launches.filter (fun e => !cs.contains e.1)
                              preempts := s5.preempts.filter (fun p => !(ts.any (fun t => t.id == p.task))) }
  (s6.modJob job (fun j => { j with aborted := true }), min cs.length (((s.job job).map (·.dumpLen)).getD 0))

/-- A task killed, or its job aborted where it is not restartable (18 R325): with the level reached and the seats dumped. -/
def State.contain (s : State) (t : Task) (c : Code) (now : Bool) : State × Nat × Nat :=
  if t.rst then (if now then s.killNow t.id else s.askKill t.id, 3, 0)
  else
    let u := s.abortJob t.job c
    (u.1, 4, u.2)

/-- The same of several tasks for one event. -/
def State.containAll (s : State) (ts : List Task) (c : Code) (now : Bool) : State × Nat × Nat :=
  ts.foldl (fun acc t => match acc.1.task t.id with
    | some x =>
      if x.aborted then acc
      else
        let u := acc.1.contain x c now
        (u.1, max acc.2.1 u.2.1, acc.2.2 + u.2.2)
    | none => acc) (s, 0, 0)

/-- As contain, with the record of the event. -/
def State.killOrAbort (s : State) (t : Task) (r : Record) (now : Bool) : State :=
  let u := s.contain t r.code now
  u.1.record { r with sev := u.2.1, action := u.2.1, info := r.info ||| dumpedInfo u.2.2 }

/-! Events without a seat. -/

def Task.identity (t : Task) : Word := identityOf t.job t.taskid t.world t.gen

/-- A code raised against a task that has no seat (21 R373): every action but ABORT acts as KILL. -/
def State.taskEvent (s : State) (t : Task) (c : Code) (addr unit : Nat) : State :=
  let r : Record := { seq := 0, code := c, src := 2, identity := t.identity, unit := unit, addr := word64 addr, cyc := s.ioCycles }
  if (s.policy t.job t.world c).1 = .abort then s.killOrAbort { t with rst := false } r true else s.killOrAbort t r true

/-- A malformed or unreadable structure whose source is halted (18 R333). -/
def State.structEvent (s : State) (job world : Nat) (c : Code) (addr unit : Nat) : State :=
  s.record { seq := 0, code := c, src := 2, sev := 3, action := 5, unit := unit, identity := identityOf job 0 world 0, addr := word64 addr
             cyc := s.ioCycles }

/-! Degraded operation (18 R335 to R338). -/

/-- BOOTSTS.REPLACE and its vector. -/
def State.askReplace (s : State) (b : Bool) : State :=
  if b && !s.host.replace then ({ s with host := { s.host with replace := true } } : State).raiseMsix 0 2 else s
def State.retiredBanks (s : State) : Nat := (s.gals.map (fun e => e.2.retired.length)).foldl (· + ·) 0
def State.portsOut (s : State) : Nat := (s.ports.filter (fun e => !e.2.inService)).length

/-- Tasks with a seat in a gallery, or with a window there that their saved seats have left. -/
def State.galTasks (s : State) (g : Nat) : List Task :=
  s.tasks.filter (fun t => (s.seatCores t).any (fun c => galOf c == g) || (s.gal g).windows.any (fun w => w.1 == t.id))

/-- Seats that still stand in a fenced gallery, those of jobs already aborted, go without a dump. -/
def State.clearGallery (s : State) (g : Nat) : State :=
  let s1 := ((List.range 8).map (8 * g + ·)).foldl (fun u c => if (u.core c).placed then (u.dropEvents c .abort).releaseCore c else u) s
  (s1.tasks.filter (fun t => t.aborted && (s1.seatCores t).isEmpty)).foldl State.removeTask s1

/-- A gallery fenced at once (R337), with one record of the level reached (18 R331; log 85). -/
def State.fenceGallery (s : State) (g : Nat) (unit : Nat) : State :=
  if (s.gal g).fenced then s
  else
    let u := (s.modGal g (fun x => { x with fenced := true })).containAll (s.galTasks g) .galfence true
    ((u.1.clearGallery g).record { seq := 0, code := .galfence, src := 2, sev := 5, action := u.2.1, unit := unit, cyc := s.ioCycles
                                   info := dumpedInfo u.2.2 }).askReplace true

/-- A bank retired: tasks whose windows cover it are killed, and the fourth fences the gallery (R335, R336). -/
def State.retireBank (s : State) (g b : Nat) : State :=
  let unit := vaultUnit g (0x20000 * b)
  let hit (w : Nat × Nat × Nat × Nat) : Bool := decide (w.2.2.1 < 0x20000 * (b + 1) ∧ 0x20000 * b < w.2.2.1 + w.2.2.2)
  let ids := ((s.gal g).windows.filter hit).map (·.1)
  let u := (s.modGal g (fun x => { x with retired := ninsert b x.retired })).containAll (s.tasks.filter (fun t => ids.contains t.id)) .bankretire
    false
  let s2 := u.1.record { seq := 0, code := .bankretire, src := 2, sev := u.2.1, action := u.2.1, unit := unit, cyc := s.ioCycles
                         info := dumpedInfo u.2.2 }
  let s3 := s2.askReplace (decide (16 ≤ s2.retiredBanks))
  if 4 ≤ (s3.gal g).retired.length then s3.fenceGallery g unit else s3

/-- Banks of a gallery whose count has passed its threshold. -/
def State.wornBanks (s : State) (g : Nat) : List Nat :=
  (List.range 32).filter (fun b =>
    let u := vaultUnit g (0x20000 * b)
    !(s.gal g).retired.contains b && (decide (2 ≤ sget 0 s.sramue u) || decide (4096 ≤ sget 0 s.corrected u)))

/-- A core whose arrays, or whose pair, have failed too often. -/
def State.wornCore (s : State) (c : Nat) : Bool :=
  decide (2 ≤ ((List.range 8).map (fun a => sget 0 s.sramue (nearUnit c + a))).foldl (· + ·) 0) || decide (3 ≤ sget 0 s.lockMis (nearUnit c))

/-- What the counts of Table 18.7 ask of a gallery. -/
def State.retireWorn (s : State) (g : Nat) : State :=
  if (s.gal g).fenced || (s.sramue.isEmpty && s.lockMis.isEmpty && s.corrected.isEmpty) then s
  else
    let t := (s.wornBanks g).foldl (fun u b => u.retireBank g b) s
    match (List.range 8).find? (fun p => t.wornCore (8 * g + p)) with
    | some p => t.fenceGallery g (nearUnit (8 * g + p))
    | none => t

end Sys2Proof.Machine
end

