-- ==== Sys2Proof/Machine/Gmc.lean ====
section
/-! DEFINITION. The gallery management cores: state writes, replies and their escalation, rollback, the output seal engine's requests, and
the watchdog (14 R286 to R288, 18 R325 to R330, 19 R343 to R347, 22 R394 to R398). -/

namespace Sys2Proof.Machine
open Sys2Proof

/-! Writes into a stopped seat (18 R328). -/

/-- A seat that is stopped until the reply to its message, which has not come (18 R327, R328). -/
def State.awaitsReply (s : State) (c : Nat) : Bool :=
  let k := s.core c
  k.placed && k.rolling.isNone && !k.dump && k.abort.isNone && s.mail.any (fun m => m.core == c && m.src != 1) && (match k.stop with
    | some .split | some .trap | some (.landing _) | some .boundary => true
    | _ => false)

/-- A stopped seat as the GMC reads it: results and landings that fall due in the schedule cycle behind its bundle are applied already
(19 R344). -/
def Core.gmcView (k : Core) : Core :=
  let k1 := if k.ran then { k with cyc := k.cyc + 1 } else k
  k1.deliver ((k1.dueEntries.filter (fun e => e.2.arrived && e.2.failed.isNone)).map (fun e => e.2.pend))

/-- GMC_STATE_WRITE: a register, flag or scratchpad byte of a stopped seat of the open world. -/
def execGmcStateWrite (c : Nat) (w : GmcWrite) (s : State) : Out :=
  let k := s.core c
  if !s.awaitsReply c || k.world != 0 then .next s
  else .next (s.modCore c (fun k =>
    match w with
    | .scalar n v => { k with rf := k.rf.setS n.toNat v false }
    | .pred n v => { k with rf := k.rf.setP n.toNat v }
    | .lcnt v => { k with rf := { k.rf with lcnt := v } }
    | .flag n v => { k with flags := flagSet k.flags n.toNat v }
    | .scratch off v => if off < k.rf.limit then { k with rf := k.rf.mergeNear off [(v, 0xFF)] } else k))

/-! The output seal engine (14 R286, R287). -/

/-- A request that firmware serves: OPEN, ADD or CLOSE. -/
def sealCode : Code → Option Nat
  | .trap c => if c = 0xC0 then some 0 else if c = 0xC1 then some 1 else if c = 0xC2 then some 2 else none
  | _ => none

/-- Every L-slot write of core c has performed at CHIP scope. -/
def State.chipWritesDone (s : State) (c : Nat) : Bool :=
  !((s.core c).pend ++ (s.core c).hxq.flatten ++ (s.core c).wc.flatten).any (fun p => p.write && scopePiece c .chip p)

/-- The session of a seat. -/
def State.session (s : State) (k : Core) : Option Seal :=
  s.sessions.find? (fun x => x.job == k.job && x.taskid == k.taskid && x.seat == k.seat)

/-- A request as the engine accepts it; none while it waits. A session whose chunk cannot be read ends ABORTED (log 20).
DESIGN CHOICE (log 95): bytes 0x20 to 0x3F of an OPEN request, which 14 Table 14.5 gives as zero, are ignored whatever they hold. -/
def State.sealServe (s : State) (m : Msg) (op : Nat) : Option State :=
  let k := s.core m.core
  if op = 0 then
    let s0 := match s.session k with
      | some x => s.endSeal x k.world false
      | none => s
    if 64 ≤ s0.sessions.length then none
    else match s0.sealGet k.job k.world m.value.toNat 64 with
      | .held => none
      | .bad u _ _ _ => some u
      | .ok r => some { r.1 with sessions := r.1.sessions ++ [{ job := k.job, taskid := k.taskid, seat := k.seat, out := bword r.2 0
                                                                chlen := (bword r.2 8).toNat, nonce := (r.2.drop 0x10).take 16 }] }
  else match s.session k with
    | none => some s
    | some x =>
      if op = 2 then (match s.ioWalk k.job k.world x.out.toNat true with
        | .held => none
        | _ => some (s.endSeal x k.world true))
      else if !s.chipWritesDone m.core then none
      else match s.sealGet k.job k.world m.value.toNat x.chlen with
        | .held => none
        | .bad u _ _ _ => some (u.endSeal x k.world false)
        | .ok r => some { r.1 with sessions := r.1.sessions.map (fun y =>
            if y.job = x.job ∧ y.taskid = x.taskid ∧ y.seat = x.seat then { y with chunks := y.chunks + 1, bytes := y.bytes ++ r.2 } else y) }

/-! Requests sent again (19 R347). -/

/-- Reads of a timed request planned again: pointer, length, place. -/
def State.replan (s : State) (c e : Nat) : List (Word × Nat × Nat) → R (List ReadPlan)
  | [] => .ok []
  | q :: t => do
    let pl ← checkPtr (s.core c) (s.core c).rf.limit lWindows q.1 q.2.1 1
    let p ← s.planRead c (s.reach c pl) q.1 q.2.1 q.2.2 e s.serial
    let l ← s.replan c e t
    .ok (p :: l)

/-- A failed timed request sent again with its captured pointer. -/
def State.resend (s : State) (c e : Nat) : State :=
  let k := s.core c
  match sget none k.landing e with
  | none => s
  | some l =>
    let l0 : Landing := { l with arrived := false, failed := none, data := 0, poison := 0, serial := s.serial, left := 1 }
    let s0 : State := { s with ctx := { core := c, src := k.rf, cyc := k.sched, pc := l.pc, slot := l.slot, word := l.word } }
    let again (qs : List (Word × Nat × Nat)) : State :=
      match s0.replan c e qs with
      | .ok plans => (s0.nextSerial.2.arm e (l.due - k.sched) l0 plans).modLanding c e s.serial (fun x => { x with iss := l.iss })
      | .error x => s0.modCore c (·.setLanding e (some { l0 with left := 0, arrived := true, failed := some (x.1, x.2, k.eventAddr x.1 x.2) }))
    let l1 : Landing := { l0 with tag := s0.reqTag c }
    let asking := s0.nextSerial.2.ask c l1.tag
    let t := match l.req with
      | .memory p n => again [(p, n, 0)]
      | .gather ps => again ((ps.zip (List.range ps.length)).map (fun (x : Word × Nat) => (x.1, 4, 4 * x.2)))
      | .fetch p n => (asking.modCore c (·.setLanding e (some l1))).sendRequest
          { s0.packet c false tyFetch p [] 0 0 (s0.tagAux c) with len := BitVec.ofNat 9 (n - 1) }
      | .faddb p inc b => (asking.modCore c (·.setLanding e (some l1))).sendRequest
          (s0.packet c false tyFaddb p [] (field p 7 0) b (s0.tagAux c + (inc - 1)))
    { t with ctx := {} }

/-! Replies (18 R324 to R330). -/

/-- The action after R325; LOCKSTEP never resumes (19 R355). -/
def State.escalate (s : State) (m : Msg) (a : Action) : Action :=
  let k := s.core m.core
  let a1 := if m.code = .lockstep ∧ (a = .resume ∨ a = .redirect) then .rollback else a
  let a2 := match a1 with
    | .rollback => (match k.frames with
      | f :: _ => if f.retry = f.limit then .kill else .rollback
      | [] => .kill)
    | .redirect => if m.src ≠ 1 ∧ 8 ≤ k.rstack.length then .abort else .redirect
    | x => x
  if a2 = .kill ∧ !((s.task k.task).map (·.rst)).getD false then .abort else a2

/-- RESUME (R343, R347, R356, 18 R328). -/
def State.doResume (s : State) (m : Msg) : State :=
  if m.src = 1 then s.modSeq m.core (fun q => { q with halted := false })
  else match m.kind with
    | .split => s.modCore m.core (fun k => { k with replayNow := k.replay.isSome })
    | .landing e => (s.modCore m.core (fun k => { k with stop := none })).resend m.core e
    | _ => s.modCore m.core (fun k => { k with stop := none })

/-- REDIRECT (R345, R347, R356): the uncommitted slots or the failed request go, PC is pushed, which after a TRAP is the TRAP's own, and the
seat goes on at NPC. -/
def State.doRedirect (s : State) (m : Msg) (npc : Nat) : State :=
  if m.src = 1 then s.modSeq m.core (fun q => { q with halted := false, mpc := npc, prog := 0, mode := .running })
  else (s.dropLaunch m.core).modCore m.core (fun k =>
    let k1 := match m.kind with
      | .landing e => k.setLanding e none
      | _ => k
    let pushed := match m.kind with
      | .trap => m.pc
      | _ => k.pc
    { k1 with stop := none, replay := none, replayNow := false, resume := 8, repleft := 0, count := none, rep := 0
              rstack := pushed :: k1.rstack, pc := npc })

/-- The seat leaves its freeze without going on. -/
def Core.letGo (k : Core) : Core :=
  { k with stop := none, replay := none, replayNow := false, frzcause := 0, resume := 8 }

/-- The events of a program that a rollback discards because it had halted (22 R394), each with its record (18 R331); `k` is the core before. -/
def State.dropHalted (s : State) (k : Core) (c : Nat) : State := if k.seq.halted then s.dropFaults c .rollback else s

/-- ROLLBACK begins (22 R394): the replay registers, every result in flight, the landings, the engine's entries of the region that have not
started, the copy of a RGN.KEEP that has not ended, and a halted program go; the seat stays frozen. -/
def State.doRollback (s : State) (m : Msg) : State :=
  let c := m.core
  let s1 := (s.dropLaunch c).modCore c (fun k =>
    let from_ : Nat := (k.frames.headD {}).iss
    let kept := k.mxq.filter (fun e => decide (e.iss < from_))
    { k.flushWc with
      stop := some .boundary, frzcause := 3, rolling := some .drain, replay := none, replayNow := false, inflight := []
      keep := none, keepGot := []
      landing := [], pend := k.pend.filter (·.write), mxq := kept
      tileBusy := k.tileBusy.filter (fun t => kept.any (fun e => e.cmd.tiles.contains t) || k.tileClear.any (fun x => x.1 == t)
        || k.run.any (fun r => r.late.isSome && r.entry.cmd.tiles.contains t))
      seq := if k.seq.halted then { k.seq with halted := false, mode := .idle, prog := 0 } else k.seq })
  (((s1.dropWalks (hallOf c) (fun w => w.core == c && w.who != 2)).dropQueued c).dropMail c .rollback).dropHalted (s.core c) c

/-- REPLY: ACTION, VALID, and NPC for REDIRECT (18 Table 18.3). -/
def replyWord (a : Action) (npc : Nat) : Word := word64 (a.num + 0x80 + (if a = .redirect then npc * 2 ^ 16 else 0))

/-- A reply with VALID = 1 for a message: its action, or the one R325 gives in its place, with the event's record. -/
def State.reply (s : State) (m : Msg) (a0 : Action) (npc : Nat) : State :=
  let a := s.escalate m a0
  let s0 : State := { s with mail := s.mail.erase m, box := sput (32 * m.gal + m.slot) { m with reply := replyWord a npc } s.box }
  match a with
  | .resume =>
    let t := s0.doResume m
    (match m.code with
      | .trap _ => t
      | _ => t.record (m.toRecord a 0))
  | .redirect => (s0.doRedirect m npc).record (m.toRecord a 0)
  | .rollback => (s0.doRollback m).record (m.toRecord a 0)
  | .kill => (((s0.modCore m.core Core.letGo).askKill (s.core m.core).task).record (m.toRecord a 0)).settleKills
  | .abort =>
    let u := s0.abortJob (s.core m.core).job m.code
    u.1.record (m.toRecord a u.2)

/-- The message in a mailbox slot that a reply may still answer: not one of a seat whose job is aborted (18 R330, 19 R359). -/
def State.mailAt (s : State) (gal slot : Nat) : Option Msg :=
  s.mail.find? (fun m => m.gal == gal && m.slot == slot && (s.core m.core).abort.isNone)
/-- The words of a mailbox slot (18 R326, Table 18.3). -/
def State.mailboxWords (s : State) (gal slot : Nat) : List Word :=
  match s.mail.find? (fun m => m.gal == gal && m.slot == slot), s.box.find? (fun e => e.1 == 32 * gal + slot) with
  | some m, _ => m.words
  | none, some e => e.2.words
  | none, none => List.replicate 8 0

/-- A reply to what stands in a mailbox slot, if anything does. -/
def State.replyAt (s : State) (gal slot : Nat) (a : Action) (npc : Nat) : Out :=
  match s.mailAt gal slot with
  | some m => .next (s.reply m a npc)
  | none => .next s

/-- GMC_REPLY_RESUME; a seal request is served, or waits (14 R286). -/
def execGmcReplyResume (gal m : Nat) (s : State) : Out :=
  match s.mailAt gal m with
  | some x =>
    (match sealCode x.code with
      | some op => (match s.sealServe x op with
        | some t => .next (t.reply x .resume 0)
        | none => .next s)
      | none => .next (s.reply x .resume 0))
  | none => .next s
/-- GMC_REPLY_REDIRECT. -/
def execGmcReplyRedirect (gal m : Nat) (npc : BitVec 16) (s : State) : Out := s.replyAt gal m .redirect npc.toNat
/-- GMC_REPLY_ROLLBACK. -/
def execGmcReplyRollback (gal m : Nat) (s : State) : Out := s.replyAt gal m .rollback 0
/-- GMC_REPLY_KILL. -/
def execGmcReplyKill (gal m : Nat) (s : State) : Out := s.replyAt gal m .kill 0
/-- GMC_REPLY_ABORT. -/
def execGmcReplyAbort (gal m : Nat) (s : State) : Out := s.replyAt gal m .abort 0

/-- A message of a gallery has had no reply for 2²⁰ cy (18 Table 18.7). -/
def State.unanswered (s : State) (gal : Nat) : Bool := s.mail.any (fun m => m.gal == gal && decide (m.posted + 0x100000 ≤ s.clock))
/-- GMC_WATCHDOG (18 R335): such a message fences its gallery. -/
def execGmcWatchdog (gal : Nat) (s : State) : Out :=
  if s.unanswered gal then .next ((s.record { seq := 0, code := .gmcwatch, src := 2, sev := 5, cyc := s.ioCycles }).fenceGallery gal 0)
  else .next s

/-! Rollback as it goes on (22 R394, R398). -/

/-- Kept bytes written back to their pointer's home; a page that misses is walked at once, and one under migration holds the write
(04 R83). -/
def State.writeBack (s : State) (c : Nat) : Nat → Word × Nat × List Byte × List Nat → Io State
  | 0, _ => .held
  | fuel + 1, r =>
    let bs := (r.2.2.1.zip (List.range r.2.1)).map (fun e => (e.1, r.2.2.2.contains e.2))
    match s.writeSegs c (runsOf r.1 r.2.1) bs with
    | .ok t => .ok t
    | .bad code p h => .bad s code ((h.map (failAddr code)).getD ((s.core c).eventAddr code p)).toNat ((h.map (unitOf · 0)).getD 0)
    | .halt t code p h => .bad t code ((h.map (failAddr code)).getD ((s.core c).eventAddr code p)).toNat ((h.map (unitOf · 0)).getD 0)
    | .wait => .held
    | .miss page _ _ =>
      let k := s.core c
      let root := ((s.worldOf k.job k.world).map (·.troot)).getD 0
      match walkFrom s k.job k.world (s.accepted 7) page true true 4 root 0 with
      | .leaf a level e _ =>
        let u := setAD (s.walkFix page 4 root) a e true
        (u.1.modCore c (·.tcFill (tcOf k.world page level u.2))).writeBack c fuel r
      | .migrating => .held
      | .bad code => .bad (s.walkFix page 4 root) code page (code.stack (s.walkLast page 4 root))

/-- The frame's state restored, all but ARES; reject states, sticky state, latches and PRC cleared (R394), with the hop comparisons of the
region's own ADVRs. Busy bits of entries that ran keep
their clear points (10 R201). -/
def Core.restore (k : Core) (f : Frame) (rest : List Frame) : Core :=
  let chans := (List.range 64).foldl (fun m i =>
    let e := sget {} f.chans i
    sset {} i { e with ares := (sget {} k.rf.chans i).ares, rejected := false } m) ([] : Sparse Chan)
  { k with
    rf := { k.rf with s := f.s, sPoison := f.sPoison, p := f.p, lcnt := f.lcnt, allot := f.allot, rbase := f.rbase, rsize := f.rsize
                      rrb := f.rrb, chans := chans, latches := [], prc := 0, prcv := false }
    dom := f.dom, phase := f.phase, rstack := f.rstack, srg := f.srg, dq := f.dq, dqRetained := f.dqRetained
    frames := { f with keeps := [], retry := f.retry + 1 } :: rest
    sticky := [], hops := k.hops.filter (fun h => decide (h.iss < f.iss)), resume := 8, repleft := 0, count := none, rep := 0, pc := f.restart, nextIssue := 0
    stop := none, rolling := none }

/-- A rollback that cannot be carried out any further acts as KILL (22 R394). -/
def State.rollFails (s : State) (c : Nat) (code : Code) (addr unit : Nat) : State :=
  let k := s.core c
  match s.task k.task with
  | some t => ((s.modCore c (fun k => { k.letGo with rolling := none })).killOrAbort t
      { seq := 0, code := code, identity := k.identity, pcn := c, pc := k.pc, mpc := k.seq.mpc, cyc := k.cyc, addr := word64 addr, unit := unit } false).settleKills
  | none => s

/-- The last step of a rollback: the kept bytes are read from undo space and written back, newest first, and the frame is restored; it waits
while a page is under migration. -/
def State.rollEnd (s : State) (c : Nat) : State :=
  match (s.core c).frames with
  | [] => s
  | _ :: rest =>
    match s.getUndo c with
    | .held => s
    | .bad t code a u => t.rollFails c code a u
    | .ok (s0, f) =>
      match f.keeps.foldl (fun (t : Io State) r => t.bind (fun u => u.writeBack c 64 r)) (.ok s0) with
      | .held => s
      | .bad t code a u => t.rollFails c code a u
      | .ok t => t.modCore c (·.restore f rest)

/-- What a rollback does in one clock: it waits for the engine and the writes, drops what the region queued, then writes back and
restores. -/
def State.rollTurn (s : State) (c : Nat) : State :=
  let k := s.core c
  match k.rolling with
  | none => s
  | some .drain =>
    if k.mxq.isEmpty && k.engineIdle s.clock && k.pend.isEmpty && k.hxq.isEmpty then
      let f := k.frames.headD {}
      let bytes := f.kept
      let fin := if f.keeps.isEmpty then s.clock else s.clock + s.fixed 176 + (bytes + 255) / 256
      let s1 := ((s.modCore c (fun k => { k with
        rolling := some (.writeBack fin), hold := k.hold.filter (fun h => h.1 != k.rgd)
        seq := { k.seq with cpq := k.seq.cpq.filter (fun q => decide (q.iss < f.iss)), halted := false
                            mode := if (f.iss ≤ k.seq.iss ∧ k.seq.mode ≠ .idle) ∨ k.seq.halted then .idle else k.seq.mode } })).dropMail c .rollback).dropHalted k c
      if fin ≤ s.clock then s1.rollEnd c else s1
    else s
  | some (.writeBack fin) => if fin ≤ s.clock then s.rollEnd c else s

/-! A gallery's turn. -/

/-- 250 ns have passed since a message was posted, by the GMC's own clock, whatever FREQ has been since (18 R330). -/
def State.replyDue (s : State) (m : Msg) : Bool := decide (m.posted ≤ s.clock ∧ m.wall + wallUnits / 4 ≤ s.wall)

/-- The step that a message's policy asks for. -/
def State.replyStep (s : State) (m : Msg) : Instr :=
  match sealCode m.code with
  | some _ => .gmcReplyResume m.gal m.slot
  | none =>
    let firmware := match m.code with
      | .trap c => decide (0x80 ≤ c.toNat)
      | _ => false
    let p := s.policy (s.core m.core).job (s.core m.core).world m.code
    if firmware then .gmcReplyResume m.gal m.slot
    else match p.1 with
      | .resume => .gmcReplyResume m.gal m.slot
      | .redirect => .gmcReplyRedirect m.gal m.slot (BitVec.ofNat 16 p.2)
      | .rollback => .gmcReplyRollback m.gal m.slot
      | .kill => .gmcReplyKill m.gal m.slot
      | .abort => .gmcReplyAbort m.gal m.slot

/-- Messages in the order of their posting, an issue stream's before a sequencer's of the same cycle (18 R326). -/
def insertMsg (m : Msg) : List Msg → List Msg
  | [] => [m]
  | x :: t => if x.posted < m.posted ∨ (x.posted = m.posted ∧ m.src = 1 ∧ x.src ≠ 1) then x :: insertMsg m t else m :: x :: t

/-- A gallery's turn in a clock: worn parts, rollbacks, then the messages whose reply is due, in the order of their posting. A seat whose
job is aborted gets none (18 R330). -/
def State.gmcTurn (s : State) (g : Nat) : State :=
  let s1 := (List.range 8).foldl (fun t p => t.rollTurn (8 * g + p)) (s.retireWorn g)
  let ripe := (s1.mail.filter (fun m => m.gal == g && s1.replyDue m && (s1.core m.core).abort.isNone)).foldr
    insertMsg []
  { s1 with agenda := ripe.map (fun m => .run (s1.replyStep m)) ++ (if s1.unanswered g then [.run (.gmcWatchdog g)] else []) ++ s1.agenda }

end Sys2Proof.Machine
end

