-- ==== Sys2Proof/Machine/Fabric.lean ====
section
/-! DEFINITION. The fabric ports and the own module's lateral network: checks of an arriving packet, pair order, performing writes, flag
operations, fetches and channel data, rejects, and links (13 R266, R274, 14 R276, R283, 15 R295 to R297, 21 R379 to R387, 22 R404, 23 R414). -/

namespace Sys2Proof.Machine
open Sys2Proof

/-! Rows 2 and 3 of Table 21.3. -/

/-- Retired tags stay retired until a task is created under them. -/
def State.tagRetired (s : State) (p : Packet) : Bool := s.retired.contains (p.job.toNat, p.taskid.toNat, p.gen.toNat)

/-- The job has a module map, and the tag is neither retired nor another than the live task's (13 R274, 21 R388; log 19). -/
def State.tagLive (s : State) (p : Packet) : Bool :=
  (s.job p.job.toNat).isSome && s.host.mmap.any (fun e => e.1 / 4096 == p.job.toNat && e.2.getLsbD 0) && !s.tagRetired p
    && (match s.liveTask p.job.toNat p.taskid.toNat with
      | some t => t.gen == p.gen.toNat
      | none => true)

/-- A segment-table entry that allows the access (14 R276, Table 14.1). -/
def segAllows (w0 w1 : Word) (p : Packet) : Bool :=
  w0.getLsbD 0 && w0.getLsbD 1 == p.kind && w0.getLsbD (2 + p.world.toNat) && decide (field w1 21 0 ≤ p.off)
    && decide (p.off + max (spanOfPacket p) 1 - 1 ≤ field w1 53 32)

/-- The sender's world is the destination team's, or an entry of its segment table allows the access. -/
def State.worldOk (s : State) (p : Packet) : Bool :=
  match s.liveTask p.job.toNat p.taskid.toNat with
  | none => true
  | some t => t.world == p.world.toNat ||
    (match s.worldOf t.job t.world with
      | some w => (List.range 16).any (fun k => segAllows (sget 0 w.segs (2 * k)) (sget 0 w.segs (2 * k + 1)) p)
      | none => false)

/-! Row 5: where a packet performs (04 R73, 11 R220). -/

/-- Team, gallery, position, range and flag fields of row 5; the range of a kind-1 access is that of the seat's scratchpad as it stands. -/
def State.targetOk (s : State) (p : Packet) (t : Task) : Bool :=
  let w := t.width
  let n := spanOfPacket p
  decide (p.gal < (t.nseats + w - 1) / w) && (!namesSeat p || (decide (p.pos < w) && decide (packetSeat p t < t.nseats)))
    && (if p.kind then
          decide (p.dataPos < w) && decide (dataSeat p t < t.nseats) && (n == 0 || (match s.seatCore t (dataSeat p t) with
            | some c => decide (p.off % 2 ^ 18 + n ≤ (s.core c).rf.limit)
            | none => decide (p.off % 2 ^ 18 + n ≤ 0x40000)))
        else decide (p.off + n ≤ t.vsize * 0x10000))
    && !((p.ty.toNat == tyFadd || p.ty.toNat == tyFset || p.ty.toNat == tyFaddb) && (!p.kind || (!p.sq && p.off / 256 % 1024 != 0)))

/-- Seats that a packet touches, by their number in the team. -/
def packetSeats (p : Packet) (t : Task) : List Nat :=
  (if namesSeat p then [packetSeat p t] else []) ++ (if p.kind then [dataSeat p t] else [])

/-- Every seat of a team gallery has ended. -/
def Task.galEnded (t : Task) (k : Nat) : Bool :=
  (List.range t.width).all (fun j => t.ended.contains (t.width * k + j) || decide (t.nseats ≤ t.width * k + j))
/-- No seat of a team gallery runs on, and one of them is saved: its window is in its gallery block, or will be (22 R403). -/
def Task.galSaved (t : Task) (k : Nat) : Bool :=
  let mine := (List.range t.width).map (t.width * k + ·)
  mine.all (fun j => t.saved.contains j || t.ended.contains j || decide (t.nseats ≤ j)) && mine.any (fun j => t.saved.contains j)

/-- The destination cannot receive yet: its team has no cores, or a seat that the packet touches is saved, or for a window every seat of
the gallery that has not ended is. A packet also stays behind a held one of its pair (02 R38, 22 R404). -/
def State.mustHold (s : State) (p : Packet) (t : Task) : Bool :=
  t.state == .pending || t.state == .ready || t.state == .saved
    || (packetSeats p t).any (fun j => t.saved.contains j)
    || (!p.kind && t.galSaved p.gal)
    || (p.paired && s.spill.any (fun e => e.2.paired && e.2.pair == p.pair))

/-- Bytes of a spill area: 0xE_0000 to 0xF_FFFF of a block, the port's store for a team that has no blocks yet being as large (22 R400,
R404; log 38). -/
def spillBytes : Nat := 0x20000
/-- The seat in whose block a packet is held: position 0 of the gallery for a window whose seats are all saved, else the seat concerned
(22 R404). -/
def spillSeat (p : Packet) (t : Task) : Nat :=
  if !p.kind && t.galSaved p.gal then t.width * p.gal
  else match (packetSeats p t).filter (fun j => t.saved.contains j) with
  | j :: _ => j
  | [] => (packetSeats p t).headD (t.width * p.gal)
/-- Bytes that a held packet takes: header and payload. -/
def heldBytes (p : Packet) : Nat := 32 + p.payload.length
def ofTask (t : Task) (p : Packet) : Bool := p.job.toNat == t.job && p.taskid.toNat == t.taskid
/-- The packets held in the area of one seat of a task, oldest first. -/
def State.areaOf (s : State) (t : Task) (seat : Nat) : List Packet := (s.spill.filter (fun e => ofTask t e.2 && e.1 == seat)).map (·.2)
/-- A held packet as it stands in a spill area: the bytes of its header, then its payload (log 38). -/
def spillImage (p : Packet) : List PByte :=
  (natToBytes 8 (p.ty.toNat + p.gen.toNat * 2 ^ 8 + p.job.toNat * 2 ^ 16 + p.taskid.toNat * 2 ^ 32 + p.smod.toNat * 2 ^ 48)
    ++ natToBytes 8 (p.world.toNat + p.sseat.toNat * 2 ^ 8 + boolNat p.sq * 2 ^ 18 + p.pseq.toNat * 2 ^ 32 + p.aux.toNat * 2 ^ 48)
    ++ natToBytes 8 (p.addr.toNat + p.len.toNat * 2 ^ 40 + p.flag.toNat * 2 ^ 56) ++ natToBytes 8 p.val.toNat ++ p.payload).map (·, false)
/-- A packet joins its area. -/
def State.spillTo (s : State) (p : Packet) (t : Task) : State := { s with spill := s.spill ++ [(spillSeat p t, p)] }
/-- The area with the packet, written to the block of its seat where the team has blocks (22 R404). -/
def State.holdIo (s : State) (p : Packet) (t : Task) : Io State :=
  let u := s.spillTo p t
  match t.blocks[spillSeat p t]? with
  | some b =>
    let area := (u.areaOf t (spillSeat p t)).flatMap spillImage
    u.areaPut t.job t.world (u.blockVa t.job b + 0xE0000) (area.length - heldBytes p) area
  | none => .ok u
/-- A packet held. -/
def State.hold (s : State) (p : Packet) (t : Task) : State := (s.holdIo p t).get (s.spillTo p t)
/-- A packet that must be held does not fit in its area, or the area's page is being migrated (04 R83): it waits at its sender's port, its
pair behind it (02 R38, 22 R404). -/
def State.spillFull (s : State) (p : Packet) : Bool :=
  match s.liveTask p.job.toNat p.taskid.toNat with
  | none => false
  | some t =>
    s.mustHold p t && (decide (spillBytes < heldBytes p + ((s.areaOf t (spillSeat p t)).map heldBytes).foldl (· + ·) 0)
      || (match s.holdIo p t with
        | .held => true
        | _ => false))

/-! Performing (06 R125, 11 R225 to R227, 13 R266). -/

/-- Data written through the external or shared port. -/
def State.portWrite (s : State) (h : Option Home) (bs : List Byte) : State :=
  match h with
  | none => s
  | some h =>
    match writeHome s h (full bs) false with
    | .ok t => t
    | .error _ => s

/-- WRITE and WRITEF: the data, then the flag; one for a seat that has ended is dropped (DESIGN CHOICE, log 97). -/
def State.performWrite (s : State) (p : Packet) (t : Task) : State :=
  let s1 := s.portWrite (s.packetHome p t) p.payload
  if p.ty.toNat = tyWritef then
    match s.seatCore t (packetSeat p t) with
    | some c => s1.flagAt c p.flag.toNat (.add p.val)
    | none => s1
  else s1

/-- FADD, FSET and FADDB at the destination port; a FADDB finds its flag, and answers, where the seat applies it (03 R60, 11 R227).
DESIGN CHOICE (log 97): an operation for a seat that has ended, while its team has not, has no effect and counts as performed. -/
def State.performFlag (s : State) (p : Packet) (t : Task) : State :=
  match s.seatCore t (packetSeat p t) with
  | none => s
  | some c =>
    s.flagAt c p.flag.toNat (if p.ty.toNat = tyFaddb then .bounded p else if p.ty.toNat = tyFset then .set p.val else .add p.val)

/-- FETCH at the destination port; a poisoned word sends no data (21 R378). DESIGN CHOICE (log 97): one for an ended seat's scratchpad has no
home, and is not answered. -/
def State.performFetch (s : State) (p : Packet) (t : Task) : State :=
  match s.packetHome p t with
  | none => s
  | some h =>
    match s.portBytes h (spanOfPacket p) with
    | .error code => s.rejectPacket p code
    | .ok (u, bs) =>
      if bs.any (·.2) then u.rejectPacket p .poison
      else u.respond p tyFetchRsp (bs.map (·.1)) (match h with
        | .near c _ => galOf c
        | .vault g _ => g
        | _ => 0) ((if 36 ≤ p.port then s.clock + 1 else s.clock) + fixTime s u)

/-- Byte of its slot at which a packet of a channel lands. -/
def Chan.slotByte (e : Chan) (p : Packet) : Nat :=
  let base := if windowOf e.w0 = some .scratch then field e.w0 17 0 else field e.w0 21 0
  let at_ := if p.kind then p.off % 2 ^ 18 else p.off
  (at_ + 2 ^ 22 - base) % 2 ^ 22
/-- The slot whose trailer entry lies at a byte of the ring. -/
def Chan.trailerSlot (e : Chan) (p : Packet) : Nat := (e.slotByte p - e.depth * e.slot) / 64

/-- SEND and PUBW at the entry that PCH names (R266, 21 R382). -/
def State.performChannel (s : State) (p : Packet) (t : Task) : State :=
  match s.seatCore t (packetSeat p t) with
  | none => s
  | some c =>
    let ch := p.aux.toNat % 64
    let e := sget {} (s.core c).rf.chans ch
    let add (u : State) : State := u.flagAt c p.flag.toNat (.add p.val)
    if e.valid && e.consumer && e.cls != 0 then
      if e.rejected then s
      else
        let s1 := s.portWrite (s.packetHome p t) p.payload
        if p.ty.toNat = tySend then
          s1.modCore c (·.modChan ch (fun h => { h with
            ares := word64 ((h.ares.toNat + wireResidue e.cls (e.slotByte p % e.slot) p.payload) % classMod e.cls) }))
        else if e.ares.toNat = bytesToNat (p.payload.take 8) then add (s1.modCore c (·.modChan ch (fun h => { h with ares := 0 })))
        else
          let hdr := headerOf (p.payload.drop 32)
          s1.modCore c (fun k => { k.modChan ch (fun h => { h with ares := 0, rejected := true }) with
            late := { code := .resarrive, src := 2, opSlot := 6, value := hdr.1, info := hdr.2, word := p.word10
                      addr := e.w0 + word64 (e.trailerSlot p * e.slot) } :: k.late })
    else
      let s1 := s.portWrite (if p.payload.isEmpty then none else s.packetHome p t) p.payload
      if p.ty.toNat = tyPubw then add s1 else s1

/-- DIAGINJ changes one payload byte of a matching packet of the open world that another module sent (23 R414). -/
def State.inject (s : State) (p : Packet) : State × Packet :=
  let d := s.host.diaginj
  let i := field d 23 16
  if d.getLsbD 0 ∧ field d 6 1 = p.port ∧ field d 12 8 = p.ty.toNat ∧ i < p.payload.length ∧ p.world = 0 then
    (({ s with host := { s.host with diaginj := d &&& ~~~1 } } : State),
     { p with payload := p.payload.set i (p.payload.getD i 0 ^^^ BitVec.ofNat 8 (field d 31 24)) })
  else (s, p)

/-- A packet performs, or is held, or is rejected by row 5; its world is checked against the segment table as it stands then (14 Table 14.8).
A place that row 3 kept in a pair has no effect. -/
def State.settle (s : State) (p : Packet) : State :=
  if p.ty = 0 then s
  else match s.liveTask p.job.toNat p.taskid.toNat with
  | none => s.rejectPacket p .podtarget
  | some t =>
    if s.mustHold p t then s.hold p t
    else if !s.worldOk p then s.rejectPacket p .segment
    else if !s.targetOk p t then s.rejectPacket p .podtarget
    else
      let ty := p.ty.toNat
      if ty = tyWrite ∨ ty = tyWritef then s.performWrite p t
      else if ty = tyFadd ∨ ty = tyFset ∨ ty = tyFaddb then s.performFlag p t
      else if ty = tyFetch then s.performFetch p t
      else if ty = tySend ∨ ty = tyPubw then s.performChannel p t
      else s

/-- Held packets of a task perform in their order once it is placed (02 R38, 22 R406). -/
def State.unspill (s : State) (t : Task) (ps : List Packet) : State :=
  ps.foldl State.settle { s with spill := s.spill.filter (fun e => !ofTask t e.2) }

/-- A held packet as the bytes of its area give it back; what the area does not hold comes from the packet. -/
def spillRead (q : Packet) (bs : List Byte) : Packet :=
  let w (i hi lo : Nat) : Nat := field (BitVec.ofNat 64 (bytesToNat ((bs.drop (8 * i)).take 8))) hi lo
  { q with
    ty := BitVec.ofNat 5 (w 0 4 0), gen := BitVec.ofNat 8 (w 0 15 8), job := BitVec.ofNat 16 (w 0 31 16), taskid := BitVec.ofNat 16 (w 0 47 32)
    smod := BitVec.ofNat 12 (w 0 59 48), world := BitVec.ofNat 5 (w 1 4 0), sseat := BitVec.ofNat 10 (w 1 17 8), sq := w 1 18 18 == 1
    pseq := BitVec.ofNat 16 (w 1 47 32), aux := BitVec.ofNat 16 (w 1 63 48), addr := BitVec.ofNat 40 (w 2 39 0), len := BitVec.ofNat 9 (w 2 48 40)
    flag := BitVec.ofNat 8 (w 2 63 56), val := BitVec.ofNat 32 (w 3 31 0), payload := bs.drop 32 }

/-- The held packets of a task as its blocks give them back; an area that cannot be read, or holds a poisoned sector, fails (22 R406, R407). -/
def State.spillBack (s : State) (t : Task) : Io (State × List Packet) :=
  ((s.spill.filter (fun e => ofTask t e.2)).foldl (fun (acc : Io (State × List Packet × List Nat)) e => acc.bind (fun u =>
    let off := ((s.areaOf t e.1).take ((u.2.2.filter (· == e.1)).length)).map heldBytes
    match t.blocks[e.1]? with
    | none => .ok (u.1, u.2.1 ++ [e.2], u.2.2 ++ [e.1])
    | some b => (u.1.ioRead t.job t.world (u.1.blockVa t.job b + 0xE0000 + off.foldl (· + ·) 0) (heldBytes e.2)).bind (fun r =>
        .ok (r.1, u.2.1 ++ [spillRead e.2 r.2], u.2.2 ++ [e.1])))) (.ok (s, [], []))).bind (fun u => .ok (u.1, u.2.1))

/-! Arrival (15 R297, 21 R379). -/

/-- A port out of service, with the module's count of them (18 R335, R338). -/
def State.dropPort (s : State) (n : Nat) : State :=
  let t := s.modPort n (fun x => { x with inService := false })
  t.askReplace (decide (4 ≤ t.portsOut))

/-- A packet whose acknowledgement has not come, and never will on its port, sent again by one that can send; lost where none is in service,
and then counted as performed (21 R385, R386). -/
def State.sendAgain (s : State) (e : Packet × Bool) : State :=
  match s.sendPort e.1.job.toNat e.1.dmod.toNat with
  | .notYet => s
  | .unreachable =>
    ({ s with unacked := s.unacked.erase e, lateral := s.lateral.filter (fun f => f.own || f.pkt != e.1) } : State).losePacket e.1 e.1.port
  | .port n =>
    let q : Packet := { e.1 with port := n }
    let due := s.clock + s.podTime q.job.toNat q.dmod.toNat
    { s.modPort n (fun x => { x with sent := x.sent + 1 }) with
      out := s.out ++ [q], unacked := s.unacked.map (fun x => if x = e then (q, false) else x)
      lateral := s.lateral.map (fun f => if !f.own && f.pkt == e.1 then { f with pkt := q, ready := due } else f) }
/-- Everything that has still to be sent again. -/
def State.sendAllAgain (s : State) : State := (s.unacked.filter (·.2)).foldl State.sendAgain s

/-- Unacknowledged packets of a port are sent again on another, at once or when one can send (21 R385). -/
def State.resendPort (s : State) (n : Nat) : State :=
  ({ s with unacked := s.unacked.map (fun e => if e.1.port = n then (e.1, true) else e) } : State).sendAllAgain

/-- Responses and rejects that waited for a port. -/
def State.sendReplies (s : State) : State := s.replies.foldl State.emit { s with replies := [] }

/-- Packets that wait for an earlier PSEQ, or for room to be held, now that it has come. -/
def State.drainEarly (s : State) (k : PairKey) : Nat → State
  | 0 => s
  | fuel + 1 =>
    let n := seqOf s.recvSeq k
    match s.early.find? (fun p => p.pair == k && p.pseq.toNat == n) with
    | none => s
    | some p =>
      if s.spillFull p then s
      else
      (({ s with early := s.early.erase p, recvSeq := seqPut s.recvSeq k ((n + 1) % 65536) } : State).settle p).drainEarly k fuel
/-- Every pair that has packets waiting. -/
def State.drainAll (s : State) : State := (s.early.map (·.pair)).foldl (fun u k => u.drainEarly k u.early.length) s

/-- A copy of a request whose first copy waits here, or whose response has not been acknowledged yet (21 R385). -/
def State.seenRequest (s : State) (p : Packet) : Bool :=
  s.spill.any (fun e => e.2.ty == p.ty && same e.2 && e.2.smod == p.smod) ||
    (s.unacked.map (·.1) ++ s.replies).any (fun q => (q.ty.toNat == tyFetchRsp || q.ty.toNat == tyFaddbRsp) && same q && q.dmod == p.smod)
where
  same (q : Packet) : Bool := q.job == p.job && q.taskid == p.taskid && q.sseat == p.sseat && q.aux == p.aux

/-- A record received under the link's key. -/
def State.received (s : State) (n : Nat) : State := s.modPort n (fun x => { x with recvd := x.recvd + 1 })

/-- Row 4 and the pair's order: a packet already applied is dropped, the next one performs, a later one waits. One that has passed the rows
is what DIAGINJ changes, in the order of arrival (23 R414). -/
def State.inOrder (s : State) (p : Packet) : State :=
  if !p.paired then
    if s.seenRequest p || s.spillFull p then s
    else
      let r := s.inject p
      r.1.settle r.2
  else
    let d := (p.pseq.toNat + 65536 - seqOf s.recvSeq p.pair) % 65536
    if 32768 ≤ d ∨ s.early.any (fun q => q.pair == p.pair && q.pseq == p.pseq) then s
    else
      let r := s.inject p
      ({ r.1 with early := r.1.early ++ [r.2] } : State).drainEarly p.pair (s.early.length + 1)

/-- The record of the first discard of a retired tag at a port. -/
def State.discardTag (s : State) (p : Packet) : State :=
  let k := (p.job.toNat, p.taskid.toNat, p.gen.toNat, p.port)
  if s.discarded.contains k then s
  else ({ s with discarded := s.discarded ++ [k] } : State).recordEvent .genretired p.identity 0 1 0 (portUnit p.port)
    (s.cycOf p.identity)

/-- A packet that fails row 1 (21 R385). -/
def State.linkAuth (s : State) (p : Packet) : State :=
  ((s.recordEvent .linkauth 0 0 0 0 (portUnit p.port)).dropPort p.port).resendPort p.port

/-- What an arriving packet comes to. On the own module only a killed run's operation and rows 3, 5 and 6 count. A packet that row 3 rejects
still uses up its PSEQ: its place in the pair is kept by a packet of no type. One that must be held, and has no room, stays with its sender. -/
def State.arrive (s0 : State) (p : Packet) : State :=
  if 36 ≤ p.port then
    if s0.tagRetired p then s0 else if !s0.worldOk p then s0.rejectPacket p .segment else s0.settle p
  else if !(sget {} s0.ports p.port).inService then s0
  else if !p.tagOk then s0.linkAuth p
  else
  let s := s0.received p.port
  if !s.tagLive p then s.discardTag p
  else if !s.worldOk p then
    let d := (p.pseq.toNat + 65536 - seqOf s.recvSeq p.pair) % 65536
    if p.paired ∧ (32768 ≤ d ∨ s.early.any (fun q => q.pair == p.pair && q.pseq == p.pseq)) then s
    else if p.paired then (s.rejectPacket p .segment).inOrder { p with ty := 0, payload := [] } else s.rejectPacket p .segment
  else s.inOrder p

/-- An arrival of a type, and no other. -/
def State.arriveAs (s : State) (ty : Nat) (p : Packet) : Out := .next (if p.ty.toNat = ty then s.arrive p else s)

def execFlightWriteArrival (p : Packet) (s : State) : Out := s.arriveAs tyWrite p
def execFlightWritefArrival (p : Packet) (s : State) : Out := s.arriveAs tyWritef p
def execFlightFaddArrival (p : Packet) (s : State) : Out := s.arriveAs tyFadd p
def execFlightFsetArrival (p : Packet) (s : State) : Out := s.arriveAs tyFset p
def execFlightFaddbArrival (p : Packet) (s : State) : Out := s.arriveAs tyFaddb p
def execFlightFetchArrival (p : Packet) (s : State) : Out := s.arriveAs tyFetch p
def execFlightSendArrival (p : Packet) (s : State) : Out := s.arriveAs tySend p
def execFlightPubwArrival (p : Packet) (s : State) : Out := s.arriveAs tyPubw p

/-- A response's bytes reach the landing entry that its tag names, once. -/
def State.answered (s0 : State) (p : Packet) : State :=
  if !(sget {} s0.ports p.port).inService then s0
  else if !p.tagOk then s0.linkAuth p
  else
    let s := s0.received p.port
    if !s.tagLive p then s.discardTag p
    else
      let r := s.inject p
      r.1.answerTag p (fun l => { l with data := vecOfBytes r.2.payload, left := 0, ready := s.clock })

/-- FADDB.RSP; GEN = 0 marks a reject, which REJECT_ARRIVAL takes. -/
def execFlightFaddbRspArrival (p : Packet) (s : State) : Out :=
  .next (if p.ty.toNat = tyFaddbRsp ∧ p.gen ≠ 0 then s.answered p else s)
def execFlightFetchRspArrival (p : Packet) (s : State) : Out := .next (if p.ty.toNat = tyFetchRsp then s.answered p else s)

/-- The TYPE of the packet that a reject carries. -/
def rejectedType (r : Packet) : Nat := bytesToNat (r.payload.take 1) % 32
/-- A packet that a reject names, by what the reject carries of it: AUX has the tag of a request, else the PSEQ (15 R297). -/
def rejects (r p : Packet) : Bool :=
  p.job == r.job && p.taskid == r.taskid && p.sseat == r.sseat && p.sq == r.sq && p.addr == r.addr && p.dmod == r.smod
    && p.ty.toNat == rejectedType r && (if p.isRequest then p.aux == r.aux else p.pseq == r.aux)

/-- REJECT_ARRIVAL (R381): the operation counts as performed, and its event goes to its source, unless the tag it was sent under is live no
more: the tag of the packet sent last that the reject names, or of the request. -/
def execRejectArrival (p : Packet) (s0 : State) : Out :=
  if p.ty.toNat ≠ tyFaddbRsp ∨ p.gen ≠ 0 ∨ !(sget {} s0.ports p.port).inService then .next s0
  else if !p.tagOk then .next (s0.linkAuth p)
  else
    let s := s0.received p.port
    let ty := rejectedType p
    let num := bytesToNat ((p.payload.drop 1).take 1)
    let code : Code := if num = Code.num .segment then .segment else if num = Code.num .poison then .poison else .podtarget
    let s1 : State := { s with lateral := s.lateral.filter (fun x => x.own || !rejects p x.pkt)
                               unacked := s.unacked.filter (fun x => !rejects p x.1) }
    if ty = tyFetch ∨ ty = tyFaddb then .next (s1.charge { p with ty := BitVec.ofNat 5 ty, dmod := p.smod } code)
    else match s.out.reverse.find? (rejects p) with
      | some q => .next (s1.charge { p with ty := BitVec.ofNat 5 ty, gen := q.gen, dmod := p.smod } code)
      | none => .next s1

/-! Links (14 R283, 21 R385). -/

/-- Fresh keys of both directions and a fresh salt, with no record under them yet (14 R283; log 6). -/
def State.freshKeys (s : State) (n : Nat) : State :=
  { s.modPort n (fun x => { x with keyOut := s.serial, keyIn := s.serial + 1, salt := Config.linkSalt s.serial, sent := 0, recvd := 0 }) with
    serial := s.serial + 2 }
/-- One of the link's keys has protected 2³² records. -/
def Port.worn (x : Port) : Bool := x.keyed && (decide (keyRecords ≤ x.sent) || decide (keyRecords ≤ x.recvd))

/-- LINK_KEY_DERIVE: a trained link has its keys; what waited for a port leaves. -/
def execLinkKeyDerive (port : Nat) (s : State) : Out :=
  .next (if (sget {} s.ports port).inService ∧ s.host.stage = 6 then
      ((s.freshKeys port).modPort port (fun x => { x with keyed := true, linkUp := true })).sendAllAgain.sendReplies else s)
/-- LINK_REKEY: fresh keys after 2³² records in either direction. -/
def execLinkRekey (port : Nat) (s : State) : Out :=
  .next (if (sget {} s.ports port).worn then s.freshKeys port else s)
/-- FLIGHT_LINK_ARRIVAL: link management of a rekey that the other end began. -/
def execFlightLinkArrival (p : Packet) (s : State) : Out :=
  if p.ty.toNat ≠ 0x1F ∨ !(sget {} s.ports p.port).inService then .next s
  else if !p.tagOk then .next (s.linkAuth p)
  else .next (if (sget {} s.ports p.port).keyed then s.freshKeys p.port else s)
/-- FLIT_CRC_FAIL: the data link replays the flit, which counts as CORRECTED. -/
def execFlitCrcFail (port : Nat) (s : State) : Out :=
  .next ((s.modPort port (fun x => { x with crcFails := x.crcFails + 1 })).countCorrected (portUnit port))
/-- LINKDOWN: replay has failed; the link retrains, and what was not acknowledged is sent again elsewhere. -/
def execLinkdown (port : Nat) (s : State) : Out :=
  .next (((s.modPort port (fun x => { x with linkUp := false, keyed := false, downSince := s.wall })).recordEvent .linkdown 0 0 0 0
    (portUnit port)).resendPort port)
/-- A port in service whose link has not trained for 100 ms (18 R335). -/
def State.untrained (s : State) (port : Nat) : Bool :=
  let x := sget {} s.ports port
  !x.linkUp && x.inService && decide (x.downSince + 100000 * wallUnits ≤ s.wall)
/-- LINK_RETRAIN_TIMEOUT: it goes out of service. -/
def execLinkRetrainTimeout (port : Nat) (s : State) : Out :=
  .next (if s.untrained port then (s.dropPort port).resendPort port else s)

/-! Operations on their way (06 R124, R423). -/

/-- The step at which a packet performs. -/
def arrivalOf (p : Packet) : Instr :=
  let t := p.ty.toNat
  if t = tyWritef then .flightWritefArrival p
  else if t = tyFadd then .flightFaddArrival p
  else if t = tyFset then .flightFsetArrival p
  else if t = tyFaddb then .flightFaddbArrival p
  else if t = tyFetch then .flightFetchArrival p
  else if t = tySend then .flightSendArrival p
  else if t = tyPubw then .flightPubwArrival p
  else if t = tyFaddbRsp then if p.gen = 0 then .rejectArrival p else .flightFaddbRspArrival p
  else if t = tyFetchRsp then .flightFetchRspArrival p
  else .flightWriteArrival p

/-- An earlier access of the seat of a FETCH to the same bytes has still to perform (06 R114, R117). -/
def State.fetchWaits (s : State) (i : Nat) (f : Flight) : Bool :=
  match s.fetchHome f with
  | none => false
  | some h =>
    let n := spanOfPacket f.pkt
    (s.lateral.take i).any (fun e => e.pkt.job == f.pkt.job && e.pkt.taskid == f.pkt.taskid && e.pkt.sseat == f.pkt.sseat && s.fetchMeets e h n)
    || (match s.coreOf f.pkt.job.toNat f.pkt.taskid.toNat f.pkt.sseat.toNat with
      | some c => (s.core c).pend.any (fun q => decide (q.iss < f.iss) && (match q.home with
        | some a => a.meets q.n h n
        | none => false))
      | none => false)

/-- A FETCH of vault bytes that a release buffer holds back (19 R354). -/
def State.flightHidden (s : State) (f : Flight) : Bool := ((s.fetchHome f).map (fun h => s.hides Config.cores h (spanOfPacket f.pkt))).getD false

/-- Operations that may perform, seen from the end of a clock. One that brings data performs behind the core ports' accesses of its own clock
(06 R118), a flag operation or a read ahead of the next clock, in which it is seen (03 R60). None of their pair stands before them, a FETCH has no earlier access of its seat to wait for, one that must be held has room, and one on its way
to another module has not to be sent again. -/
def State.readyFlights (s : State) : List (Nat × Flight) :=
  ((List.range s.lateral.length).zip s.lateral).filter (fun e =>
    decide (e.2.ready ≤ s.clock + (if e.2.pkt.payload.isEmpty then 1 else 0))
      && !((s.lateral.take e.1).any (fun f => f.pkt.paired && e.2.pkt.paired && f.pkt.pair == e.2.pkt.pair))
      && (if e.2.own then !s.fetchWaits e.1 e.2 && !s.flightHidden e.2 && !s.spillFull e.2.pkt else !s.unacked.contains (e.2.pkt, true)))

/-- A write on its way that merges into a word with a single error, which is corrected first (21 R420). -/
def State.flightMerge (s : State) (f : Flight) : Option State :=
  if f.own && !f.pkt.payload.isEmpty then
    ((s.liveTask f.pkt.job.toNat f.pkt.taskid.toNat).bind (fun t => s.packetHome f.pkt t)).bind (fun h => s.preMerge h (full f.pkt.payload))
  else none

/-- One of them performs, in an order that the spec leaves open; on another module it only counts as performed, and is acknowledged. -/
def State.lateralTurn (s : State) : State :=
  let l := s.readyFlights
  match l[Config.pick s.fresh % l.length]? with
  | none => s
  | some (i, f) =>
    match s.flightMerge f with
    | some u => { u with fresh := u.fresh + 1, lateral := u.lateral.set i { f with ready := s.clock + 12 }, agenda := .lateral :: u.agenda }
    | none =>
    let t : State := { s with fresh := s.fresh + 1, lateral := s.lateral.eraseIdx i, unacked := s.unacked.erase (f.pkt, false) }
    { t with agenda := (if f.own then [.run (arrivalOf f.pkt)] else []) ++ .lateral :: t.agenda }

end Sys2Proof.Machine
end

