-- ==== Sys2Proof/Machine/Image.lean ====
section
/-! DEFINITION. The saved-state image of a seat as bytes (22 R400, R401, Tables 22.2 to 22.4), a seat read back from it, and the header of a
dump (19 Table 19.5). Where the tables name a part without the layout of its entries (hold latches, replay and snapshot registers, landing
buffer, hold buffers, TST snapshot) the layout is the model's choice (log 15). -/

namespace Sys2Proof.Machine
open Sys2Proof

/-- Bytes that stand from an offset on. -/
abbrev Part := Nat × List Byte

def words8 (l : List Nat) : List Byte := l.flatMap (natToBytes 8)
def words4 (l : List Nat) : List Byte := l.flatMap (natToBytes 4)

/-- Registers of a seat or of a region frame, at the image's own offsets. -/
structure RegBlock where
  s       : Sparse Word
  sPoison : List Nat
  p       : Sparse Word
  dom     : List Word
  allot   : Nat
  rbase   : Nat
  rsize   : Nat
  rrb     : Nat
  lcnt    : W32
  cst     : Word
  cyc     : Nat := 0
  frz     : Nat := 0
  rgd     : Nat := 0
  pc      : Nat := 0
  prc     : Nat := 0
  prcv    : Bool := false
  rstack  : List Nat
  srg     : W32
  xpWr    : Nat := 0
  xpRd    : Nat := 0
  xpBank  : Nat := 0
  dq      : Nat
  dqHeld  : Nat
  chans   : Sparse Chan
  deriving DecidableEq, Repr

/-- Scalar file, SPOISON, predicates, control block (Table 22.4), channel table and its hidden state. The deferral queue is saved with the
oldest entry retained at entry 0, so that its head is the number retained, modulo 2,048. -/
def RegBlock.parts (r : RegBlock) : List Part :=
  let chan (i : Nat) : Chan := sget {} r.chans i
  let ret := r.rstack.reverse
  [(0x100, words8 ((List.range 64).map (fun n => if n = 0 then 0 else (sget 0 r.s n).toNat))),
   (0x300, natToBytes 8 ((r.sPoison.map (2 ^ ·)).foldl (· + ·) 0)),
   (0x380, words8 ((List.range 16).map (fun n => if n = 0 then 2 ^ 64 - 1 else (sget 0 r.p n).toNat))),
   (0x400, words8 (r.dom.map (·.toNat))),
   (0x420, words8 [r.allot, r.rbase, r.rsize, r.rrb, r.lcnt.toNat, r.cst.toNat, r.cyc, r.frz, r.rgd,
     r.pc % 2 ^ 16 + r.prc * 2 ^ 16 + boolNat r.prcv * 2 ^ 25 + r.rstack.length * 2 ^ 26,
     r.srg.toNat + r.xpWr * 2 ^ 32 + r.xpRd * 2 ^ 40 + r.xpBank * 2 ^ 48,
     packNat 16 ((List.range 4).map (fun i => ret.getD i 0)), packNat 16 ((List.range 4).map (fun i => ret.getD (4 + i) 0)),
     r.dqHeld % 2 ^ 11 + r.dq * 2 ^ 16 + r.dqHeld * 2 ^ 32]),
   (0xC00, (List.range 64).flatMap (fun i => words8 [(chan i).w0.toNat, (chan i).w1.toNat, (chan i).w2.toNat, (chan i).w3.toNat])),
   (0x1400, (List.range 64).flatMap (fun i =>
     words8 [(if (chan i).w1.getLsbD 1 then (chan i).ares else (chan i).ores).toNat, (chan i).left.toNat, (chan i).right.toNat,
       boolNat (chan i).rejected]))]

def Core.regBlock (k : Core) : RegBlock :=
  { s := k.rf.s, sPoison := k.rf.sPoison, p := k.rf.p, dom := k.dom, allot := k.rf.allot, rbase := k.rf.rbase, rsize := k.rf.rsize
    rrb := k.rf.rrb, lcnt := k.rf.lcnt, cst := k.cst, cyc := k.cyc, frz := k.frz, rgd := k.rgd, pc := k.pc, prc := k.rf.prc
    prcv := k.rf.prcv, rstack := k.rstack, srg := k.srg, xpWr := k.xpWr, xpRd := k.xpRd, xpBank := k.xpBank, dq := k.dq.length
    dqHeld := k.dqRetained.length, chans := k.rf.chans }

def Frame.regBlock (f : Frame) : RegBlock :=
  { s := f.s, sPoison := f.sPoison, p := f.p, dom := f.dom, allot := f.allot, rbase := f.rbase, rsize := f.rsize, rrb := f.rrb
    lcnt := f.lcnt, cst := word64 (f.phase * 2 ^ 16), rstack := f.rstack, srg := f.srg, dq := f.dq.length, dqHeld := f.dqRetained.length
    chans := f.chans }

/-- A region frame of 8 KiB (R401); `held` is the size of its level's hold buffer. -/
def Frame.parts (f : Frame) (held : Nat) : List Part :=
  let recs := f.keeps.reverse
  [(0, words8 [f.restart + f.limit * 2 ^ 16 + f.retry * 2 ^ 20, f.kept, held]),
   (0x1C00, recs.flatMap (fun e => words8 [e.1.toNat, e.2.1]))] ++ f.regBlock.parts

/-- Sticky state of slot j, 32 bytes. -/
def stickyBytes (y : StickyState) : List Byte :=
  words8 [y.sw.toNat, (y.sa.getD 0 0).toNat, (y.sa.getD 1 0).toNat, y.so % 128 + boolNat y.sv * 2 ^ 8]
/-- The second base and descriptor of an MMA with two operands in memory, for which Table 22.2's 16 bytes of SA have no room: DESIGN CHOICE
(log 104), 16 bytes for each slot at 0x1CA0. -/
def stickyMore (y : StickyState) : List Byte := words8 [(y.sa.getD 2 0).toNat, (y.sa.getD 3 0).toNat]
/-- Sticky state read back, from its 32 bytes and the 16 at 0x1CA0; SO's bits above [6:0] stand in the record of the save (log 90). -/
def StickyState.ofBytes (y : StickyState) (bs more : List Byte) : StickyState :=
  let w (l : List Byte) (i : Nat) : Word := BitVec.ofNat 64 (bytesToNat ((l.drop (8 * i)).take 8))
  { sv := (w bs 3).getLsbD 8, sw := w bs 0, so := y.so / 128 * 128 + field (w bs 3) 6 0
    sa := [w bs 1, w bs 2, w more 0, w more 1].take y.sa.length }

def SeqMode.num : SeqMode → Nat
  | .idle => 0
  | .running => 1
  | .waiting => 2

/-- The sequencer's registers: c0 to c7, the queue, then the rest with the number of queued requests (log 15); PROG's bits [15:0] (log 93). -/
def seqParts (q : Seq) : List Part :=
  [(0x1D00, words8 (q.c.map (·.toNat))),
   (0x1D40, q.cpq.flatMap (fun r => words8 ([r.addr + r.flag * 2 ^ 16, 0] ++ r.c.map (·.toNat)))),
   (0x1FC0, words8 [q.mpc + q.prog % 2 ^ 16 * 2 ^ 16 + q.cflag * 2 ^ 32 + q.mode.num * 2 ^ 40 + q.cpq.length * 2 ^ 48, packNat 16 q.lc])]

/-- A deferral-queue entry: the lane, then its values. -/
def DEntry.bytes (e : DEntry) : List Byte := words4 ([e.lane] ++ (List.range 4).map (fun i => (e.vals.getD i 0).toNat))

/-! Parts whose entries the spec does not lay out (log 15). -/

/-- Hold latches: values of the vector-capable slots 2 to 6, then of A0, A1 and B, then a byte each of valid and class. -/
def RegFile.latchParts (r : RegFile) : List Part :=
  let at_ (j f : Nat) : Latch := sget {} r.latches (3 * j + f)
  [(0x2000, [2, 3, 4, 5, 6].flatMap (fun j => (List.range 3).flatMap (fun f => vecBytes (at_ j f).value))),
   (0x2F00, [0, 1, 7].flatMap (fun j => (List.range 3).flatMap (fun f => vecBytes (at_ j f).value 8))),
   (0x2F80, (List.range 8).flatMap (fun j => (List.range 3).flatMap (fun f => natToBytes 1 (boolNat (at_ j f).valid + boolNat (at_ j f).vec * 2))))]

/-- Source values of an operation by field: D, S1, S2. A field that names a source holds it; a span of registers takes the fields that are
left, D first, as does the second register of an EXACT RADD, and scalars those, S1 first, or one of them packed where they are more (log 15). -/
def Replay.fields (r : Replay) (op : SlotOp) : List Vec :=
  let s : State := { ctx := { src := r.src, slot := op.slot, step := op.step, sticky := op.sticky, sa := op.sa } }
  let named : List (Nat × Vec) := (sources op.ins).filterMap (fun x => match x with
    | .s g a => some (g, (s.rdS g a).setWidth 2048)
    | .v g st a => some (g, (s.rdV g st a).toOption.getD 0)
    | _ => none)
  let free (l : List Nat) : List Nat := l.filter (fun g => !named.any (fun e => e.1 == g))
  let vecs : List Vec := (sources op.ins).flatMap (fun x => match x with
    | .vr st n k => (List.range k).map (fun i => (s.rdV 0 st (.reg (n + BitVec.ofNat _ i))).toOption.getD 0)
    | _ => [])
  let scalars : List Nat := (sources op.ins).filterMap (fun x => match x with
    | .sr n => some (r.src.sreg n.toNat).toNat
    | _ => none)
  let slots := free [1, 2, 0]
  let packed : List (Nat × Vec) := if scalars.length ≤ slots.length then slots.zip (scalars.map (BitVec.ofNat 2048))
    else (slots.take 1).map (fun g => (g, BitVec.ofNat 2048 (packNat 64 scalars)))
  let pair := (s.exactPair op.ins).map r.src.vreg
  let all := named ++ (free [0, 1, 2]).zip (vecs ++ pair) ++ packed
  (List.range 3).map (fun g => ((all.find? (fun e => e.1 == g)).map (·.2)).getD 0)
/-- Address sources of an operation: those that SA captures, or the pointer and index of a generic access. -/
def Replay.address (r : Replay) (op : SlotOp) : List Word :=
  let s : State := { ctx := { src := r.src, slot := op.slot } }
  if op.sticky then op.sa
  else match op.ins with
    | .ldg _ _ _ _ a x _ _ | .fetch _ _ _ _ a x _ _ | .stg _ _ _ _ a x | .stNb _ _ _ a x _ _ => [s.rdS 1 a, r.src.sreg x.toNat]
    | .gath _ _ a _ _ _ | .scat _ _ a _ _ | .putf _ _ _ a _ _ _ => [s.rdS 1 a]
    | i => addressSrcs r.src (fun f => sget {} r.src.latches (3 * op.slot + f)) i
/-- The channel whose entry a C-slot operation reads. -/
def channelRead : Instr → Option ChReg
  | .send _ _ ch _ _ | .pubw _ ch _ | .recv _ ch _ _ _ | .wfree _ ch _ | .radd _ ch _ _ _ | .advr _ ch _ => some ch
  | _ => none
/-- Replay registers (19 Table 19.2): RHDR and RREP; D, S1 and S2 of slots 2 to 7, then of A0 and A1; G, by PRED of the slot's word; SA; the
channel entry as FC; the predicates that each slot reads beside its guard; and what SA has no room for (log 104). -/
def Replay.parts (r : Replay) : List Part :=
  let op (j : Nat) : Option SlotOp := r.ops.find? (fun o => o.slot == j)
  let fld (j f n : Nat) : List Byte := ((op j).map (fun o => vecBytes ((r.fields o).getD f 0) n)).getD (List.replicate n 0)
  let guard (j : Nat) : Nat := ((op j).map (fun o =>
    let g := (Fields.ofWord o.word).g
    (if g.neg then ~~~(r.src.preg g.pred.toNat) else r.src.preg g.pred.toNat).toNat)).getD 0
  let sa (j : Nat) : List Nat := ((op j).map (fun o => (r.address o).map (·.toNat))).getD []
  let pred (j : Nat) : List Nat := ((op j).map (fun o => (predSources o.ins).map (fun q => (r.src.preg q.toNat).toNat))).getD []
  let fc : List Nat := (((op 6).bind (fun o => channelRead o.ins)).map (fun ch =>
    let e := sget {} r.src.chans ch.toNat
    [e.w0.toNat, e.w1.toNat, e.w2.toNat, e.w3.toNat])).getD []
  [(0x3400, words8 [r.hdr.toNat + r.rep * 2 ^ 32]),
   (0x3500, [2, 3, 4, 5, 6, 7].flatMap (fun j => (List.range 3).flatMap (fun f => fld j f 256))),
   (0x4700, [0, 1].flatMap (fun j => (List.range 3).flatMap (fun f => fld j f 8))),
   (0x4740, words8 ((List.range 8).map guard)),
   (0x4780, words8 ((List.range 8).flatMap (fun j => [(sa j).getD 0 0, (sa j).getD 1 0]))),
   (0x4800, words8 fc),
   (0x4840, words8 ((List.range 8).flatMap (fun j => (List.range 3).map (fun i => (pred j).getD i 0)))),
   (0x4900, words8 ((List.range 8).flatMap (fun j => [(sa j).getD 2 0, (sa j).getD 3 0])))]

/-- Class and number of a destination, and the destination that they name. -/
def Dest.code : Dest → Nat
  | .s n => n
  | .p n => 0x10000 + n
  | .v n => 0x20000 + n
  | .special n => 0x30000 + n
  | .prc => 0x40000
def Dest.ofCode (n : Nat) : Dest :=
  match n / 2 ^ 16 with
  | 0 => .s (n % 2 ^ 16)
  | 1 => .p (n % 2 ^ 16)
  | 2 => .v (n % 2 ^ 16)
  | 3 => .special (n % 2 ^ 16)
  | _ => .prc
/-- Snapshot registers: SNAP, 0x110 bytes for each result in flight but those of a register-form TST: the value; the due schedule cycle, with a
valid bit; class and number. TSNAP: row i at 0x3_8000 + 256 i, then the due cycle with the valid bit, which rows there are, and their
destinations, 2 bytes each. -/
def snapParts (l : List Pend) : List Part :=
  let one (p : Pend) : List Byte := vecBytes p.value ++ words8 [p.due % 2 ^ 48 + 2 ^ 63, p.dest.code]
  let rows := l.filter (·.tst)
  [(0x4C00, ((l.filter (fun p => !p.tst)).take 112).flatMap one)] ++ rows.map (fun p => (0x38000 + 256 * p.row, vecBytes p.value))
    ++ ((rows.head?).map (fun p => (0x3C000, words8 [p.due % 2 ^ 48 + 2 ^ 63, (rows.map (fun q => 2 ^ q.row)).foldl (· + ·) 0]))).toList
    ++ rows.map (fun p => (0x3C010 + 2 * p.row, natToBytes 2 (p.dest.code % 2 ^ 16)))
/-- Landing entries, 0x110 bytes each: the data; the due schedule cycle, with ARRIVED and BUSY; PC, slot, destination. -/
def landingParts (m : Sparse (Option Landing)) : List Part :=
  m.filterMap (fun e => e.2.map (fun l => (0x1A000 + 0x110 * e.1, vecBytes l.data
    ++ words8 [l.due % 2 ^ 48 + boolNat l.arrived * 2 ^ 62 + 2 ^ 63, l.pc % 2 ^ 16 + l.slot * 2 ^ 16 + l.dest.code * 2 ^ 24])))
/-- Held operations, each 32 bytes and its payload (22 R392). -/
def heldParts (l : List (Nat × Remote)) : List Part :=
  [(0x30000, l.flatMap (fun h =>
    let p := h.2.pkts.headD {}
    words8 [h.1 + p.ty.toNat * 2 ^ 8 + h.2.pkts.length * 2 ^ 16 + h.2.pc * 2 ^ 32, h.2.word.toNat, p.addr.toNat + p.flag.toNat * 2 ^ 40,
      p.val.toNat] ++ h.2.pkts.flatMap (·.payload)))]

/-- What a seat's image holds, by offset: all that lies below the undo space, and the kept bytes of the open levels. -/
def Core.imageParts (k : Core) (status : Nat) (pcn : Nat) : List Part :=
  let frames := k.frames.reverse
  [(0, words4 [0x58544353, status] ++ words8 [k.identity.toNat, pcn])] ++ k.regBlock.parts
    ++ [(0x800, words4 ((List.range 256).map (fun f => (sget 0 k.flags f).toNat))),
        (0x1C00, [2, 3, 4, 5, 6].flatMap (fun j => stickyBytes (sget {} k.sticky j))),
        (0x1CA0, [2, 3, 4, 5, 6].flatMap (fun j => stickyMore (sget {} k.sticky j)))]
    ++ seqParts k.seq ++ k.rf.latchParts ++ ((k.replay.map Replay.parts).getD []) ++ snapParts k.inflight ++ landingParts k.landing
    ++ heldParts k.hold
    ++ [(0x10000, (k.dqRetained ++ k.dq).flatMap DEntry.bytes),
        (0x20000, (List.range 128).flatMap (fun r => vecBytes (sget 0 k.xpose r)))]
    ++ (frames.zip (List.range frames.length)).flatMap (fun e =>
          (e.1.parts (((k.hold.filter (fun h => h.1 == e.2 + 1)).map (fun h => h.2.bytes)).foldl (· + ·) 0)).map
            (fun q => (0x28000 + 0x2000 * e.2 + q.1, q.2)))
    ++ (List.range 8).map (fun t => (0x40000 + 0x4000 * t, (sget [] k.tiles t).flatMap vecBytes))
    ++ [(0x60000, k.rf.near.read 0 Config.nearBytes)]
    ++ (frames.zip (List.range frames.length)).map (fun e => (0xA0000 + 0x10000 * e.2, e.1.keeps.reverse.flatMap (fun r => r.2.2.1)))

/-- Bytes of the image (R400). -/
def Core.imageLen (k : Core) : Nat := 0xA0000 + 0x10000 * k.rgd

/-- Offsets of the words of an area that a poison mask names. -/
def poisonAt (base : Nat) (po : Word) : List Nat := ((List.range 64).filter po.getLsbD).map (fun i => base + 4 * i)
/-- Offsets of the poisoned words of near SRAM, of the tiles, of landing data and of results in flight, and of the poisoned kept bytes. -/
def Core.imagePoison (k : Core) : List Nat :=
  let snaps := (k.inflight.filter (fun p => !p.tst)).take 112
  let rows := k.inflight.filter (·.tst)
  k.rf.nearPoison.map (fun w => 0x60000 + 4 * w) ++ k.tilePoison.map (fun w => 0x40000 + 4 * w)
    ++ (snaps.zip (List.range snaps.length)).flatMap (fun e => poisonAt (0x4C00 + 0x110 * e.2) e.1.poison)
    ++ rows.flatMap (fun p => poisonAt (0x38000 + 256 * p.row) p.poison)
    ++ k.landing.flatMap (fun e => (e.2.map (fun l => poisonAt (0x1A000 + 0x110 * e.1) l.poison)).getD [])
    ++ (k.frames.reverse.zip (List.range k.frames.length)).flatMap (fun e =>
        (e.1.keeps.reverse.foldl (fun acc (r : Word × Nat × List Byte × List Nat) =>
          (acc.1 + r.2.1, acc.2 ++ r.2.2.2.map (fun i => 0xA0000 + 0x10000 * e.2 + acc.1 + i))) ((0 : Nat), ([] : List Nat))).2)

/-- The image as bytes with their poison. -/
def Core.image8 (k : Core) (status pcn : Nat) : List PByte :=
  let m := (k.imageParts status pcn).foldl (fun (acc : Mem) q => acc.write q.1 q.2) []
  let bad := k.imagePoison
  ((m.read 0 k.imageLen).zip (List.range k.imageLen)).map (fun e => (e.1, bad.any (fun o => o / 4 == e.2 / 4)))

/-! A seat read back (22 R406). -/

def wordsOf : Nat → List Byte → List Word
  | 0, _ => []
  | n + 1, bs => BitVec.ofNat 64 (bytesToNat (bs.take 8)) :: wordsOf n (bs.drop 8)
/-- A numbered list as a sparse one. -/
def sparseOf {α : Type} [DecidableEq α] (d : α) (l : List α) (skip : Nat := 0) : Sparse α :=
  (l.zip (List.range l.length)).foldl (fun m e => if e.2 < skip then m else sset d e.2 e.1 m) []

/-- Registers and control block at their offsets from `base` (Table 22.4, R401); reserved bits read as zero. What a channel entry keeps beside
its two saved residues comes from `old`. -/
def RegBlock.ofBytes (bs : List Byte) (base : Nat) (old : Sparse Chan) : RegBlock :=
  let ws (a n : Nat) : List Word := wordsOf n (bs.drop (base + a))
  let ctl := ws 0x400 18
  let fld (i hi lo : Nat) : Nat := field (ctl.getD i 0) hi lo
  let ch := ws 0xC00 256
  let hid := ws 0x1400 256
  let chan (i : Nat) : Chan :=
    let e := sget {} old i
    let w1 := ch.getD (4 * i + 1) 0
    let res := hid.getD (4 * i) 0
    { e with w0 := ch.getD (4 * i) 0, w1 := w1, w2 := ch.getD (4 * i + 2) 0, w3 := ch.getD (4 * i + 3) 0
             ares := if w1.getLsbD 1 then res else e.ares, ores := if w1.getLsbD 1 then e.ores else res
             left := hid.getD (4 * i + 1) 0, right := hid.getD (4 * i + 2) 0, rejected := (hid.getD (4 * i + 3) 0).getLsbD 0 }
  let spoison := (ws 0x300 1).headD 0
  { s := sparseOf 0 (ws 0x100 64) 1, sPoison := (List.range 64).filter spoison.getLsbD, p := sparseOf 0 (ws 0x380 16) 1
    dom := (List.range 4).map (fun i => word64 (fld i 9 0)), allot := fld 4 4 0, rbase := fld 5 9 0, rsize := fld 6 8 0, rrb := fld 7 7 0
    lcnt := (ctl.getD 8 0).setWidth 32, cst := ctl.getD 9 0, cyc := (ctl.getD 10 0).toNat, frz := (ctl.getD 11 0).toNat, rgd := fld 12 2 0
    pc := fld 13 15 0, prc := fld 13 24 16, prcv := (ctl.getD 13 0).getLsbD 25
    rstack := ((List.range (fld 13 29 26)).map (fun i => fld (15 + i / 4) (16 * (i % 4) + 15) (16 * (i % 4)))).reverse
    srg := (ctl.getD 14 0).setWidth 32, xpWr := fld 14 37 32, xpRd := fld 14 45 40, xpBank := fld 14 48 48
    dq := fld 17 27 16, dqHeld := fld 17 43 32, chans := sparseOf {} ((List.range 64).map chan) }

/-- Entry i of the deferral queue, 20 bytes. -/
def dentryOf (bs : List Byte) (i : Nat) : DEntry :=
  let w (j : Nat) : W32 := BitVec.ofNat 32 (bytesToNat ((bs.drop (0x10000 + 20 * i + 4 * j)).take 4))
  { lane := (w 0).toNat, vals := (List.range 4).map (fun j => w (j + 1)) }

/-- Keep records of a frame: each its pointer and length, with its bytes of the undo space, oldest first. -/
def keepsOf (bs : List Byte) (rec : Nat) : Nat → Nat → List PByte → List (Word × Nat × List Byte × List Nat)
  | 0, _, _ => []
  | fuel + 1, left, undo =>
    if left = 0 then []
    else
      let w (i : Nat) : Word := BitVec.ofNat 64 (bytesToNat ((bs.drop (rec + 8 * i)).take 8))
      let n := (w 1).toNat
      let mine := undo.take n
      (w 0, n, mine.map (·.1), ((mine.zip (List.range n)).filter (fun e => e.1.2)).map (·.2)) :: keepsOf bs (rec + 16) fuel (left - n) (undo.drop n)

/-- The frame of level n + 1 (R401): its deferral queue is what its head and count name of the saved one (R393). The issue number of its
RGN.BEGIN comes from the record of the save (log 15). -/
def Frame.ofBytes (old : Frame) (img : List PByte) (n : Nat) (entries : List DEntry) : Frame :=
  let bs := img.map (·.1)
  let base := 0x28000 + 0x2000 * n
  let w (i : Nat) : Word := BitVec.ofNat 64 (bytesToNat ((bs.drop (base + 8 * i)).take 8))
  let r := RegBlock.ofBytes bs base old.chans
  { s := r.s, sPoison := r.sPoison, p := r.p, lcnt := r.lcnt, dom := r.dom, allot := r.allot, rbase := r.rbase, rsize := r.rsize, rrb := r.rrb
    phase := field r.cst 17 16, rstack := r.rstack, srg := r.srg, dq := (entries.drop r.dqHeld).take r.dq, dqRetained := entries.take r.dqHeld
    chans := r.chans, restart := field (w 0) 15 0, limit := field (w 0) 19 16, retry := field (w 0) 23 20, iss := old.iss
    keeps := (keepsOf bs (base + 0x1C00) 64 (field (w 1) 16 0) (img.drop (0xA0000 + 0x10000 * n))).reverse }

/-- Word i of the bytes at an offset. -/
def wordAt (bs : List Byte) (off i : Nat) : Word := BitVec.ofNat 64 (bytesToNat ((bs.drop (off + 8 * i)).take 8))
/-- A counter whose bits below 2^n come from the image and the others from the record of the save. -/
def lowFrom (n : Nat) (old new : Nat) : Nat := old / 2 ^ n * 2 ^ n + new % 2 ^ n

/-- Hold latches, at the places of `RegFile.latchParts`. -/
def latchesOf (bs : List Byte) : Sparse Latch :=
  let value (j f : Nat) : Vec :=
    if 2 ≤ j ∧ j ≤ 6 then vecOfBytes ((bs.drop (0x2000 + 256 * (3 * (j - 2) + f))).take 256)
    else (wordAt bs (0x2F00 + 8 * (3 * (if j = 7 then 2 else j) + f)) 0).setWidth 2048
  (List.range 24).foldl (fun m i =>
    let b := bytesToNat ((bs.drop (0x2F80 + i)).take 1)
    sset {} i { valid := b % 2 == 1, vec := b / 2 % 2 == 1, value := value (i / 3) (i % 3) } m) []

/-- The sequencer, from the places of `seqParts`; where its program began and what halts it stand in the record of the save. -/
def Seq.ofBytes (q : Seq) (bs : List Byte) : Seq :=
  let w := wordAt bs 0x1FC0 0
  let lc := (wordAt bs 0x1FC8 0)
  { q with mpc := field w 15 0, prog := lowFrom 16 q.prog (field w 31 16), cflag := field w 39 32
           mode := (match field w 41 40 with
             | 0 => .idle
             | 1 => .running
             | _ => .waiting)
           lc := (List.range 4).map (fun i => field lc (16 * i + 15) (16 * i)), c := wordsOf 8 (bs.drop 0x1D00)
           cpq := (List.range (field w 51 48)).map (fun i =>
             let e := 0x1D40 + 80 * i
             { addr := field (wordAt bs e 0) 15 0, flag := field (wordAt bs e 0) 23 16, c := wordsOf 8 (bs.drop (e + 16))
               iss := ((q.cpq[i]?).map (·.iss)).getD 0 }) }

/-- Results in flight: each valid snapshot entry and each row of TSNAP; the write enables, the slot and the issue number of each stand in the
record of the save. -/
def snapsOf (l : List Pend) (bs : List Byte) (mask : Nat → Word) : List Pend :=
  let plain := l.filter (fun p => !p.tst)
  let vec (o : Nat) : Vec := vecOfBytes ((bs.drop o).take 256)
  let one (e : Pend × Nat) : Option Pend :=
    let o := 0x4C00 + 0x110 * e.2
    let w := wordAt bs (o + 256) 0
    if w.getLsbD 63 then some { e.1 with value := vec o, due := lowFrom 48 e.1.due (field w 47 0), dest := .ofCode (wordAt bs (o + 264) 0).toNat
                                         poison := mask o } else none
  let row (p : Pend) : Option Pend :=
    let w := wordAt bs 0x3C000 0
    if w.getLsbD 63 && (wordAt bs 0x3C008 0).getLsbD p.row then
      some { p with value := vec (0x38000 + 256 * p.row), due := lowFrom 48 p.due (field w 47 0)
                    dest := .v (bytesToNat ((bs.drop (0x3C010 + 2 * p.row)).take 2)), poison := mask (0x38000 + 256 * p.row) } else none
  (plain.zip (List.range 112)).filterMap one ++ (l.filter (·.tst)).filterMap row

/-- A landing entry: its data, due cycle, PC, slot and destination from the image; how a value becomes the register's, and what the request
was, from the record of the save. -/
def Landing.ofBytes (l : Landing) (e : Nat) (bs : List Byte) (po : Word) : Option Landing :=
  let o := 0x1A000 + 0x110 * e
  let w := wordAt bs (o + 256) 0
  let x := wordAt bs (o + 264) 0
  if w.getLsbD 63 then
    some { l with data := vecOfBytes ((bs.drop o).take 256), due := lowFrom 48 l.due (field w 47 0), arrived := w.getLsbD 62
                  pc := lowFrom 16 l.pc (field x 15 0), slot := field x 23 16, dest := .ofCode (field x 63 24), poison := po }
  else none

/-- Payloads of held operations, in their order. -/
def payloadsOf : List Packet → List Byte → List Packet
  | [], _ => []
  | p :: t, bs => { p with payload := bs.take p.payload.length } :: payloadsOf t (bs.drop p.payload.length)
/-- Held operations (22 R392): level, PC, word and payload from the image, where their packets go from the record of the save. -/
def heldOf : List (Nat × Remote) → List Byte → List (Nat × Remote)
  | [], _ => []
  | h :: t, bs =>
    let n := (h.2.pkts.map (·.payload.length)).foldl (· + ·) 0
    (field (wordAt bs 0 0) 7 0, { h.2 with pc := lowFrom 16 h.2.pc (field (wordAt bs 0 0) 47 32), word := wordAt bs 8 0
                                           pkts := payloadsOf h.2.pkts (bs.drop 32) }) :: heldOf t (bs.drop (32 + n))

/-- The seat as its block gives it back: what Tables 22.2 to 22.4 and R401 name comes from the bytes, each word of a poisoned sector poisoned;
issue numbers and what the tables do not name come from the record of the save (log 15). -/
def Core.ofImage (k : Core) (img : List PByte) : Core :=
  let bs := img.map (·.1)
  let r := RegBlock.ofBytes bs 0 k.rf.chans
  let vs (a n : Nat) : List Vec := (List.range n).map (fun i => vecOfBytes ((bs.drop (a + 256 * i)).take 256))
  let bad := ((img.zip (List.range img.length)).filter (fun e => e.1.2 && e.2 % 4 == 0)).map (·.2)
  let words (lo hi : Nat) : List Nat := (bad.filter (fun o => decide (lo ≤ o ∧ o < hi))).map (fun o => (o - lo) / 4)
  let mask (lo : Nat) : Word := BitVec.ofNat 64 (((words lo (lo + 256)).map (2 ^ ·)).foldl (· + ·) 0)
  let entries := (List.range (r.dqHeld + r.dq)).map (dentryOf bs)
  { k with
    rf := { k.rf with
      s := r.s, sPoison := r.sPoison, p := r.p, allot := r.allot, rbase := r.rbase, rsize := r.rsize, rrb := r.rrb, lcnt := r.lcnt
      prc := r.prc, prcv := r.prcv, chans := r.chans, latches := latchesOf bs
      near := cellsOf 0 ((bs.drop 0x60000).take Config.nearBytes), nearPoison := words 0x60000 0xA0000, soft := [] }
    dom := r.dom, phase := field r.cst 17 16, cyc := r.cyc, frz := r.frz, pc := lowFrom 16 k.pc r.pc, rgd := r.rgd, rstack := r.rstack
    srg := r.srg, xpWr := r.xpWr, xpRd := r.xpRd, xpBank := r.xpBank
    flags := sparseOf 0 ((List.range 256).map (fun i => BitVec.ofNat 32 (bytesToNat ((bs.drop (0x800 + 4 * i)).take 4))))
    sticky := [2, 3, 4, 5, 6].foldl (fun m j =>
      sset {} j ((sget {} k.sticky j).ofBytes (bs.drop (0x1C00 + 32 * (j - 2))) (bs.drop (0x1CA0 + 16 * (j - 2)))) m) []
    dqRetained := entries.take r.dqHeld, dq := entries.drop r.dqHeld
    frames := ((List.range r.rgd).map (fun n => (k.frames.reverse.getD n {}).ofBytes img n entries)).reverse
    inflight := snapsOf k.inflight bs mask
    landing := k.landing.map (fun e => (e.1, e.2.bind (fun l => l.ofBytes e.1 bs (mask (0x1A000 + 0x110 * e.1)))))
    hold := heldOf k.hold (bs.drop 0x30000)
    seq := k.seq.ofBytes bs
    xpose := sparseOf 0 (vs 0x20000 128)
    tiles := sparseOf [] ((List.range 8).map (fun t =>
      let rows := vs (0x40000 + 0x4000 * t) 64
      if rows.all (· == 0) then [] else rows))
    tilePoison := words 0x40000 0x60000 }

/-- Poison as a block holds it: every word of a sector with a poisoned word (R400). -/
def sectorPoison (ps : List Nat) : List Nat := ps.foldl (fun acc w => (List.range 8).foldl (fun a i => ninsert (w / 8 * 8 + i) a) acc) []

/-- CST of a dump's header, as at the stop (Table 19.5): a seat that the abort found in STOP shows that cause, any other shows DUMP
(19 R357; log 88). -/
def Core.stopCst (k : Core) : Word :=
  match k.stop with
  | some .split | some .boundary | some (.landing _) => { k with frzcause := 3 }.cst
  | some .walk | some .trap | none => k.cst

/-- The header of a dump (Table 19.5). -/
def Core.dumpHeader (k : Core) (code : Code) (pcn dlc : Nat) : List Byte :=
  words4 [0x504D5544, code.num + code.cls * 2 ^ 8]
    ++ words8 [k.identity.toNat, pcn + k.pc % 2 ^ 16 * 2 ^ 16 + k.seq.mpc * 2 ^ 32, k.stopCst.toNat, k.cyc, k.frz, dlc, k.imageLen]
    ++ List.replicate 192 0

end Sys2Proof.Machine
end

