-- ==== Sys2Proof/Machine/Placement.lean ====
section
/-! DEFINITION. Where the Concourse places teams: free galleries, windows, context blocks, extents, and the cores that a team takes
(02 R23, 04 R71, R80, 12 R249, 18 R337, 22 R399). -/

namespace Sys2Proof.Machine
open Sys2Proof

/-! Galleries and what is free in them. -/

/-- No seat holds the core, nor the even core of a LOCK pair on its left. -/
def State.coreFree (s : State) (c : Nat) : Bool :=
  !(s.core c).placed && !(c % 2 == 1 && (s.core (c - 1)).placed && (s.core (c - 1)).lock)

/-- Free positions of a gallery for SPLIT, or even positions of its free pairs for LOCK. -/
def State.freeSlots (s : State) (lock : Bool) (g : Nat) : List Nat :=
  if lock then [0, 2, 4, 6].filter (fun p => s.coreFree (8 * g + p) && s.coreFree (8 * g + p + 1))
  else (List.range 8).filter (fun p => s.coreFree (8 * g + p))

/-- The job and world whose seats or windows a gallery holds. -/
def State.galOwner (s : State) (g : Nat) : Option (Nat × Nat) :=
  match (List.range 8).find? (fun p => (s.core (8 * g + p)).placed) with
  | some p => some ((s.core (8 * g + p)).job, (s.core (8 * g + p)).world)
  | none => (s.gal g).windows.head?.bind (fun w => (s.task w.1).map (fun t => (t.job, t.world)))

/-- Bytes [a, a + n) of a vault are free of windows and retired banks. -/
def State.roomAt (s : State) (g a n : Nat) : Bool :=
  decide (a + n ≤ Config.vaultBytes)
    && !(s.gal g).windows.any (fun w => decide (w.2.2.1 < a + n ∧ a < w.2.2.1 + w.2.2.2))
    && !(s.gal g).retired.any (fun b => decide (0x20000 * b < a + n ∧ a < 0x20000 * (b + 1)))

/-- The base for a window of n bytes, of the Concourse's choosing (04 R71). DESIGN CHOICE (log 82): the lowest that is free. -/
def State.windowBase (s : State) (g n : Nat) : Option Nat :=
  ((List.range 64).map (· * 0x10000)).find? (fun a => s.roomAt g a n)

/-- An empty gallery that can take a window of n bytes. -/
def State.galEmpty (s : State) (n g : Nat) : Bool :=
  !(s.gal g).fenced && (s.gal g).windows.isEmpty && (List.range 8).all (fun p => !(s.core (8 * g + p)).placed) && (s.windowBase g n).isSome

def State.emptyGals (s : State) (n : Nat) : List Nat := (List.range Config.galleries).filter (s.galEmpty n)
def hallGals (h : Nat) : List Nat := (List.range 16).map (16 * h + ·)
/-- Empty galleries of a hall. -/
def State.hallEmpties (s : State) (n h : Nat) : List Nat := (hallGals h).filter (s.galEmpty n)
def State.hallUnfenced (s : State) (h : Nat) : Nat := ((hallGals h).filter (fun g => !(s.gal g).fenced)).length

/-! The galleries that a team takes (12 R249). -/

def Task.windowBytes (t : Task) : Nat := t.vsize * 0x10000
/-- Team galleries of a task. -/
def Task.teamGals (t : Task) : Nat := (t.nseats + t.width - 1) / t.width

/-- The first of the best by a score. -/
def bestBy (score : Nat → Nat) : List Nat → Option Nat
  | [] => none
  | a :: t => match bestBy score t with
    | none => some a
    | some b => if score b ≤ score a then some a else some b

/-- Galleries of the task's own job and world that may take seats of it. -/
def State.sharedGals (s : State) (t : Task) : List Nat :=
  (List.range Config.galleries).filter (fun g =>
    !(s.gal g).fenced && s.galOwner g == some (t.job, t.world) && (s.windowBase g t.windowBytes).isSome)

/-- Choices of k of a list's members, in lexicographic order. -/
def choices : List Nat → Nat → List (List Nat)
  | _, 0 => [[]]
  | [], _ + 1 => []
  | a :: t, k + 1 => (choices t k).map (a :: ·) ++ choices t (k + 1)
/-- Sets of halls by size, and by ascending numbers within one size. -/
def hallSetsBySize : List (List Nat) := (List.range 9).flatMap (choices (List.range 8))

/-- m empty galleries in the fewest halls, from those that each hall offers. -/
def fewestHalls (offer : Nat → List Nat) (m : Nat) : Option (List Nat) :=
  (hallSetsBySize.map (fun hs => hs.flatMap offer)).findSome? (fun gs => if m ≤ gs.length then some (gs.take m) else none)

/-- The physical gallery of each team gallery, none of them among those kept for a task ahead. DESIGN CHOICE (log 99): in a hall with more empty
galleries than a team needs, it takes those of the lowest numbers (12 R249). -/
def State.chooseGals (s : State) (t : Task) (kept : List Nat := []) : Option (List Nat) :=
  let m := t.teamGals
  let open_ (l : List Nat) : List Nat := l.filter (fun g => !kept.contains g)
  let empties (h : Nat) : List Nat := open_ (s.hallEmpties t.windowBytes h)
  if t.nseats ≤ t.width then
    match bestBy (fun g => (s.freeSlots false g).length) ((open_ (s.sharedGals t)).filter (fun g => t.nseats ≤ (s.freeSlots t.lock g).length)) with
    | some g => some [g]
    | none => (open_ (s.emptyGals t.windowBytes)).head?.map (fun g => [g])
  else if m ≤ 16 then
    match bestBy (fun h => (empties h).length) ((List.range 8).filter (fun h => m ≤ (empties h).length)) with
    | some h => some ((empties h).take m)
    | none => if (List.range 8).any (fun h => m ≤ s.hallUnfenced h) then none else fewestHalls empties m
  else fewestHalls empties m

/-- Cores of the seats, in seat order, in the galleries chosen. -/
def State.seatsIn (s : State) (t : Task) (gs : List Nat) : List Nat :=
  (gs.flatMap (fun g => (s.freeSlots t.lock g).map (8 * g + ·))).take t.nseats

/-! Context blocks (22 R399). -/

/-- The least start of n free MiB among the used runs of a pool of len MiB. -/
def firstFit (used : List (Nat × Nat)) (n len : Nat) : Option Nat :=
  let fits (a : Nat) : Bool := decide (a + n ≤ len) && !used.any (fun u => decide (u.1 < a + n ∧ a < u.1 + u.2))
  ((0 :: used.map (fun u => u.1 + u.2)).filter fits).foldl (fun (m : Option Nat) a => match m with
    | none => some a
    | some b => some (min a b)) none

/-- MiB of a gallery block. -/
def Task.galBlock (t : Task) : Nat := (t.vsize + 15) / 16

/-- Runs of the job's pool that its tasks hold. -/
def State.usedBlocks (s : State) (job : Nat) : List (Nat × Nat) :=
  (s.tasks.filter (·.job == job)).flatMap (fun t => t.blocks.map (·, 1) ++ t.galBlocks.map (·, t.galBlock))

/-- Starts of blocks allotted one after another. -/
def allotRuns (len : Nat) : List Nat → List (Nat × Nat) → Option (List Nat)
  | [], _ => some []
  | n :: rest, used => (firstFit used n len).bind (fun a => (allotRuns len rest ((a, n) :: used)).map (a :: ·))

/-- The task with its blocks, those it has or new ones. -/
def State.withBlocks (s : State) (t : Task) : Option Task :=
  if !t.blocks.isEmpty then some t
  else
    let len := ((s.job t.job).map (·.ctxLen)).getD 0
    (allotRuns len (List.replicate t.nseats 1 ++ List.replicate t.teamGals t.galBlock) (s.usedBlocks t.job)).map (fun l =>
      { t with blocks := l.take t.nseats, galBlocks := l.drop t.nseats })

/-! The placement order (12 R249). -/

/-- A sealed world's tasks are placed only while its TDI is RUN (14 R284). -/
def State.worldRuns (s : State) (job world : Nat) : Bool :=
  world == 0 || ((s.worldOf job world).map (fun w => w.tdi == .run)).getD false

/-- Tasks of the placement order: READY, or SAVED with their windows saved too. -/
def State.placeable (s : State) (t : Task) : Bool :=
  (t.state == .ready || (t.state == .saved && s.gals.all (fun e => e.2.windows.all (fun w => w.1 != t.id)))) && !t.killing && !t.aborted
    && s.worldRuns t.job t.world

/-- Higher PRIO first, then earlier READY; creation order stands. -/
def Task.ahead (a b : Task) : Bool := decide (b.prio < a.prio) || (a.prio == b.prio && decide (a.readyAt < b.readyAt))
def insertTask (t : Task) : List Task → List Task
  | [] => [t]
  | u :: rest => if t.ahead u then t :: u :: rest else u :: insertTask t rest
def State.order (s : State) : List Task := (s.tasks.filter s.placeable).foldl (fun l t => insertTask t l) []

/-- The state as it would be without a task's seats and windows. -/
def State.sans (s : State) (t : Task) : State := ((s.seatCores t).foldl State.releaseCore s).freeWindows t.id

/-- Tasks that are leaving their cores to a head: killed, pre-empted, or victims of it that are to run to TEND and have not been placed anew
since (12 R254). -/
def State.leavingFor (s : State) (head : Task) : List Task :=
  s.tasks.filter (fun t => t.killing || s.preempts.any (fun p => p.task == t.id) || 
    (t.state == .running && s.victims.any (fun v => v.1 == head.id && v.2.1 == t.id && decide (t.runAt ≤ v.2.2))))

/-- The k best of a list by a score, the first of equal ones. -/
def bestOf (score : Nat → Nat) : Nat → List Nat → List Nat
  | 0, _ => []
  | k + 1, l => match bestBy score l with
    | none => []
    | some a => a :: bestOf score k (l.filter (· != a))

/-- The galleries whose free cores are kept for a head that cannot be placed (12 R249). DESIGN CHOICE (log 100): as many as it needs, those with
most free cores once the tasks that are leaving have gone, within one hall where the team must have one: that with most empty galleries then; for
a small team also the best gallery of its own job and world. -/
def State.keptFor (s : State) (t : Task) : List Nat :=
  let u := (s.leavingFor t).foldl State.sans s
  let open_ := (List.range Config.galleries).filter (fun g => !(s.gal g).fenced)
  let score (g : Nat) : Nat := (u.freeSlots false g).length
  let halls := (List.range 8).filter (fun h => decide (t.teamGals ≤ s.hallUnfenced h))
  if t.width < t.nseats ∧ t.teamGals ≤ 16 ∧ halls ≠ [] then
    match bestBy (fun h => (u.hallEmpties t.windowBytes h).length) halls with
    | some h => bestOf score t.teamGals (open_.filter (fun g => g / 16 == h))
    | none => []
  else (if t.nseats ≤ t.width then bestOf score 1 (u.sharedGals t) else []) ++ bestOf score t.teamGals open_

/-- The task with its cores and blocks, where it can be placed now, outside galleries kept for a task ahead. -/
def State.fit (s : State) (t : Task) (kept : List Nat := []) : Option (Task × List Nat) :=
  (s.chooseGals t kept).bind (fun gs => (s.withBlocks t).map (fun u => ({ u with cores := s.seatsIn t gs }, gs)))

/-- The window and cores of a placing taken. -/
def State.occupy (s : State) (t : Task) (gs : List Nat) : State :=
  let s1 := (gs.zip (List.range gs.length)).foldl (fun u e =>
    u.modGal e.1 (fun x => { x with windows := x.windows ++ [(t.id, e.2, (u.windowBase e.1 t.windowBytes).getD 0, t.windowBytes)] })) s
  (t.cores.zip (List.range t.cores.length)).foldl (fun u e => u.modCore e.1 (fun k =>
    { k with placed := true, task := t.id, seat := e.2, nseats := t.nseats, job := t.job, taskid := t.taskid, world := t.world, lock := t.lock })) s1

/-- A task behind a waiting head takes no core that is kept for it: a gallery kept may still hold both, where both are small teams of one job
and world. -/
def State.sparesHead (s : State) (h : Task) (x : Task × List Nat) : Bool :=
  let kept := s.keptFor h
  let u := s.occupy x.1 x.2
  x.2.all (fun g => !kept.contains g || (decide (h.nseats ≤ h.width) && x.1.job == h.job && x.1.world == h.world
    && decide (h.nseats ≤ (u.freeSlots h.lock g).length)))

/-- The task to place next: the head, or one behind it that takes nothing from the head: where it would go if there were no head, or else outside
the galleries kept. -/
def State.nextPlacing (s : State) : Option (Task × List Nat) :=
  match s.order with
  | [] => none
  | h :: rest =>
    match s.fit h with
    | some x => some x
    | none => rest.findSome? (fun t => match s.fit t with
      | none => none
      | some x => if s.sparesHead h x then some x else s.fit t (s.keptFor h))

/-! Extents (04 R79, R80). -/

/-- Pages that the image's ranges of one kind touch. DESIGN CHOICE (log 107): the pages of a range that passes the end of the address space are
walked at the addresses that the walker's indices name, and a run goes on there; 04 R80 gives such a range no fate. -/
def extentPages (t : Task) (x : Image) (rw : Bool) : List Nat :=
  (x.extents.filter (fun d => d.rw == rw && d.bytes != 0)).foldl (fun acc d =>
    let base := (t.args.getD d.arg 0).toNat % 2 ^ 57
    (List.range ((base + d.bytes - 1) / 0x10000 + 1 - base / 0x10000)).foldl (fun a i => ninsert (base / 0x10000 + i) a) acc) []

/-- Both sets in ascending order, each page with whether it is of the RW set. -/
def extentSet (t : Task) (x : Image) : List (Nat × Bool) :=
  let rw := extentPages t x true
  let ro := (extentPages t x false).filter (fun p => !rw.contains p)
  (rw.map (·, true) ++ ro.map (·, false)).foldl (fun l e => (l.takeWhile (fun q => q.1 < e.1)) ++ [e] ++ l.dropWhile (fun q => q.1 < e.1)) []

/-- EXTk of a run (04 Table 4.6). -/
def extentReg (page len : Nat) (w : Bool) : Word := word64 (1 + boolNat w * 2 + len * 2 ^ 2 + page * 2 ^ 22)

def Home.phys : Home → Nat × Nat × Bool
  | .hbm a k _ => (a, k, false)
  | .host a k _ => (a, k, true)
  | _ => (0, 0, false)

/-- A page joins the run before it where R79 lets it; runs stand newest first. -/
def joinPage (runs : List Extent) (page : Nat) (w : Bool) (h : Home) : List Extent :=
  let one : Extent := { reg := extentReg page 1 w, pbase := h.phys.1, key := h.phys.2.1, host := h.phys.2.2 }
  match runs with
  | e :: rest =>
    let len := field e.reg 21 2
    if field e.reg 62 22 + len = page ∧ e.reg.getLsbD 1 = w ∧ e.pbase + len * 0x10000 = h.phys.1 ∧ e.key = h.phys.2.1 ∧ e.host = h.phys.2.2
        ∧ len < 1048575 then { e with reg := extentReg (field e.reg 62 22) (len + 1) w } :: rest
    else one :: e :: rest
  | [] => [one]

/-- The runs of the pages, each walked and none marked. -/
def State.extentRuns (s : State) (t : Task) : List (Nat × Bool) → List Extent → Io (List Extent)
  | [], acc => .ok acc.reverse
  | q :: rest, acc => (s.ioWalk t.job t.world (q.1 * 0x10000) q.2).bind (fun w => s.extentRuns t rest (joinPage acc q.1 q.2 w.2))

/-- A task's extents: sixteen runs at most, the leaves of whose pages are marked A, and D in the RW set. -/
def State.extentsOf (s : State) (t : Task) (x : Image) : Io (State × List Extent) :=
  let pages := extentSet t x
  (s.extentRuns t pages []).bind (fun runs =>
    let es := runs.take 16
    let inside (q : Nat × Bool) : Bool := es.any (fun e => decide (field e.reg 62 22 ≤ q.1 ∧ q.1 < field e.reg 62 22 + field e.reg 21 2))
    .ok ((pages.filter inside).foldl (fun (u : State) q => ((u.ioWalk t.job t.world (q.1 * 0x10000) q.2).get (u, .near 0 0)).1) s, es))

end Sys2Proof.Machine
end

