-- ==== Sys2Proof/Machine/Concourse.lean ====
section
/-! DEFINITION. The Concourse: reading descriptors, readiness and triggers, placing and re-placing teams, saving and dumping seats, completion
effects, pre-emption decisions and deadlines (02 R29 to R35, 12 R243 to R257, 18 R333, 19 R357, R358, 22 R399 to R407). -/

namespace Sys2Proof.Machine
open Sys2Proof

/-! PENDING tasks: writes that they wait for, and their descriptors (02 R31, R34, 06 R134, 18 R333). -/

/-- The writes that a new task waits for have performed, or the seat that made them is gone from its core. -/
def State.fenceDone (s : State) (t : Task) : Bool :=
  match t.fence, t.creator with
  | some (c, n), .launch _ p _ _ => !((s.core c).placed && (s.core c).task == p) || s.writesDoneTo c n
  | _, _ => true

/-- A task of a retired tag is created: the tag is live again. -/
def State.reviveGen (s : State) (t : Task) : State := { s with retired := s.retired.filter (· != (t.job, t.taskid, t.gen)) }

/-- A queue stops on a malformed structure: HALT is set, its slot is freed, and nothing is added for the packet (18 R333). -/
def State.haltQueue (s : State) (q : Nat) : State :=
  let t := s.setHalt q
  { t with foyer := t.foyer.map (fun e => if e.2.state ≠ .free ∧ e.2.queue = q then (e.1, {}) else e)
           waiting := t.waiting.filter (fun w => w.1 != q), incoming := t.incoming.filter (· != q) }

/-- A descriptor that cannot be used, handled by what named it: that of a LAUNCH only where something else than the seat's own earlier writes has
changed it since the LAUNCH (log 30). -/
def State.descEvent (s : State) (t : Task) (code : Code) (addr unit : Nat) : State :=
  let s1 := s.removeTask t
  match t.creator with
  | .launch _ p seat _ =>
    (match s1.task p with
      | some u => s1.modSeat u.job u.taskid seat (fun k => { k with
          children := k.children.filter (fun e => e.1 != t.id)
          late := k.late ++ [{ code := code, src := 0, opSlot := 7, value := t.lptr, addr := word64 addr, word := t.lword
                               pc := some t.lpc, unit := unit }] })
      | none => s1.structEvent t.job t.world code addr unit)
  | .packet q i =>
    let s2 := (s1.structEvent t.job t.world code addr unit).haltQueue q
    { s2 with admitted := s2.admitted.filter (fun a => !(a.queue == q && a.index == i)) }
  | .node g _ | .tile g _ _ =>
    let s2 := s1.structEvent t.job t.world code addr unit
    { s2 with graphs := s2.graphs.map (fun x => if x.id = g then { x with halted := true } else x) }

/-- A PENDING task enters READY; one whose descriptor has still to be read, by a LAUNCH or after a KILL, has it read first. -/
def State.admitTask (s : State) (t : Task) : State :=
  let ready (u : State) (x : Task) : State := (u.modTask t.id (fun _ => { x with state := .ready, readyAt := s.clock, fence := none })).reviveGen x
  if t.killing || t.aborted || !s.fenceDone t then s
  else if t.fence.isNone then ready s t
  else
    let again := t.fence == some (Config.cores, 0)
    let prio := match t.creator with
      | .launch _ _ _ _ => none
      | _ => some t.prio
    match s.readDesc t.job t.world t.desc prio t.taskid t.isTile with
    | .held => s
    | .bad u code a n => u.descEvent t code a n
    | .ok r =>
      let u := r.1.describe t r.2 t.gen
      let args := match t.creator with
        | .tile _ _ _ => (u.args.set 6 (t.args.getD 6 0)).set 7 (t.args.getD 7 0)
        | _ => u.args
      ready r.1 { u with args := args, gen := if again then t.gen else u.gen }

/-! Triggers (02 R35, 08 R169). -/

/-- The first TRIGGER of a seat counts once the writes before it have performed. -/
def State.countTriggers (s : State) : State :=
  s.cores.foldl (fun u e =>
    match e.2.trigAt with
    | some n => if e.2.placed && u.writesDoneTo e.1 n then
        (u.modTask e.2.task (fun t => { t with triggered := ninsert e.2.seat t.triggered })).modCore e.1 (fun k => { k with trigAt := none })
      else u
    | none => u) s

/-! Placing (12 R249, 02 R22, R31, R47, 05 R100, 14 R279). -/

/-- Bytes of an image's code pages as a fetch-decrypt unit opens them, 32-byte unit by unit, with the pair and nonce of number `key`; the tweak
holds the table bit and the unit's number (14 R279; log 64). -/
def Image.opened (x : Image) (key : Nat) (const : Bool) (bs : List Byte) : List Byte :=
  ((List.range ((bs.length + 15) / 16)).flatMap (fun i =>
    let tweak := boolNat const * 2 ^ 63 + i / 2
    openBlock x.key tweak key tweak (i % 2) ((bs.drop (16 * i)).take 16))).take bs.length

/-- Instruction memory and constant table, filled from the code pages of the image and opened with the pair in the core's fetch-decrypt unit
(14 R279). -/
def Core.fill (k : Core) (x : Image) : Core :=
  { k with imem := cellsOf 0 (x.opened k.fetchKey false x.text), const := cellsOf 0 (x.opened k.fetchKey true x.const), textLen := x.text.length }

/-- A core as a seat finds it at its first bundle (Table 3.3); the core's message counter runs on. -/
def State.firstCore (s : State) (t : Task) (x : Image) (es : List Extent) (seat c : Nat) : Core :=
  let w := s.worldOf t.job t.world
  Core.fill (x := x)
  { placed := true, startAt := max (t.born + 256) (s.clock + 1), task := t.id, seat := seat, nseats := t.nseats, job := t.job
    taskid := t.taskid, world := t.world, gen := t.gen, lock := t.lock, debug := (w.map (·.debug)).getD 0
    rf := { s := (List.range 8).foldl (fun m i => sset 0 (i + 1) (t.args.getD i 0) m) [], allot := t.allot
            chans := x.channels.foldl (fun m e => sset {} e.1
              { w0 := e.2.getD 0 0, w1 := e.2.getD 1 0, w2 := e.2.getD 2 0, w3 := e.2.getD 3 0 } m) [] }
    dom := t.dom.map word64, feat := s.host.featAcc, srg := srgStart (t.taskid + t.job * 2 ^ 16) seat, pc := x.entry, mseq := (s.core c).mseq
    regions := x.regions, exts := es, image := t.image, ctxBase := ((s.job t.job).map (·.ctxBase)).getD 0, ctxLen := ((s.job t.job).map (·.ctxLen)).getD 0 * 2 ^ 20
    pbase := t.pbase, pstride := t.pstride, psize := t.psize, vsize := t.vsize, depth := t.depth
    fetchKey := x.key }

/-- Bytes [base, base + n) of a vault cleared: nothing of what another team wrote there is left for the next (02 R35; log 52). -/
def Gallery.clear (x : Gallery) (base n : Nat) : Gallery :=
  { x with vault := x.vault.filter (fun e => !decide (base ≤ e.1 ∧ e.1 < base + n))
           poison := x.poison.filter (fun w => !decide (base ≤ 4 * w ∧ 4 * w < base + n))
           soft := x.soft.filter (fun e => !decide (base ≤ 4 * e.1 ∧ 4 * e.1 < base + n)) }

/-- Windows of a placing, one in each of its galleries, each cleared. -/
def State.openWindows (s : State) (t : Task) (gs : List Nat) : State :=
  (gs.zip (List.range gs.length)).foldl (fun u e =>
    let base := (u.windowBase e.1 t.windowBytes).getD 0
    u.modGal e.1 (fun x => { x.clear base t.windowBytes with windows := x.windows ++ [(t.id, e.2, base, t.windowBytes)] })) s

/-- The image of a task. -/
def State.imageOf (s : State) (t : Task) : Option Image :=
  (s.job t.job).bind (fun j => j.images.find? (fun (x : Image) => x.id == t.image && x.world == t.world))

/-- A READY task placed: windows, blocks, extents and every seat's core. A failing walk is the task's event (21 R373). -/
def State.place (s : State) (t : Task) (gs : List Nat) : State :=
  match s.imageOf t with
  | none => s
  | some x =>
    match s.extentsOf t x with
    | .held => s
    | .bad v code a n => v.taskEvent t code a n
    | .ok r =>
      let s1 := r.1.openWindows t gs
      let s2 := (t.cores.zip (List.range t.cores.length)).foldl (fun u e => u.setCore e.1 (s.firstCore t x r.2 e.2 e.1)) s1
      let u := { t with state := .placed }
      (s2.modTask t.id (fun _ => u)).unspill u ((s.spill.map (·.2)).filter (ofTask u))

/-- PLACED tasks whose every seat has issued its first bundle, or ended, are RUNNING. -/
def State.begin (s : State) : State :=
  { s with tasks := s.tasks.map (fun t =>
      if t.state = .placed ∧ (List.range t.nseats).all (fun j => t.ended.contains j || t.saved.contains j ||
          ((t.cores[j]?).map (fun c => (s.core c).begun)).getD false) then { t with state := .running, runAt := s.clock } else t) }

/-- The module places tasks in P0 only. -/
def State.powered (s : State) : Bool := s.host.pstate == 0 && s.host.ptarget.isNone

/-- TASK_PLACE: the head of the placement order, or a task behind it that leaves the head's room, enters PLACED, and placed tasks that have
begun enter RUNNING. -/
def execTaskPlace (s : State) : Out :=
  let s1 := s.begin
  .next (if !s1.powered then s1 else match s1.nextPlacing with
    | some (t, gs) => if t.state = .ready then s1.place t gs else s1
    | none => s1)

/-! Saving (12 R255, 22 R402, R403). -/

/-- A block whose key or sectors fail: its code is the task's, and the job is aborted (22 R407). -/
def State.blockFail (s : State) (t : Task) (code : Code) (addr unit : Nat) : State :=
  s.killOrAbort { t with rst := false }
    { seq := 0, code := code, src := 2, identity := t.identity, addr := word64 addr, unit := unit, cyc := s.ioCycles } false

/-- Seats of a running task asked to save at their next boundary; combining buffers are emptied with HXQ. -/
def State.askSave (s : State) (t : Task) (f : Core → Bool) : State :=
  (s.seatCores t).foldl (fun u c => if f (u.core c) then u.modCore c (fun k => { k.flushWc with saveAsked := true }) else u) s

/-- The seat stands at a boundary with its queues empty, its writes performed and its landings arrived, and the sequencer at a unit. -/
def State.saveReady (s : State) (c : Nat) : Bool :=
  let k := s.core c
  k.placed && k.saveAsked && !k.killed && k.abort.isNone && !k.ended && !k.debugHalt && k.atBoundary s.clock && k.stop.isNone
    && k.mxqEmpty s.clock && k.cmq.isEmpty && k.hxqDone && k.pend.isEmpty && !s.queued.any (fun e => e.1 == c)
    && k.landing.all (fun e => (e.2.map (·.arrived)).getD true) && !k.seq.halted && !s.seqWalking c

/-- Writing the image and releasing the core take so many cycles, unloaded (R402). -/
def State.saveTime (s : State) (k : Core) : Nat := s.fixed 176 + 2560 + ((k.frames.map Frame.kept).foldl (· + ·) 0 + 255) / 256

/-- The image of a seat that has come so far begins to be written. -/
def State.startSave (s : State) (c : Nat) : State :=
  if s.saveReady c && (s.core c).saveAt.isNone then s.modCore c (fun k => { k with saveAt := some (s.clock + s.saveTime k) }) else s

/-- The image has been written by now. -/
def State.saveDue (s : State) (c : Nat) : Bool := s.saveReady c && (s.core c).saveAt.any (fun a => decide (a ≤ s.clock))

/-- SEAT_SAVE (R402): the image is written to the seat's block and the core is released. -/
def execSeatSave (c : Nat) (s : State) : Out :=
  if !s.saveDue c then .next s
  else
    let s0 := (s.portRead (.near c 0) Config.nearBytes).1
    let k := s0.core c
    match s.task k.task with
    | none => .next s
    | some t =>
      match s0.ioPut k.job k.world (s.blockVa k.job (t.blocks.getD k.seat 0)) (k.image8 1 c) with
      | .held => .next s
      | .bad v code a n => .next (v.blockFail t code a n)
      | .ok u => .next ((({ u with saves := u.saves ++ [(t.id, k.seat, k)] }.releaseCore c).modTask t.id (fun x =>
          { x with saved := ninsert k.seat x.saved })).settleSaved t.id)

/-- The window of a team gallery is to be saved: its last seat has been (22 R403), or the whole task is and the gallery has none left. Nothing
is read from a fenced gallery (18 R337). -/
def State.windowDone (s : State) (t : Task) (k : Nat) : Bool :=
  (t.galSaved k || (t.state == .saved && t.galEnded k)) && (s.vaultWindow t.id k).any (fun w => !(s.gal w.1).fenced)

/-- A window to be saved begins to be, at 512 bytes a cycle (R403). -/
def State.startWindows (s : State) (t : Task) : State :=
  s.modTask t.id (fun x => { x with winAt := x.winAt ++
    ((List.range t.teamGals).filter (fun k => s.windowDone t k && !t.winAt.any (fun e => e.1 == k))).map (fun k =>
      (k, s.clock + (t.windowBytes + 511) / 512)) })
/-- The window of a team gallery has been written by now. -/
def State.windowDue (s : State) (t : Task) (k : Nat) : Bool := s.windowDone t k && t.winAt.any (fun e => e.1 == k && decide (e.2 ≤ s.clock))

/-- VAULT_WINDOW_SAVE (R403): the window goes to its gallery block and its bank space is freed. -/
def execVaultWindowSave (t k : Nat) (s : State) : Out :=
  match s.task t with
  | none => .next s
  | some x =>
    match s.vaultWindow t k with
    | none => .next s
    | some (g, base) =>
      if !s.windowDue x k then .next s
      else
        let n := x.windowBytes
        let s1 := (s.portRead (.vault g base) n).1
        let bs := (s1.gal g).vault.read base n
        let ps := sectorPoison (((s1.gal g).poison.filter (fun w => decide (base ≤ 4 * w ∧ 4 * w < base + n))).map (fun w => w - base / 4))
        match s1.ioPut x.job x.world (s.blockVa x.job (x.galBlocks.getD k 0)) ((bs.zip (List.range n)).map (fun e => (e.1, ps.contains (e.2 / 4)))) with
        | .held => .next s
        | .bad v code a m => .next (v.blockFail x code a m)
        | .ok u => .next (({ u with saveVaults := u.saveVaults ++ [(t, k, cellsOf 0 bs, ps)] }.modGal g (fun y =>
            { y with windows := y.windows.filter (fun w => !(w.1 == t && w.2.1 == k)) })).modTask t (fun y =>
            { y with winAt := y.winAt.filter (fun e => e.1 != k) }))

/-- A request to save a running task, unless one stands. -/
def State.request (s : State) (t : Nat) (kind : PreemptKind) : State :=
  if s.preempts.any (fun p => p.task == t) || ((s.task t).map (fun x => x.state != .running)).getD true then s
  else { s with preempts := s.preempts ++ [{ task := t, kind := kind, since := s.clock }] }

/-- CHECKPOINT (R255): asked for; its seats are saved after a YIELD or 1,024 cy later. -/
def execCheckpoint (t : Nat) (s : State) : Out := .next (s.request t .checkpoint)

def State.preemptOf (s : State) (t : Nat) : Option Preempt := s.preempts.find? (fun p => p.task == t)

/-- CHECKPOINT_TIMER: 1,024 cy after the request every seat is saved at its next boundary. -/
def execCheckpointTimer (t : Nat) (s : State) : Out :=
  match s.preemptOf t, s.task t with
  | some p, some x => .next (if p.kind = .checkpoint ∧ p.since + 1024 ≤ s.clock then s.askSave x (fun _ => true) else s)
  | _, _ => .next s

/-- A drained seat is saved at this boundary: PHASE is COMPUTE and MXQ, CPQ and CMQ are empty. -/
def Core.drained (k : Core) (clock : Nat) : Bool := k.phase == 0 && k.mxqEmpty clock && k.cpqDone && k.cmq.isEmpty

/-- No bundle of the seat is split, and none is stopped: what is drained now is so at its next boundary too (22 R402). -/
def Core.betweenBundles (k : Core) : Bool := (k.stop.isNone || k.stop == some .trap) && k.replay.isNone && k.keep.isNone && k.rolling.isNone

/-- PREEMPT_DRAIN (R255): asked for, or carried on: each seat is saved at the first boundary of a computation superstep. -/
def execPreemptDrain (t : Nat) (s : State) : Out :=
  match s.preemptOf t, s.task t with
  | some p, some x => .next (if p.kind = .drain then s.askSave x (fun k => k.begun && k.betweenBundles && k.drained s.clock) else s)
  | _, _ => .next (s.request t .drain)

/-- DRAIN_TIMEOUT: 16,384 cy after the request the drain becomes a checkpoint, and the seats that remain are saved at their next boundary. -/
def execDrainTimeout (t : Nat) (s : State) : Out :=
  match s.preemptOf t, s.task t with
  | some p, some x => .next (if p.kind = .drain ∧ p.since + 16384 ≤ s.clock then
      ({ s with preempts := s.preempts.map (fun (q : Preempt) => if q.task = t then { q with kind := .checkpoint } else q) } : State).askSave x (fun _ => true)
    else s)
  | _, _ => .next s

/-! Re-placing (12 R256, 22 R406, R407). -/

/-- A task's saved seats and windows as their blocks give them back: a key or an uncorrectable sector that fails is found here (R406, R407). -/
def State.blocksRead (s : State) (t : Task) : Io (State × List (Nat × Core) × List (Nat × List PByte)) :=
  let one (acc : Io (State × List (Nat × Core))) (e : Nat × Nat × Core) : Io (State × List (Nat × Core)) := acc.bind (fun u =>
    (u.1.ioGet t.job t.world (u.1.blockVa t.job (t.blocks.getD e.2.1 0)) e.2.2.imageLen).bind (fun r =>
      .ok (r.1, u.2 ++ [(e.2.1, e.2.2.ofImage r.2)])))
  let win (acc : Io (State × List (Nat × List PByte))) (k : Nat) : Io (State × List (Nat × List PByte)) := acc.bind (fun u =>
    (u.1.ioGet t.job t.world (u.1.blockVa t.job (t.galBlocks.getD k 0)) t.windowBytes).bind (fun r => .ok (r.1, u.2 ++ [(k, r.2)])))
  ((s.saves.filter (fun e => e.1 == t.id)).foldl one (.ok (s, []))).bind (fun a =>
    (((s.saveVaults.filter (fun e => e.1 == t.id)).map (fun e => e.2.1)).foldl win (.ok (a.1, []))).bind (fun b => .ok (b.1, a.2, b.2)))

/-- A saved seat on its new core: instruction memory and extents are fresh, the cache is empty, no tile is busy. -/
def State.restoredCore (s : State) (x : Image) (es : List Extent) (k : Core) (c : Nat) : Core :=
  Core.fill (x := x)
  { k with
    placed := true, started := false, ran := false, begun := false, startAt := s.clock + 1, saveAsked := false, saveAt := none, mseq := (s.core c).mseq
    exts := es, tcache := []
    tileBusy := [], tileClear := []
    poisonClear := [], run := none, correct := 0, weak := [], broken := [], released := [], recent := [], fetchKey := x.key }

/-- A team vault window written back from its gallery block. -/
def State.restoreWindow (s : State) (t : Task) (k : Nat) (bs : List PByte) : State :=
  match s.vaultWindow t.id k with
  | none => s
  | some (g, base) =>
    let n := t.windowBytes
    let ps := ((bs.zip (List.range n)).filter (fun e => e.1.2 && e.2 % 4 == 0)).map (fun e => e.2 / 4)
    s.modGal g (fun y => { y with
      vault := y.vault.write base (bs.map (·.1))
      poison := ps.foldl (fun l w => ninsert (base / 4 + w) l) (y.poison.filter (fun w => !decide (base ≤ 4 * w ∧ 4 * w < base + n)))
      soft := y.soft.filter (fun e => !decide (base ≤ 4 * e.1 ∧ 4 * e.1 < base + n)) })

/-- A SAVED task placed again, in the order of R406: windows, images, extents, then what its spill areas hold. -/
def State.replaceOn (s : State) (t : Task) (gs : List Nat) : State :=
  match s.imageOf t with
  | none => s
  | some x =>
    match s.blocksRead t with
    | .held => s
    | .bad v code a n => v.blockFail t code a n
    | .ok (s0, seats, wins) =>
      match s0.extentsOf t x with
      | .held => s
      | .bad v code a n => v.taskEvent t code a n
      | .ok r =>
      match r.1.spillBack t with
      | .held => s
      | .bad v code a n => v.blockFail t code a n
      | .ok (s5, ps) =>
        let s1 := s5.openWindows t gs
        let s2 := wins.foldl (fun u e => u.restoreWindow t e.1 e.2) s1
        let s3 := seats.foldl (fun u e =>
          match t.cores[e.1]? with
          | some c => u.setCore c (s.restoredCore x r.2 e.2 c)
          | none => u) s2
        let u := { t with state := .placed, saved := [] }
        let s4 : State := { s3 with saves := s3.saves.filter (fun e => e.1 != t.id), saveVaults := s3.saveVaults.filter (fun e => e.1 != t.id) }
        (s4.modTask t.id (fun _ => u)).unspill u ps

/-- TASK_REPLACE: the SAVED task whose turn it is in the placement order. -/
def execTaskReplace (t : Nat) (s : State) : Out :=
  .next (if !s.powered then s else match s.nextPlacing with
    | some (x, gs) => if x.id = t ∧ x.state = .saved then s.replaceOn x gs else s
    | none => s)

/-! Dumps (19 R357, R358). -/

/-- SEAT_DUMP: header and image at the seat's MiB of the dump area, if it lies within it; then the core is released, and the task with its
last one. A fenced gallery's seats are not dumped. -/
def execSeatDump (c : Nat) (s : State) : Out :=
  match (s.core c).abort, (s.core c).dump with
  | some (code, n), true =>
    let s0 := (s.portRead (.near c 0) Config.nearBytes).1
    let k := s0.core c
    let j := s.job k.job
    let len := (j.map (·.dumpLen)).getD 0
    let va := (j.map (·.dumpBase)).getD 0 + n * 2 ^ 20
    let head := (k.dumpHeader code c ((j.map (·.dlc)).getD 0)).map (fun b => (b, false))
    let wrote := if n < len ∧ !(s.gal (galOf c)).fenced then s0.ioPut k.job k.world va (head ++ k.image8 2 c) else .ok s
    (match wrote with
      | .held => .next s
      | w =>
        let s1 := ((w.get (w.left s)).dropEvents c .abort).releaseCore c
        (match s1.task k.task with
          | some t => .next (if t.aborted ∧ (s1.seatCores t).isEmpty then s1.removeTask t else s1)
          | none => .next s1))
  | _, _ => .next s

/-! Ends (02 R32, R34, 14 R288). -/

/-- TASK_COMPLETION_EFFECTS: the parent's completion flag rises, open seal sessions end ABORTED, and the task leaves the pool. -/
def execTaskCompletionEffects (t : Nat) (s : State) : Out :=
  match s.task t with
  | none => .next s
  | some x =>
    if x.state ≠ .ended then .next s
    else
      let s1 := match x.creator with
        | .launch _ p seat f =>
          (match s.task p with
            | some u => s.modSeat u.job u.taskid seat (fun k => { k with
                children := k.children.filter (fun e => e.1 != t)
                flagBuf := match f with
                  | some n => k.flagBuf ++ [(n, FlagOp.add 1)]
                  | none => k.flagBuf })
            | none => s)
        | _ => s
      let s2 := s1.vacate x
      .next { s2 with tasks := s2.tasks.filter (fun y => y.id != t) }

/-! Pre-emption (12 R253, R254). -/

/-- What is done to a victim (Table 12.8). -/
inductive Verdict where
  | stay | kill | checkpoint | drain
  deriving DecidableEq, Repr

/-- The largest schedule cycle among a task's seats. DESIGN CHOICE (log 102): among those placed or saved; one that has completed TEND counts no
more (12 R253). -/
def State.reached (s : State) (t : Task) : Nat :=
  ((s.seatCores t).map (fun c => (s.core c).sched) ++ (s.saves.filter (fun e => e.1 == t.id)).map (fun e => e.2.2.sched)).foldl max 0

def State.verdict (s : State) (v : Task) (u : Nat) : Verdict :=
  let e := s.reached v
  if v.est - e < 4096 then .stay
  else if v.rst ∧ e < 16384 then .kill
  else if 8 ≤ u then .checkpoint
  else .drain

/-- Running tasks by lowest PRIO, then latest to enter RUNNING. DESIGN CHOICE (log 101): of those that entered it in one cycle, the one created
earlier is first (12 R253). -/
def insertVictim (v : Task) : List Task → List Task
  | [] => [v]
  | u :: rest => if v.prio < u.prio ∨ (v.prio = u.prio ∧ u.runAt < v.runAt) then v :: u :: rest else u :: insertVictim v rest

/-- Victims in their order, until the freed cores suffice for the head. -/
def takeVictims (head : Task) : List Task → State → List Task
  | [], _ => []
  | v :: rest, hyp => if (hyp.chooseGals head).isSome then [] else v :: takeVictims head rest (hyp.sans v)

/-- The victims chosen for a head among the tasks that `ok` admits, none twice for one head. -/
def State.victimsFor (s : State) (head : Task) (ok : Task → Bool) : List Task :=
  let running := s.tasks.filter (fun t => t.state == .running && !t.killing && !t.aborted)
  let going := s.leavingFor head
  takeVictims head ((running.filter (fun t => ok t && !going.any (fun g => g.id == t.id)
    && !s.victims.any (fun v => v.1 == head.id && v.2.1 == t.id))).foldl (fun l v => insertVictim v l) [])
    (going.foldl State.sans s)

/-- The action on one victim. -/
def State.preempt (s : State) (head v : Task) (u : Nat) : State :=
  let s1 : State := { s with victims := s.victims ++ [(head.id, v.id, s.clock)] }
  match s.verdict v u with
  | .stay => s1
  | .kill => (s1.askKill v.id).settleKills
  | .checkpoint => s1.request v.id .checkpoint
  | .drain => s1.request v.id .drain

/-- The tasks that pre-emption is considered for, each with whether by priority: the head of the placement order, then for each incoming queue
its first task that cannot be placed. -/
def State.contenders (s : State) : List (Task × Bool) :=
  let stuck (t : Task) : Bool := (s.chooseGals t).isNone
  let head := s.order.head?.filter (fun h => stuck h && s.tasks.any (fun t => t.state == .running && decide (t.prio < h.prio)))
  let next := s.incoming.filterMap (fun q => s.order.find? (fun t => (s.packetOf t).any (fun e => e.1 == q) && stuck t))
  head.toList.map (·, true) ++ next.map (·, false)

/-- Victims for one of them are chosen and acted on. -/
def State.preemptFor (s : State) (e : Task × Bool) : State :=
  (s.victimsFor e.1 (fun t => if e.2 then decide (t.prio < e.1.prio) else decide (t.prio ≤ e.1.prio))).foldl (fun u v =>
    u.preempt e.1 v (if e.2 then e.1.prio - v.prio else 0)) s

/-- PREEMPT_DECIDE: victims are chosen and acted on. -/
def execPreemptDecide (s : State) : Out := .next (s.contenders.foldl State.preemptFor s)

/-! Deadlines (02 R29, 19 R357). -/

/-- Jobs with a seat placed whose counter has reached its limit. -/
def State.overdue (s : State) : List Job := s.jobs.filter (fun j => !j.aborted && decide (j.limit ≤ j.dlc) && !(s.jobCores j.id).isEmpty)

/-- DEADLINE: each such job is aborted, with one record. -/
def execDeadline (s : State) : Out :=
  .next (s.overdue.foldl (fun u j =>
    let r := u.abortJob j.id .deadline
    r.1.record { seq := 0, code := .deadline, src := 2, sev := 4, action := 4, identity := identityOf j.id 0 0 0, cyc := s.ioCycles
                 info := dumpedInfo r.2 }) s)

/-! The Concourse's turn in a clock. -/

/-- What falls due: kills that wait, tasks that have begun, triggers, readiness, dumps; and the steps that it asks for. -/
def State.concourseTurn (s : State) : State :=
  let s1 := s.settleKills.begin.countTriggers
  let s2 := (s1.tasks.filter (fun t => t.state == .pending)).foldl (fun u t => match u.task t.id with
    | some x => u.admitTask x
    | none => u) s1
  let s3 := (s2.tasks.filter (fun t => !t.saved.isEmpty)).foldl State.startWindows ((s2.cores.map (·.1)).foldl State.startSave s2)
  let placed := (s3.cores.filter (fun e => e.2.placed)).map (·.1)
  let runs : List Instr :=
    (s3.tasks.filter (fun t => t.state == .ended)).map (fun t => .taskCompletionEffects t.id)
      ++ (placed.filter (fun c => (s3.core c).dump)).map .seatDump
      ++ (if s3.overdue.isEmpty then [] else [.deadline])
      ++ s3.preempts.flatMap (fun p => match p.kind with
          | .checkpoint => [.checkpointTimer p.task]
          | .drain => [.preemptDrain p.task, .drainTimeout p.task])
      ++ (placed.filter s3.saveDue).map .seatSave
      ++ (s3.tasks.filter (fun t => !t.saved.isEmpty)).flatMap (fun t =>
          ((List.range t.teamGals).filter (s3.windowDue t)).map (fun k => .vaultWindowSave t.id k))
      ++ (if s3.contenders.isEmpty then [] else [.preemptDecide])
      ++ (match s3.nextPlacing with
          | some (t, _) => if t.state = .saved then [.taskReplace t.id] else [.taskPlace]
          | none => if s3.tasks.any (fun t => t.state == .placed) then [.taskPlace] else [])
  { s3 with agenda := runs.map .run ++ s3.agenda }

end Sys2Proof.Machine
end

