-- ==== Sys2Proof/Machine/Foyer.lean ====
section
/-! DEFINITION. The Foyer: doorbells, binding queues to hardware slots, admitting packets, slices, and completion words (12 R239 to R246,
15 R300, 18 R332, R333). -/

namespace Sys2Proof.Machine
open Sys2Proof

/-! Slots and queues. -/

def State.slot (s : State) (n : Nat) : FoyerSlot := sget {} s.foyer n
def State.setSlot (s : State) (n : Nat) (x : FoyerSlot) : State := { s with foyer := sset {} n x s.foyer }
/-- The slot that holds a queue. -/
def State.slotOf (s : State) (q : Nat) : Option Nat := (s.foyer.find? (fun e => e.2.state != .free && e.2.queue == q)).map (·.1)
/-- Stage RUN (15 Table 15.6). -/
def State.running (s : State) : Bool := s.host.stage == 6

/-- JOB and WORLD as a queue-table entry holds them, whether or not it is well formed. -/
def State.rawOwner (s : State) (q : Nat) : Nat × Nat := (s.hbm.nat (s.qAddr q + 10) 2, s.hbm.nat (s.qAddr q + 12) 1 % 32)

/-- The entry of queue q cannot be read: no bit of it is used (21 R421). -/
def State.qUnread (s : State) (q : Nat) : Bool :=
  match s.qEntry q with
  | .error .hbmue => true
  | _ => false

/-- A structure of a queue cannot be used: its record, and the queue halts (18 R333). The record of an entry that cannot be read names no job. -/
def State.queueEvent (s : State) (q : Nat) (code : Code) (addr unit : Nat) : State :=
  let o := if s.qUnread q then (0, 0) else s.rawOwner q
  (s.structEvent o.1 o.2 code addr unit).haltQueue q
/-- The same of the queue-table entry itself. -/
def State.entryEvent (s : State) (q : Nat) (code : Code) : State := s.queueEvent q code (s.qAddr q) (code.stack (s.qAddr q))

/-- A queue waits for a slot from now on. -/
def State.enqueue (s : State) (q : Nat) : State :=
  if s.waiting.any (fun w => w.1 == q) then s else { s with waiting := s.waiting ++ [(q, s.clock)] }

/-- A doorbell for queue q, at RUN: ignored while its HALT is set (18 R333), else a queue without a slot waits. -/
def State.ring (s : State) (q : Nat) : State :=
  if s.qHalted q && !s.qUnread q then s
  else match s.qEntry q with
    | .error code => s.entryEvent q code
    | .ok _ => if (s.slotOf q).isSome then s else s.fixEntry q |>.enqueue q

/-- A doorbell of a function: a VF reaches its own world's queues only (15 R291); of an entry that cannot be read no WORLD is known. -/
def State.ringFor (s : State) (vf q : Nat) : State := if vf = 0 ∨ s.qUnread q ∨ (s.rawOwner q).2 = vf then s.ring q else s

/-- Waiting queues whose entries can be read, each with its PRIO. -/
def State.ready (s : State) : List (Nat × Nat × Nat) :=
  s.waiting.filterMap (fun w => match s.qEntry w.1 with
    | .ok e => if e.halt then none else some (e.prio, w.2, w.1)
    | .error _ => none)

/-- Highest PRIO, then longest wait, then lowest number (12 R242). -/
def betterQueue (a b : Nat × Nat × Nat) : Bool :=
  decide (b.1 < a.1) || (a.1 == b.1 && (decide (a.2.1 < b.2.1) || (a.2.1 == b.2.1 && decide (a.2.2 < b.2.2))))
def bestQueue : List (Nat × Nat × Nat) → Option (Nat × Nat × Nat)
  | [] => none
  | a :: t => match bestQueue t with
    | none => some a
    | some b => if betterQueue b a then some b else some a

/-- Waiting queues whose entries cannot be used any more are halted. -/
def State.dropBad (s : State) : State :=
  s.waiting.foldl (fun u w => match u.qEntry w.1 with
    | .error code => u.entryEvent w.1 code
    | .ok e => if e.halt then { u with waiting := u.waiting.filter (fun x => x.1 != w.1) } else u) s

/-- Queue q bound to a slot; its slice begins. -/
def State.bind (s : State) (n q : Nat) : State :=
  { s.setSlot n { state := .bound, queue := q, start := s.wall } with waiting := s.waiting.filter (fun w => w.1 != q) }

/-- FOYER_BIND (R242): a FREE slot takes the best waiting queue. -/
def execFoyerBind (slot : Nat) (s : State) : Out :=
  if (s.slot slot).state ≠ .free ∨ 128 ≤ slot then .next s
  else
    let s1 := s.dropBad
    .next (match bestQueue s1.ready with
      | some b => s1.bind slot b.2.2
      | none => s1)

/-- A slot retires: its queue waits again where it has packets left, and the best of the queues that waited takes the slot. DESIGN CHOICE (log
113): it counts as incoming, and its stuck tasks are considered in every clock, until it has lost or freed the slot or halts (12 R253). -/
def State.handOver (s : State) (n : Nat) : State :=
  let q := (s.slot n).queue
  let s1 := s.setSlot n {}
  let s2 := match bestQueue s1.ready with
    | some b => { s1.bind n b.2.2 with incoming := s1.incoming.filter (fun x => x != b.2.2 && x != q) ++ [b.2.2] }
    | none => { s1 with incoming := s1.incoming.filter (· != q) }
  match s.qEntry q with
  | .ok e => if e.ridx ≠ e.widx ∧ !e.halt then s2.enqueue q else s2
  | .error _ => s2

/-- A slice ends while a waiting queue has PRIO equal to or higher than the bound one. -/
def State.rivalled (s : State) (prio : Nat) : Bool := s.ready.any (fun w => decide (prio ≤ w.1))

/-- FOYER_SLICE_EXPIRY (R241, R242): the slot retires for a waiting queue, after the packet that it is admitting, or its slice restarts. -/
def execFoyerSliceExpiry (slot : Nat) (s : State) : Out :=
  let x := s.slot slot
  if x.state ≠ .bound ∧ x.state ≠ .active then .next s
  else match s.qEntry x.queue with
    | .error code => .next (s.entryEvent x.queue code)
    | .ok e =>
      if s.wall < x.start + e.slice * wallUnits then .next s
      else if !s.rivalled e.prio then .next (s.setSlot slot { x with start := s.wall })
      else if x.state = .active then .next (s.setSlot slot { x with state := .retiring })
      else .next (s.handOver slot)

/-- Work of a queue is PENDING, READY, PLACED, RUNNING or SAVED. -/
def State.queueBusy (s : State) (q : Nat) : Bool :=
  s.tasks.any (fun t => t.state != .ended && ((s.packetOf t).map (·.1)) == some q)

/-- FOYER_SLOT_FREE (R241): a bound queue without packets and without work gives up its slot. -/
def execFoyerSlotFree (slot : Nat) (s : State) : Out :=
  let x := s.slot slot
  if x.state ≠ .bound then .next s
  else match s.qEntry x.queue with
    | .error code => .next (s.entryEvent x.queue code)
    | .ok e =>
      .next (if e.ridx = e.widx ∧ !s.queueBusy x.queue then
          { s.setSlot slot {} with incoming := s.incoming.filter (· != x.queue) }
        else s)

/-! Packets (R240, Table 12.2). -/

/-- A packet that breaks Table 12.2. DESIGN CHOICE (log 114): so does a SADDR that is not aligned to 4 bytes, for which the table states no
alignment. -/
def badPacket (bs : List Byte) : Bool :=
  let ty := bfield bs 0 3 0
  let n := bfield bs 0 28 16
  !(reservedZero bs 0 (bits 4 0 ||| bits 28 16) && reservedZero bs 0x18 (bits 31 0) && tailZero bs 0x20)
    || !(ty == 1 || ty == 2) || (ty == 1 && n != 0) || (ty == 2 && (n == 0 || decide (4096 < n)))
    || !(if ty == 1 then globalOk (bword bs 8) 256 256 else globalOk (bword bs 8) 64 (64 * n))
    || !(bword bs 0x10 == 0 || globalOk (bword bs 0x10) 4 4)

/-- The work of every earlier packet of a queue is COMPLETE. -/
def State.barrierMet (s : State) (q : Nat) : Bool := s.admitted.all (fun a => a.queue != q || a.due)

/-- A creator other than a LAUNCH or a node may take an entry: no creator waits, and one is free (02 R33). -/
def State.entryForFoyer (s : State) : Bool :=
  s.launches.all (fun e => e.2 == 1) && s.graphs.all (fun g => g.nodes.all (fun n => !n.waits)) && s.foyer.all (fun e => !e.2.waits)
    && decide (0 < s.poolFree)

/-- A task from what a descriptor holds, under the rules of R244 for a queue's task. -/
def State.queueTask (s : State) (creator : Creator) (e : QEntry) (desc : Word) (bs : List Byte) : Task :=
  s.describe { id := 0, creator := creator, job := e.job, world := e.world, prio := e.prio, desc := desc, origin := creator } bs 1

/-- Counters and states of a graph's nodes at arming (R246): the counts come from the records. -/
def State.armNodes (s : State) (e : QEntry) (ptr : Word) : Nat → Io (State × List Node)
  | 0 => .ok (s, [])
  | n + 1 => (s.armNodes e ptr n).bind (fun r => (r.1.ioStruct e.job e.world (ptr.toNat + 64 * n) 64).bind (fun b =>
      let dep := bfield b.2 0 17 8
      .ok (b.1, r.2 ++ [{ count := dep, state := if dep = 0 then .acting else .pending, since := s.clock }])))

/-- The graph of a packet. One with a record that cannot be read is armed with no node that will act (18 R333: its packet is admitted and never
completes). -/
def State.armGraph (s : State) (n q : Nat) (e : QEntry) (bs : List Byte) (ns : List Node) (halted : Bool) : State :=
  { s with serial := s.serial + 1
           graphs := s.graphs ++ [{ id := s.serial, queue := q, index := e.ridx, job := e.job, world := e.world, prio := e.prio, slot := n
                                    ptr := bword bs 8, nodes := ns, halted := halted }] }

/-- The packet is admitted: RIDX rises, and its completion is noted. -/
def State.admitted1 (s : State) (n q : Nat) (e : QEntry) (bs : List Byte) : State :=
  let t := s.setRidx q ((e.ridx + 1) % 2 ^ 32)
  let x := t.slot n
  let u : State := { t with admitted := t.admitted ++ [{ queue := q, index := e.ridx, slot := n, saddr := bword bs 0x10
                                                         sval := BitVec.ofNat 32 (bfield bs 0x18 31 0), job := e.job, world := e.world }] }
  if x.state = .retiring then u.handOver n else u.setSlot n { x with state := .bound, waits := false }

/-- The next packet of a slot's queue, where there is one that may be admitted (R240). -/
def State.nextPacket (s : State) (q : Nat) (e : QEntry) : Io (Option (State × List Byte)) :=
  if e.ridx = e.widx then .ok none
  else
    match s.ioStruct e.job e.world (e.base + 64 * (e.ridx % 2 ^ e.logn)) 64 with
    | .held => .held
    | .bad v c a u => .bad v c a u
    | .ok r =>
      if badPacket r.2 then .bad r.1 .descriptor (e.base + 64 * (e.ridx % 2 ^ e.logn)) 0
      else if bfield r.2 0 4 4 = 1 ∧ !s.barrierMet q then .ok none
      else .ok (some r)

/-- PACKET_ADMIT (R240): a TASK packet creates a task, or waits in ACTIVE while the pool is full; a GRAPH packet arms a graph. -/
def State.admitPacket (s : State) (n : Nat) (granted : Bool) : State :=
  let x := s.slot n
  let q := x.queue
  if x.state = .free then s
  else match s.qEntry q with
    | .error code => s.entryEvent q code
    | .ok e =>
      if e.halt then s.setSlot n {}
      else match s.nextPacket q e with
        | .held => s
        | .bad v code a u => v.queueEvent q code a u
        | .ok none => s
        | .ok (some (s1, bs)) =>
          if bfield bs 0 3 0 = 1 then
            match s1.readDesc e.job e.world (bword bs 8) (some e.prio) 0 with
            | .held => s1
            | .bad v code a u => v.queueEvent q code a u
            | .ok (s2, d) =>
              if granted || s2.entryForFoyer then
                let t := s2.queueTask (.packet q e.ridx) e (bword bs 8) d
                (s2.newTask t).admitted1 n q e bs
              else if x.waits then s2
              else s2.setSlot n { x with state := .active, since := s.clock, waits := true }
          else
            let nn := bfield bs 0 28 16
            match s1.armNodes e (bword bs 8) nn with
            | .held => s1
            | .bad v code a u =>
              ((v.armGraph n q e bs (List.replicate nn { count := 1 }) true).admitted1 n q e bs).structEvent e.job e.world code a u
            | .ok (s2, ns) => (s2.armGraph n q e bs ns false).admitted1 n q e bs

def execPacketAdmit (slot : Nat) (s : State) : Out := .next (s.admitPacket slot false)

/-! Completion (R240, R248). -/

/-- Packets whose work has just become COMPLETE. -/
def State.markComplete (s : State) : State :=
  { s with admitted := s.admitted.map (fun a =>
      let g := s.graphs.find? (fun g => g.queue == a.queue && g.index == a.index)
      let finished : Bool := match g with
        | some g => g.done
        | none => !s.tasks.any (fun t => s.packetOf t == some (a.queue, a.index))
      if finished && !a.due then { a with due := true } else a) }

/-- COMPLETION_WORD_ADD: SVAL is added to the completion word of the oldest packet that is COMPLETE, and its vectors follow. A word whose
address fails is left alone, with a record. -/
def execCompletionWordAdd (s : State) : Out :=
  match s.admitted.find? (·.due) with
  | none => .next s
  | some a =>
    let s0 : State := { s with admitted := s.admitted.erase a, graphs := s.graphs.filter (fun g => !(g.queue == a.queue && g.index == a.index)) }
    if a.saddr = 0 then .next s0
    else match s0.ioAdd a.job a.world a.saddr.toNat a.sval with
      | .held => .next s
      | .bad v code addr unit => .next (v.structEvent a.job a.world code addr unit)
      | .ok u =>
        let v := u.raiseMsix 0 (16 + a.slot)
        .next (if a.world = 0 then v else v.raiseMsix a.world 1)

/-! The Foyer's turn in a clock. -/

/-- Slots in the order in which their packets ask for pool entries: highest PRIO, then lowest number (02 R33; log 83). -/
def State.slotOrder (s : State) (held : List Nat) : List Nat :=
  let prio (n : Nat) : Nat := ((s.qEntry (s.slot n).queue).toOption.map (·.prio)).getD 0
  held.foldr (fun n l => l.takeWhile (fun m => decide (prio n < prio m)) ++ [n] ++ l.dropWhile (fun m => decide (prio n < prio m))) []

/-- Kept doorbells are served at RUN; then slots bind, admit, expire and become free. -/
def State.foyerTurn (s : State) : State :=
  if !s.running then s
  else
    let s1 := s.host.doorbells.foldl (fun u d => u.ringFor d.1 d.2) { s with host := { s.host with doorbells := [] } }
    let held := (s1.foyer.filter (fun e => e.2.state != .free)).map (·.1)
    let s2 := (held.map (fun n => (s1.slot n).queue)).foldl State.fixEntry s1.markComplete
    let free := (List.range 128).find? (fun n => (s2.slot n).state == .free)
    let runs : List Instr :=
      (s2.slotOrder held).map .packetAdmit ++ held.map .foyerSliceExpiry ++ held.map .foyerSlotFree
        ++ (match free with
            | some n => if s2.waiting.isEmpty then [] else [.foyerBind n]
            | none => [])
        ++ (if s2.admitted.any (·.due) then [.completionWordAdd] else [])
    { s2 with agenda := runs.map .run ++ s2.agenda }

end Sys2Proof.Machine
end

