-- ==== Sys2Proof/Machine/Graphs.lean ====
section
/-! DEFINITION. Graphs: releases and their marks, the acts of the five kinds of node, and expert-tile spawn (12 R245 to R252, 18 R333). -/

namespace Sys2Proof.Machine
open Sys2Proof

/-! Graphs and their records. -/

def State.graph (s : State) (g : Nat) : Option Graph := s.graphs.find? (·.id == g)
def State.modNode (s : State) (g n : Nat) (f : Node → Node) : State :=
  { s with graphs := s.graphs.map (fun x => if x.id = g then { x with nodes := x.nodes.modify n f } else x) }

/-- A node whose record or word could not be used: it acts no more, and its graph never completes (18 R333). -/
def Node.failed (n : Node) : Bool := n.state == .acting && !n.begun && n.sentRun

/-- The event of a graph structure; no further node acts. -/
def State.graphEvent (s : State) (g : Graph) (n : Nat) (code : Code) (addr unit : Nat) : State :=
  let s1 := (s.structEvent g.job g.world code addr unit).modNode g.id n (fun x => { x with begun := false, sentRun := true, waits := false })
  { s1 with graphs := s1.graphs.map (fun x => if x.id = g.id then { x with halted := true } else x) }

/-- A node record that breaks Table 12.5. DESIGN CHOICE (log 114): so does a word of COND, LOOP, WAIT or SIGNAL that is not aligned to 4 bytes, and
a list that is not aligned to 2, for which the table states no alignment. -/
def Graph.badRecord (g : Graph) (bs : List Byte) : Bool :=
  let kind := bfield bs 0 2 0
  let nn := g.nodes.length
  let lists (off n : Nat) : Bool := n == 0 || globalOk (bword bs off) 2 (2 * n)
  let n0 := bfield bs 0x28 11 0
  let n1 := bfield bs 0x28 27 16
  !(reservedZero bs 0 (bits 3 0 ||| bits 20 8) && reservedZero bs 0x28 (bits 11 0 ||| bits 27 16 ||| bits 43 32)
      && reservedZero bs 0x30 (bits 11 0 ||| bits 27 16) && tailZero bs 0x38)
    || decide (4 < kind) || (kind == 3 && decide (3 < bfield bs 0 20 18)) || !(lists 0x18 n0 && lists 0x20 n1)
    || !(kind == 1 || kind == 2 || (bword bs 0x20 == 0 && n1 == 0))
    || !(if kind = 0 then globalOk (bword bs 8) (if bfield bs 0 3 3 = 1 then 64 else 256) 64 else globalOk (bword bs 8) 4 4)
    || (kind == 2 && (bfield bs 0x10 63 32 == 0 || decide (nn ≤ bfield bs 0x28 43 32) || decide (nn ≤ bfield bs 0x30 27 16)
        || decide (bfield bs 0x30 27 16 < bfield bs 0x30 11 0)))

/-- The record of node n. -/
def State.nodeRec (s : State) (g : Graph) (n : Nat) : Io (State × List Byte) :=
  let a := g.ptr.toNat + 64 * n
  (s.ioStruct g.job g.world a 64).bind (fun r => if g.badRecord r.2 then .bad r.1 .descriptor a 0 else .ok r)

/-- Entries of a successor list. One with a bit above [11:0], or that names no node, breaks R245: R333 names the node record for it. -/
def State.successors (s : State) (g : Graph) (x : Nat) (ptr : Word) (n : Nat) : Io (State × List Nat) :=
  if n = 0 then .ok (s, [])
  else (s.ioRead g.job g.world ptr.toNat (2 * n)).bind (fun r =>
    let es := (List.range n).map (fun i => bytesToNat ((r.2.drop (2 * i)).take 2))
    if es.any (fun e => decide (4096 ≤ e) || decide (g.nodes.length ≤ e)) then .bad r.1 .descriptor (g.ptr.toNat + 64 * x) 0 else .ok (r.1, es))

/-- Releases along LIST0 and LIST1, with a mark for each list that is taken. -/
def State.sendLists (s : State) (g : Graph) (x : Nat) (bs : List Byte) (m0 m1 : Option Mark) : Io State :=
  let one (u : State) (off cnt : Nat) (m : Option Mark) : Io State := match m with
    | none => .ok u
    | some k => (u.successors g x (bword bs off) cnt).bind (fun r =>
        .ok { r.1 with agenda := r.2.map (fun n => Agent.run (.nodeRelease g.id n k)) ++ r.1.agenda })
  (one s 0x20 (bfield bs 0x28 27 16) m1).bind (fun u => one u 0x18 (bfield bs 0x28 11 0) m0)

/-- The end of a node's step: its next state, a wait for a page under migration, or the event of its structure. -/
def State.nodeEnd (s : State) (g : Graph) (n : Nat) (r : Io State) : Out :=
  match r with
  | .ok t => .next t
  | .held => .next s
  | .bad v code a u => .next (v.graphEvent g n code a u)

/-- A step of a node that is ACTING. -/
def State.acting (s : State) (gr n : Nat) (f : Graph → Node → Io State) : Out :=
  match s.graph gr with
  | none => .next s
  | some g =>
    match g.nodes[n]? with
    | none => .next s
    | some x => if x.state ≠ .acting ∨ x.failed then .next s else s.nodeEnd g n (f g x)

def State.complete (s : State) (g : Graph) (n : Nat) : State := s.modNode g.id n (fun x => { x with state := .complete, waits := false })

/-! Releases (R246). -/

/-- SKIP goes on from a skipped node. -/
def State.passSkip (s : State) (g : Graph) (n : Nat) : Io State :=
  (s.nodeRec g n).bind (fun r =>
    (r.1.sendLists g n r.2 (some .skip) (if bfield r.2 0 2 0 = 1 then some .skip else none)).bind (fun u =>
      .ok (u.modNode g.id n (fun x => { x with begun := true }))))

/-- NODE_RELEASE: a release with its mark reaches node n; one that is not PENDING ignores it. A node that was skipped passes SKIP on. -/
def execNodeRelease (gr n : Nat) (m : Mark) (s : State) : Out :=
  match s.graph gr with
  | none => .next s
  | some g =>
    match g.nodes[n]? with
    | none => .next s
    | some x =>
      if x.state = .skipped ∧ !x.begun then s.nodeEnd g n (s.passSkip g n)
      else if x.state ≠ .pending ∨ g.halted then .next s
      else
        let run := x.run || m == .run
        if x.count ≤ 1 then
          if run then .next (s.modNode gr n (fun y => { y with count := 0, run := true, state := .acting, since := s.clock }))
          else
            let t := s.modNode gr n (fun y => { y with count := 0, state := .skipped })
            match t.graph gr with
            | some g' => t.nodeEnd g' n (t.passSkip g' n)
            | none => .next t
        else .next (s.modNode gr n (fun y => { y with count := y.count - 1, run := run }))

/-! KERNEL (R247). -/

/-- A node may take a pool entry: no LAUNCH and no other node waits for one (02 R33). -/
def State.entryForNode (s : State) : Bool :=
  s.launches.all (fun e => e.2 == 1) && s.graphs.all (fun g => g.nodes.all (fun n => !n.waits)) && decide (0 < s.poolFree)

/-- The node waits for an entry from its first refusal on. -/
def State.nodeWaits (s : State) (gr n : Nat) : State :=
  s.modNode gr n (fun x => if x.waits then x else { x with waits := true, since := s.clock })

/-- The queue's attributes as its graph carries them. -/
def Graph.attrs (g : Graph) : QEntry :=
  { base := 0, logn := 4, job := g.job, world := g.world, prio := g.prio, slice := 1, widx := 0, ridx := 0, halt := false }

/-- A KERNEL node creates its task, where it is granted an entry or may take one. -/
def State.kernelTask (s : State) (g : Graph) (n : Nat) (granted : Bool) : Io State :=
  (s.nodeRec g n).bind (fun r =>
    let ptr := bword r.2 8
    (r.1.readDesc g.job g.world ptr (some g.prio) 0).bind (fun d =>
      if granted || d.1.entryForNode then
        .ok ((d.1.newTask (d.1.queueTask (.node g.id n) g.attrs ptr d.2)).modNode g.id n (fun x => { x with begun := true, waits := false }))
      else .ok (d.1.nodeWaits g.id n)))

def execNodeKernel (gr n : Nat) (s : State) : Out :=
  s.acting gr n (fun g x => if x.begun || x.waits then .ok s else s.kernelTask g n false)

/-- A task that the node itself created. -/
def Task.madeBy (t : Task) (g n : Nat) : Bool :=
  match t.creator with
  | .node a b => a == g && b == n
  | .tile a b _ => a == g && b == n
  | _ => false
/-- While the task lives the node is not COMPLETE: a node's own task and its descendants, or a tile task. -/
def Task.keepsNode (t : Task) (g n : Nat) : Bool := t.madeBy g n || t.origin == .node g n
/-- Every seat has executed TRIGGER or completed TEND. -/
def Task.allTriggered (t : Task) : Bool := t.triggered.length == t.nseats

/-- NODE_KERNEL_COMPLETE: RUN goes to LIST0 once every seat of its task, or of every tile task, has triggered, and the node is COMPLETE when
they, and for a node without SP the task's descendants, have ended. -/
def execNodeKernelComplete (gr n : Nat) (s : State) : Out :=
  s.acting gr n (fun g x =>
    if !x.begun || !x.tiles.isEmpty then .ok s
    else
      let made := s.tasks.filter (fun t => t.madeBy gr n)
      if !made.all Task.allTriggered then .ok s
      else
        let sent : Io State := if x.sentRun then .ok s
          else (s.nodeRec g n).bind (fun r => (r.1.sendLists g n r.2 (some .run) none).bind (fun u =>
            .ok (u.modNode gr n (fun y => { y with sentRun := true }))))
        sent.bind (fun u => .ok (if s.tasks.any (fun t => t.keepsNode gr n) then u else u.complete g n)))

/-! COND, LOOP, WAIT and SIGNAL (R247). -/

/-- The record and the word of a node. -/
def State.nodeWord (s : State) (g : Graph) (n : Nat) : Io (State × List Byte × W32) :=
  (s.nodeRec g n).bind (fun r => (r.1.ioRead g.job g.world (bword r.2 8).toNat 4).bind (fun w =>
    .ok (w.1, r.2, BitVec.ofNat 32 (bytesToNat w.2))))

def execNodeCond (gr n : Nat) (s : State) : Out :=
  s.acting gr n (fun g _ => (s.nodeWord g n).bind (fun r =>
    let yes := r.2.2 != 0
    (r.1.sendLists g n r.2.1 (some (if yes then .run else .skip)) (some (if yes then .skip else .run))).bind (fun u => .ok (u.complete g n))))

/-- Nodes a to a + k − 1 armed again. -/
def State.rearm (s : State) (g : Graph) (a : Nat) : Nat → Io State
  | 0 => .ok s
  | k + 1 => (s.rearm g a k).bind (fun u => (u.ioStruct g.job g.world (g.ptr.toNat + 64 * (a + k)) 64).bind (fun r =>
      let dep := bfield r.2 0 17 8
      .ok (r.1.modNode g.id (a + k) (fun _ => { count := dep, state := if dep = 0 then .acting else .pending, since := s.clock }))))

/-- NODE_LOOP: the word is read; the body runs once more, or the loop ends. -/
def execNodeLoop (gr n : Nat) (s : State) : Out :=
  s.acting gr n (fun g x =>
    if x.begun then .ok s
    else (s.nodeWord g n).bind (fun r =>
      let bs := r.2.1
      if r.2.2 ≠ 0 ∧ x.iter < bfield bs 0x10 63 32 then
        (r.1.rearm g (bfield bs 0x30 11 0) (bfield bs 0x30 27 16 + 1 - bfield bs 0x30 11 0)).bind (fun u =>
          (u.sendLists g n bs none (some .run)).bind (fun v => .ok (v.modNode gr n (fun y => { y with begun := true }))))
      else (r.1.sendLists g n bs (some .run) none).bind (fun u => .ok (u.complete g n))))

/-- NODE_LOOP_ITERATE: TAIL is COMPLETE or SKIPPED, so the iteration is counted and the word is read again. -/
def execNodeLoopIterate (gr n : Nat) (s : State) : Out :=
  s.acting gr n (fun g x =>
    if !x.begun then .ok s
    else (s.nodeRec g n).bind (fun r =>
      let tail := ((g.nodes[bfield r.2 0x28 43 32]?).map (·.state)).getD .pending
      if tail = .complete ∨ tail = .skipped then
        .ok { r.1.modNode gr n (fun y => { y with iter := y.iter + 1, begun := false }) with agenda := .run (.nodeLoop gr n) :: r.1.agenda }
      else .ok r.1))

/-- FC of a record. -/
def fcondOf : Nat → FCond
  | 0 => .ge
  | 1 => .eq
  | 2 => .ne
  | _ => .geu

/-- NODE_WAIT: the word is read every 512 cy until FC holds against VALUE. -/
def execNodeWait (gr n : Nat) (s : State) : Out :=
  s.acting gr n (fun g x =>
    if s.clock < x.since then .ok s
    else (s.nodeWord g n).bind (fun r =>
      if fcondHolds (fcondOf (bfield r.2.1 0 20 18)) r.2.2 (BitVec.ofNat 32 (bfield r.2.1 0x10 31 0)) then
        (r.1.sendLists g n r.2.1 (some .run) none).bind (fun u => .ok (u.complete g n))
      else .ok (r.1.modNode gr n (fun y => { y with since := s.clock + 512 }))))

/-- NODE_SIGNAL: VALUE is added to the word. -/
def execNodeSignal (gr n : Nat) (s : State) : Out :=
  s.acting gr n (fun g _ => (s.nodeRec g n).bind (fun r =>
    (r.1.ioAdd g.job g.world (bword r.2 8).toNat (BitVec.ofNat 32 (bfield r.2 0x10 31 0))).bind (fun u =>
      (u.sendLists g n r.2 (some .run) none).bind (fun v => .ok (v.complete g n)))))

/-! Spawn (R250 to R252). -/

/-- A routing-table entry: token, expert, weight, index. -/
structure Route where
  token  : Nat
  expert : Nat
  weight : W32
  index  : Nat
  deriving DecidableEq, Repr

def Route.le (a b : Route) : Bool :=
  decide (a.expert < b.expert) || (a.expert == b.expert && (decide (a.token < b.token) || (a.token == b.token && decide (a.index ≤ b.index))))
def insertRoute (r : Route) : List Route → List Route
  | [] => [r]
  | q :: t => if r.le q then r :: q :: t else q :: insertRoute r t
def sortRoutes (l : List Route) : List Route := l.foldr insertRoute []

/-- Runs of one expert and token merged into their first entry, the weights added in ascending index. -/
def dedup : List Route → List Route
  | [] => []
  | r :: t =>
    match dedup' r t with
    | (r', rest) => r' :: rest
where
  dedup' (r : Route) : List Route → Route × List Route
    | [] => (r, [])
    | q :: t =>
      if q.expert = r.expert ∧ q.token = r.token then
        dedup' { r with weight := BitVec.ofNat 32 (eAdd .f32 r.weight.toNat q.weight.toNat) } t
      else
        let u := dedup' q t
        (r, u.1 :: u.2)

def Route.bytes (r : Route) : List Byte := natToBytes 8 (r.token + r.expert * 2 ^ 20 + r.weight.toNat * 2 ^ 32)

/-- ARG6 and ARG7 of the tiles of one expert whose entries start at index i of L. -/
def expertTiles (buf tile x : Nat) : Nat → Nat → Nat → List Nat
  | 0, _, _ => []
  | fuel + 1, i, n =>
    if n = 0 then []
    else ((buf + 8 * i) % 2 ^ 64 * 2 ^ 64 + (x * 2 ^ 32 + min n tile)) :: expertTiles buf tile x fuel (i + min n tile) (n - min n tile)

/-- ARG6 and ARG7 of every tile task, experts ascending. -/
def allTiles (buf tile : Nat) (counts : List Nat) : List Nat :=
  ((counts.zip (List.range counts.length)).foldl (fun (acc : Nat × List Nat) e =>
    (acc.1 + e.1, acc.2 ++ expertTiles buf tile e.2 (e.1 + 1) acc.1 e.1)) (0, [])).2

/-- A spawn descriptor that breaks Table 12.7. -/
def State.badSpawn (s : State) (bs : List Byte) : Bool :=
  let n := bfield bs 0x10 19 0
  let nexp := bfield bs 0x10 31 20
  !(reservedZero bs 0x10 (bits 44 0) && tailZero bs 0x28) || nexp == 0 || bfield bs 0x10 43 32 == 0
    || (bfield bs 0x10 44 44 == 1 && !s.accepted 8) || !globalOk (bword bs 0) 256 256
    || (bword bs 8).toNat % 8 != 0 || !(n == 0 || (globalOk (bword bs 8) 8 (8 * n) && globalOk (bword bs 0x18) 1 (8 * n)))
    || !globalOk (bword bs 0x20) 1 (4 * nexp)

/-- The lists and counts written, and the tiles still to be made. -/
def State.spawnStart (s : State) (g : Graph) (n : Nat) : Io State :=
  (s.nodeRec g n).bind (fun r =>
    let a := bword r.2 8
    (r.1.ioStruct g.job g.world a.toNat 64).bind (fun d =>
      let bs := d.2
      if d.1.badSpawn bs then .bad d.1 .descriptor a.toNat 0
      else
        let cnt := bfield bs 0x10 19 0
        let nexp := bfield bs 0x10 31 20
        (if cnt = 0 then Io.ok (d.1, ([] : List Byte)) else d.1.ioRead g.job g.world (bword bs 8).toNat (8 * cnt)).bind (fun t =>
          let rs : List Route := (List.range cnt).map (fun i =>
            { token := bfield t.2 (8 * i) 19 0, expert := bfield t.2 (8 * i) 31 20, weight := BitVec.ofNat 32 (bfield t.2 (8 * i) 63 32)
              index := i })
          if rs.any (fun x => decide (nexp ≤ x.expert)) then .bad t.1 .descriptor a.toNat 0
          else
            let l := (if bfield bs 0x10 44 44 = 1 then dedup else id) (sortRoutes rs)
            let counts := (List.range nexp).map (fun x => (l.filter (fun q => q.expert == x)).length)
            (if l.isEmpty then Io.ok t.1 else t.1.ioWrite g.job g.world (bword bs 0x18).toNat (l.flatMap Route.bytes)).bind (fun u =>
              (u.ioWrite g.job g.world (bword bs 0x20).toNat (words4 counts)).bind (fun v =>
                .ok (v.modNode g.id n (fun y => { y with begun := true
                                                         tiles := allTiles (bword bs 0x18).toNat (bfield bs 0x10 43 32) counts }))))))) 

/-- The template of a spawn. -/
def State.readTemplate (s : State) (g : Graph) (va : Word) : Io (State × List Byte) := s.readDesc g.job g.world va (some g.prio) 0 true

/-- The next tile task of a spawn, where it is granted an entry or may take one. Each gets a TASKID of its own, whatever its
template holds there (DESIGN CHOICE, log 110). DESIGN CHOICE (log 83): each tile begins to wait when the one before it has been made. -/
def State.spawnNext (s : State) (g : Graph) (n : Nat) (x : Node) (granted : Bool) : Io State :=
  match x.tiles with
  | [] => .ok s
  | q :: rest =>
    if !(granted || s.entryForNode) then .ok (s.nodeWaits g.id n)
    else
      (s.nodeRec g n).bind (fun r => (r.1.ioStruct g.job g.world (bword r.2 8).toNat 64).bind (fun d =>
        let va := bword d.2 0
        (d.1.readTemplate g va).bind (fun b =>
          let t0 : Task := { id := 0, creator := .tile g.id n x.tile, job := g.job, world := g.world, prio := g.prio, desc := va
                             taskid := b.1.freeTaskid g.job, origin := .tile g.id n x.tile }
          let t := b.1.describe t0 b.2 1
          .ok ((b.1.newTask { t with args := (t.args.set 6 (word64 (q / 2 ^ 64))).set 7 (word64 q) }).modNode g.id n (fun y =>
            { y with tile := y.tile + 1, tiles := rest, waits := !rest.isEmpty && granted, since := s.clock })))))

/-- Tiles made one after another while entries are free. -/
def State.spawnTiles (s : State) (gr n : Nat) : Nat → Io State
  | 0 => .ok s
  | fuel + 1 =>
    match s.graph gr with
    | none => .ok s
    | some g =>
      match g.nodes[n]? with
      | none => .ok s
      | some x => if x.tiles.isEmpty || x.waits then .ok s else (s.spawnNext g n x false).bind (fun u => u.spawnTiles gr n fuel)

/-- SPAWN: the routing table is sorted, merged and written out, then a task is made for each tile as entries are free. -/
def execSpawn (gr n : Nat) (s : State) : Out :=
  s.acting gr n (fun g x =>
    if x.waits then .ok s
    else (if x.begun then .ok s else s.spawnStart g n).bind (fun u => u.spawnTiles gr n (poolSize + 1)))

/-! Pool entries (02 R33). -/

/-- The node that has waited longest for an entry; equal cycles go to the lower slot, then the lower index. -/
def State.firstWaiter (s : State) : Option (Nat × Nat) :=
  let all := s.graphs.flatMap (fun g => (g.nodes.zip (List.range g.nodes.length)).filterMap (fun e =>
    if e.1.waits then some (e.1.since, g.slot, e.2, g.id) else none))
  (all.foldl (fun (m : Option (Nat × Nat × Nat × Nat)) e => match m with
    | none => some e
    | some b => if e.1 < b.1 ∨ (e.1 = b.1 ∧ (e.2.1 < b.2.1 ∨ (e.2.1 = b.2.1 ∧ e.2.2.1 < b.2.2.1))) then some e else m) none).map
      (fun e => (e.2.2.2, e.2.2.1))

/-- The Foyer slot that waits for an entry: highest PRIO, then longest wait (02 R33). DESIGN CHOICE (log 83): of equal ones, the lower slot
number. -/
def State.firstSlot (s : State) : Option Nat :=
  let all := s.foyer.filterMap (fun e => if e.2.waits then (match s.qEntry e.2.queue with
    | .ok q => some (q.prio, e.2.since, e.1)
    | .error _ => none) else none)
  (bestQueue all).map (fun b => b.2.2)

/-- POOL_ENTRY_FREE: a free entry goes to the first creator that waits: LAUNCHes by core number, then nodes, then Foyer slots. -/
def execPoolEntryFree (s : State) : Out :=
  if s.poolFree = 0 then .next s
  else
    let cores := (s.launches.filter (fun e => e.2 == 0)).map (·.1)
    match cores.foldl (fun (m : Option Nat) c => match m with
        | none => some c
        | some b => some (min b c)) none with
    | some c => .next { s with launches := s.launches.map (fun e => if e.1 = c then (c, 1) else e) }
    | none =>
      match s.firstWaiter with
      | some (gr, n) => s.acting gr n (fun g x => if x.tiles.isEmpty then s.kernelTask g n true else s.spawnNext g n x true)
      | none =>
        match s.firstSlot with
        | some n => .next (s.admitPacket n true)
        | none => .next s

/-- Entries that the creators in waiting ask for, those of a spawn's further tiles included. -/
def State.wanted (s : State) : Nat :=
  (s.launches.filter (fun e => e.2 == 0)).length + (s.foyer.filter (fun e => e.2.waits)).length
    + (s.graphs.flatMap (fun g => (g.nodes.filter (·.waits)).map (fun x => max 1 x.tiles.length))).foldl (· + ·) 0
/-- One POOL_ENTRY_FREE for each entry that is free and wanted. -/
def State.poolSteps (s : State) : List Instr := List.replicate (min s.poolFree s.wanted) .poolEntryFree

/-! The graphs' turn in a clock. -/

/-- The step that an ACTING or skipped node asks for. -/
def State.nodeSteps (s : State) (g : Graph) (n : Nat) (x : Node) : List Instr :=
  match x.state with
  | .skipped => if x.begun then [] else [.nodeRelease g.id n .skip]
  | .acting =>
    if x.failed then []
    else
      let bs := ((s.ioStruct g.job g.world (g.ptr.toNat + 64 * n) 64).get (s, [])).2
      let kind := bfield bs 0 2 0
      if kind = 1 then [.nodeCond g.id n]
      else if kind = 2 then [if x.begun then .nodeLoopIterate g.id n else .nodeLoop g.id n]
      else if kind = 3 then [.nodeWait g.id n]
      else if kind = 4 then [.nodeSignal g.id n]
      else if x.begun && x.tiles.isEmpty then [.nodeKernelComplete g.id n]
      else [if bfield bs 0 3 3 = 1 then .spawn g.id n else .nodeKernel g.id n]
  | _ => []

/-- Steps by the Foyer slot of their graph, then by node index (02 R33). -/
def insertStep (x : (Nat × Nat) × Instr) : List ((Nat × Nat) × Instr) → List ((Nat × Nat) × Instr)
  | [] => [x]
  | y :: t => if y.1.1 < x.1.1 ∨ (y.1.1 = x.1.1 ∧ y.1.2 < x.1.2) then y :: insertStep x t else x :: y :: t

/-- Every graph's nodes act, by slot and index, so that requests of one cycle for pool entries stand in the order of R33; free entries go to
the creators that wait before. -/
def State.graphsTurn (s : State) : State :=
  let s1 : State := { s with graphs := s.graphs.map (fun g => if g.over_ && !g.halted then { g with done := true } else g) }
  let runs := (s1.graphs.filter (fun g => !g.done)).flatMap (fun g =>
    (g.nodes.zip (List.range g.nodes.length)).flatMap (fun e => (s1.nodeSteps g e.2 e.1).map (fun i => ((g.slot, e.2), i))))
  { s1 with agenda := (s1.poolSteps ++ (runs.foldr insertStep []).map (·.2)).map .run ++ s1.agenda }

end Sys2Proof.Machine
end

