-- ==== Sys2Proof/Machine/HostRegs.lean ====
section
/-! DEFINITION. What the host does to the module: its registers, the memory aperture, the invalidate command, power states, boot stages and
resets (04 R84, 14 R285, R289, 15 R291, R292, R298 to R302, 21 R374, R388, 23 R414). -/

namespace Sys2Proof.Machine
open Sys2Proof

def State.modHost (s : State) (f : HostRegs → HostRegs) : State := { s with host := f s.host }

/-! Stages (R299, R300). -/

/-- STAGE changes, with its vector. -/
def State.setStage (s : State) (n : Nat) : State :=
  (s.modHost (fun h => { h with stage := n })).raiseMsix 0 3

/-- Features offered (Table 15.5). -/
def featDev : BitVec 128 := 0x7FF

/-- Milliseconds of the stages that end by themselves (Table 15.6). -/
def stageMs (n : Nat) : Nat := if n = 0 then 20 else if n = 1 then 40 else if n = 2 then 300 else 100
/-- The clock in which a stage that begins now ends, unloaded. -/
def State.stageEnd (s : State) (n : Nat) : Nat := s.clock + stageMs n * 1000 * s.host.freq

/-- CTL.NEG: FEATACC is set, and with bit 0 in it STAGE becomes READY. -/
def State.negotiate (s : State) : State :=
  if s.host.stage ≠ 4 then s
  else
    let acc := featDev &&& s.host.featDrv
    let t := s.modHost (fun h => { h with featAcc := acc })
    if acc.getLsbD 0 then t.setStage 5 else t
def execCtlNeg (s : State) : Out := .next s.negotiate

/-- CTL.GO: RUN, in which doorbells kept so far are served. -/
def State.go (s : State) : State := if s.host.stage = 5 then s.setStage 6 else s
def execCtlGo (s : State) : Out := .next s.go

/-- BOOT_STAGE_COMPLETE: RESET to HOSTLINK end when their work is done, no earlier than their unloaded time. Retirements hold throughout. -/
def execBootStageComplete (s : State) : Out :=
  let n := s.host.stage
  .next (if 4 ≤ n ∨ s.clock < s.host.stageAt then s
    else (s.modHost (fun h => { h with stageAt := s.stageEnd (n + 1) })).setStage (n + 1))

/-! Resets (14 R285, 18 R335, R338, 21 R388). -/

/-- What every reset leaves: nothing but retirements, REPLACE, host memory, and the model's own counters: no pair that an owner imported has a
name any more (14 R285). A STAGE that changes raises its vector (18 Table 18.5). -/
def State.anew (s : State) : State :=
  let t : State := { State.reset with
    hostMem := s.hostMem, hostTags := s.hostTags, inputs := s.inputs, clock := s.clock, fresh := s.fresh, serial := s.serial
    gals := (s.gals.filter (fun e => e.2.fenced || !e.2.retired.isEmpty)).map (fun e => (e.1, { fenced := e.2.fenced, retired := e.2.retired }))
    ports := (s.ports.filter (fun e => !e.2.inService)).map (fun e => (e.1, { inService := false, linkUp := false })) }
  let u := t.modHost (fun h => { h with replace := s.host.replace, fabric := s.host.fabric, stageAt := t.stageEnd 0, wallClock := s.clock })
  if s.host.stage = 0 then u else u.raiseMsix 0 3

/-- POWER_ON: the boot stages begin at RESET; HBM comes up as log 2 gives it. -/
def execPowerOn (s : State) : Out := .next s.anew

/-- HOT_RESET: tasks, sessions and keys go; HBM keeps its sectors, and key slots their generations, all EMPTY. -/
def State.hotReset (s : State) : State :=
  { s.anew with hbm := s.hbm, sectors := s.sectors
                keys := (s.keys.filter (fun e => e.2.gen != 0)).map (fun e => (e.1, { gen := e.2.gen })) }
def execHotReset (s : State) : Out := .next s.hotReset

/-! Power (14 Table 14.7, 15 R301, R302). -/

/-- The seat waits, or nothing of it is on its way, so that its clock may stop. -/
def State.coreRests (s : State) (c : Nat) : Bool :=
  let k := s.core c
  !k.placed || k.debugHalt ||
    (k.started && k.count.isSome && k.stop.isNone && decide (k.nextIssue ≤ k.sched) && k.inflight.isEmpty && k.landing.isEmpty
      && k.mxq.isEmpty && k.engineIdle s.clock && k.pend.isEmpty && k.cmq.isEmpty && k.hxqDone && k.late.isEmpty
      && (k.seq.mode == .waiting || k.cpqDone)
      && (match s.issueTurn c with
        | .idle t => (t.core c).stop.isNone
        | .ops _ _ => false))

/-- What a transition waits for: P1 for every core to rest, P2 for every seat to be saved, an exit for its time. -/
def State.powerReady (s : State) (goal : Nat) : Bool :=
  decide (s.host.pready ≤ s.clock) &&
    (if goal = 1 then (s.cores.map (·.1)).all s.coreRests
     else if goal = 2 then !s.cores.any (fun e => e.2.placed)
     else true)

/-- Microseconds of an exit to P0. -/
def exitMicros (n : Nat) : Nat := if n = 1 then 2 else if n = 2 then 5000 else 0

/-- Every running task asked for a checkpoint; one that is only placed is asked once it runs (22 R408). -/
def State.saveAll (s : State) : State := (s.tasks.filter (fun x => x.state == .running)).foldl (fun u x => u.request x.id .checkpoint) s
/-- The trace goes to the driver, and a sealed world's to its owner's session (14 Table 14.7). -/
def State.flushTraces (s : State) : State :=
  { s with traces := [], driverTraces := s.driverTraces ++ s.traces.filter (fun e => worldOfIdentity e.1 == 0)
           ownerTraces := s.ownerTraces ++ s.traces.filter (fun e => worldOfIdentity e.1 != 0) }

/-- A power state requested while no transition goes on. Entry to P2 asks every task for a checkpoint. P1 and P2 are left for P0, or off: from
one to the other leads through P0 (15 Table 15.7; log 58). -/
def State.enterPower (s : State) (goal : Nat) : State :=
  if s.host.pstate = goal then s
  else if s.host.pstate = 3 then (if goal = 0 then (s.anew.modHost (fun h => { h with stageAt := s.anew.stageEnd 1 })).setStage 1 else s)
  else
    let first := if s.host.pstate = 0 ∨ goal = 3 then goal else 0
    let t := s.modHost (fun h => { h with
      ptarget := some first, pready := s.clock + (if first = 0 then exitMicros h.pstate * h.freq else 0)
      pnext := if first = goal then none else some goal })
    if first = 2 then t.saveAll else t
/-- A request made during a transition is applied after it. -/
def State.askPower (s : State) (goal : Nat) : State :=
  if s.host.ptarget.isSome then s.modHost (fun h => { h with pnext := some goal }) else s.enterPower goal

def execPstateP0Run (s : State) : Out := .next (s.askPower 0)
def execPstateP1Gated (s : State) : Out := .next (s.askPower 1)
def execPstateP2Retention (s : State) : Out := .next (s.askPower 2)
def execPstateP3Off (s : State) : Out := .next (s.askPower 3)

/-- What departed seats left in their cores is gone with the compute logic's power (15 Table 15.7). -/
def State.darkenCores (s : State) : State :=
  (s.cores.filter (fun e => !e.2.placed)).foldl (fun u e => u.setCore e.1 e.2.vacated) s

/-- PSTATE_TRANSITION_DONE: CUR changes, the trace is flushed before P2, a kept cap applies at the exit from P2, P3 loses what R285 names, and a
request that waited is made. -/
def execPstateTransitionDone (s : State) : Out :=
  match s.host.ptarget with
  | none => .next s
  | some goal =>
    if !s.powerReady goal then .next s
    else
      let t := if goal = 3 then s.anew else if goal = 2 then s.flushTraces.darkenCores else s
      let u := t.modHost (fun h => { h with
        pstate := goal, ptarget := none, pnext := none
        pcap := if s.host.pstate = 2 then h.pcapNext.getD h.pcap else h.pcap
        pcapNext := if s.host.pstate = 2 then none else h.pcapNext })
      .next (match s.host.pnext with
        | some n => u.enterPower n
        | none => u)

/-- PCAP: a cap outside 2,000 to 6,000 W has no effect; one written in P2 applies at its exit. -/
def State.setCap (s : State) (v : Word) : State :=
  let w := field v 12 0
  if w < 2000 ∨ 6000 < w then s
  else if s.host.pstate = 2 then s.modHost (fun h => { h with pcapNext := some w })
  else s.modHost (fun h => { h with pcap := w })
def execPcap (v : Word) (s : State) : Out := .next (s.setCap v)

/-- Module power would be above the cap at a core clock (R302). -/
def State.overCap (s : State) (mhz : Nat) : Bool := decide (s.host.pcap < (Config.watts s.clock mhz).toNat)

/-- CLOCK_STEP: one step of 100 MHz between 800 and 1,600 MHz; a step up only to a clock at which power stays at or below the cap (R302). -/
def execClockStep (mhz : Nat) (s : State) : Out :=
  .next (if 800 ≤ mhz ∧ mhz ≤ 1600 ∧ mhz % 100 = 0 ∧ ((mhz = s.host.freq + 100 ∧ s.overCap mhz = false) ∨ mhz + 100 = s.host.freq) then
    s.modHost (fun h => { h with freq := mhz, wallBase := s.wall, wallClock := s.clock }) else s)

/-! Doorbells (12 R239, R241, 15 R291, R300, R301). -/

/-- A posted write waits behind an earlier one that a page under migration holds (06 R133). -/
def State.posted (s : State) (i : Instr) (t : State) : Out :=
  if s.heldIo.isEmpty then .next t else .next { s with heldIo := s.heldIo ++ [i] }

/-- A doorbell ends P1, and one that comes while P1 is entered ends it after the entry; a request that waits already stands (R301). -/
def State.wakeUp (s : State) : State :=
  if s.host.pstate = 1 ∧ s.host.ptarget = none then s.enterPower 0
  else if s.host.ptarget = some 1 ∧ s.host.pnext = none then s.modHost (fun h => { h with pnext := some 0 })
  else s

/-- DOORBELL: kept until RUN, then served; it ends P1. -/
def State.doorbell (s : State) (fn : HostFn) (q : Nat) : State :=
  let t := s.wakeUp
  let n := q % 65536
  if !t.running then t.modHost (fun h => { h with doorbells := h.doorbells ++ [(fn.vf, n)] }) else t.ringFor fn.vf n
def execDoorbell (fn : HostFn) (q : Nat) (s : State) : Out := s.posted (.doorbell fn q) (s.doorbell fn q)

/-! Apertures (R291, R292, 21 R374). -/

/-- The bits of APERTURE and VAPERTURE: JOB and VBASE. -/
def apertureBits : Word := bits 15 0 ||| bits 57 37

/-- The job that owns a sealed world. -/
def State.ownerOf (s : State) (world : Nat) : Option Job := s.jobs.find? (fun j => j.worlds.any (fun w => w.num == world))

/-- TDISP state of a sealed world. -/
def State.tdiOf (s : State) (world : Nat) : Tdi :=
  (((s.ownerOf world).bind (fun j => j.worlds.find? (·.num == world))).map (·.tdi)).getD .unlocked

/-- VAPERTURE: written by its own world's stream, while its TDI is RUN, for the job that owns the world. -/
def execVaperture (fn : HostFn) (v : Word) (s : State) : Out :=
  s.posted (.vaperture fn v) (if fn.vf ≠ 0 ∧ fn.ideMatch ∧ s.tdiOf fn.vf = .run ∧ (s.ownerOf fn.vf).map (·.id) = some (field v 15 0) then
    s.modHost (fun h => { h with vaperture := sset 0 fn.vf (v &&& apertureBits) h.vaperture }) else s)

/-- The job, world and virtual address of an aperture access, or why it is not performed: first a TDI that is not RUN, or another stream
(21 R374), then no job, or an offset outside the BAR or not aligned. -/
def State.aperture (s : State) (fn : HostFn) (off n align : Nat) : Except (Option Record) (Nat × Nat × Nat) :=
  let reg := if fn.vf = 0 then s.host.aperture else sget 0 s.host.vaperture fn.vf
  let va := (field reg 57 37 * 2 ^ 36 + off) % 2 ^ 57
  let job := field reg 15 0
  if fn.vf ≠ 0 ∧ !(fn.ideMatch && s.tdiOf fn.vf == .run) then
    .error (some { seq := 0, code := .tdierror, src := 2, identity := identityOf job 0 fn.vf 0, addr := word64 va, cyc := s.ioCycles })
  else if job = 0 ∨ (if fn.vf = 0 then 2 ^ 36 else 2 ^ 32) < off + n ∨ off % align ≠ 0 then .error none
  else .ok (job, fn.vf, va)

def State.answer (s : State) (c : Completion) : State := { s with hostOut := s.hostOut ++ [c] }

/-- The record of an aperture access that fails: SRC 2, no seat, SEV 0. -/
def State.apertureFail (s : State) (job world : Nat) (code : Code) (addr unit : Nat) : State :=
  s.record { seq := 0, code := code, src := 2, unit := unit, identity := identityOf job 0 world 0, addr := word64 addr, cyc := s.ioCycles }

/-- An aperture access: it waits behind one that a page under migration holds; `fin` completes it, and `fail` says how it completes when a
check of Table 21.1 fails. -/
def State.bar2 (s : State) (i : Instr) (fn : HostFn) (off n : Nat) (refuse fail : Option Completion)
    (act : Nat → Nat → Nat → Io State) (align : Nat := 1) : Out :=
  let say (t : State) (c : Option Completion) : State := match c with
    | some x => t.answer x
    | none => t
  if !s.heldIo.isEmpty then .next { s with heldIo := s.heldIo ++ [i] }
  else match s.aperture fn off n align with
    | .error r => .next (say (match r with
        | some x => s.record x
        | none => s) refuse)
    | .ok (job, world, va) =>
      match act job world va with
      | .ok t => .next t
      | .held => .next { s with heldIo := [i] }
      | .bad t code _ unit => .next (say (t.apertureFail job world code va unit) fail)

/-- BAR2_READ: n bytes, a Completer Abort, or an Unsupported Request. -/
def execBar2Read (fn : HostFn) (off n : Nat) (s : State) : Out :=
  s.bar2 (.bar2Read fn off n) fn off n (some .unsupported) (some .completerAbort) (fun job world va =>
    (s.ioRead job world va n).bind (fun r => .ok (r.1.answer (.data r.2))))

/-- BAR2_WRITE: posted; one that fails is discarded. -/
def execBar2Write (fn : HostFn) (off : Nat) (data : List Byte) (s : State) : Out :=
  s.bar2 (.bar2Write fn off data) fn off data.length none none (fun job world va => s.ioWrite job world va data)

/-- An AtomicOp of 4 or 8 bytes that answers the old value (R291). -/
def State.atomic (s : State) (i : Instr) (fn : HostFn) (off : Nat) (wide : Bool) (f : Word → Word) : Out :=
  let n := if wide then 8 else 4
  s.bar2 i fn off n (some .unsupported) (some .completerAbort) (fun job world va =>
    (s.ioRead job world va n).bind (fun r =>
      (r.1.ioWrite job world va (natToBytes n (f (word64 (bytesToNat r.2))).toNat)).bind (fun t => .ok (t.answer (.data r.2))))) n

/-- The low 4 bytes, or all 8. -/
def operand (wide : Bool) (v : Word) : Word := if wide then v else (v.setWidth 32 : W32).setWidth 64

def execBar2AtomicCas (fn : HostFn) (off : Nat) (wide : Bool) (old new : Word) (s : State) : Out :=
  s.atomic (.bar2AtomicCas fn off wide old new) fn off wide (fun x => if x = operand wide old then new else x)
def execBar2AtomicFetchadd (fn : HostFn) (off : Nat) (wide : Bool) (v : Word) (s : State) : Out :=
  s.atomic (.bar2AtomicFetchadd fn off wide v) fn off wide (fun x => x + v)

/-! The invalidate command (04 R84). -/

def State.invReg (s : State) (off : Nat) : Nat := (sget 0 s.host.inv off).toNat
def State.invJob (s : State) : Nat × Nat := (field (sget 0 s.host.inv 0x80) 15 0, field (sget 0 s.host.inv 0x80) 20 16)
/-- [a, a + n) meets the range of the command in progress. -/
def State.inRange (s : State) (a n : Nat) : Bool :=
  let r := s.host.invNow.2.2
  decide (a < r.1 + r.2 ∧ r.1 < a + n)

/-- INVALIDATE_COMMAND: caches drop every entry that overlaps the range, walkers their table entries, combining buffers are posted (log 70),
and the accesses translated so far are noted. -/
def State.invalidate (s0 : State) : State :=
  let jw := s0.invJob
  let s := s0.modHost (fun h => { h with invNow := (jw.1, jw.2, s0.invReg 0x88, s0.invReg 0x90) })
  let mine := (s.cores.filter (fun e => e.2.placed && e.2.job == jw.1 && e.2.world == jw.2)).map (·.1)
  let t := mine.foldl (fun u c => u.modCore c (fun k => { k.flushWc with tcache := k.tcache.filter (fun e => !s.inRange e.vbase e.len) })) s
  let v : State := { t with halls := t.halls.map (fun e => (e.1, { e.2 with cache := e.2.cache.filter (fun x =>
    !(x.1 == jw.1 && x.2.1 == jw.2 && s.inRange (x.2.2.2.1 * 2 ^ (12 + 9 * x.2.2.1)) (2 ^ (12 + 9 * x.2.2.1)))) })) }
  v.modHost (fun h => { h with invBusy := true, invMarks := mine.map (fun c => (c, (s.core c).issued)) })
def execInvalidateCommand (s : State) : Out := .next (if s.host.invBusy then s else s.invalidate)

/-- An access of the range that had its translation when the command began. -/
def State.oldAccess (s : State) (m : Nat × Nat) : Bool :=
  let k := s.core m.1
  (k.pend ++ k.hxq.flatten ++ k.wc.flatten).any (fun p => decide (p.iss ≤ m.2) && (match p.home with
    | some (.hbm _ _ va) | some (.host _ _ va) => s.inRange va p.n
    | _ => false))

/-- INVALIDATE_COMPLETE: BUSY clears once those accesses have performed. -/
def execInvalidateComplete (s : State) : Out :=
  .next (if s.host.invBusy ∧ !s.host.invMarks.any s.oldAccess then
    s.modHost (fun h => { h with invBusy := false, invMarks := [] }) else s)

/-! Registers (R298). -/

/-- DIAGINJ (23 R414): no effect while a sealed world is loaded. -/
def State.setDiaginj (s : State) (v : Word) : State :=
  if s.jobs.any (fun j => j.worlds.any (fun w => w.num != 0 && w.worldKey != 0)) then s
  else s.modHost (fun h => { h with diaginj := v &&& (bits 6 0 ||| bits 12 8 ||| bits 31 16) })
def execDiaginj (v : Word) (s : State) : Out := .next (s.setDiaginj v)

/-- MMAP entry m of JOBSEL. -/
def State.setMmap (s : State) (m : Nat) (v : Word) : State :=
  if 4096 ≤ m then s
  else s.modHost (fun h => { h with mmap := sset 0 (h.jobSel * 4096 + m) (v &&& bits 18 0) h.mmap })
def execMmap (m : Nat) (v : Word) (s : State) : Out := .next (s.setMmap m v)

/-- Where word w of entry k of a world's segment table is held. -/
def segAddr (job world k w : Nat) : Nat := (job * 32 + world) * 32 + 2 * k + w
/-- The segment table that a world finds when its job is created: what the driver has written of it (R298). -/
def State.segsOf (s : State) (job world : Nat) : Sparse Word :=
  (List.range 32).foldl (fun m i => sset 0 i (sget 0 s.host.segtab (segAddr job world 0 0 + i)) m) []

/-- Word w of SEGTAB entry k of WORLDSEL. -/
def State.setSegtab (s : State) (k w : Nat) (v : Word) : State :=
  if 16 ≤ k ∨ 2 ≤ w then s
  else
    let x := v &&& (if w = 0 then bits 18 0 else bits 21 0 ||| bits 53 32)
    (s.modHost (fun h => { h with segtab := sset 0 (segAddr h.jobSel h.worldSel k w) x h.segtab })).modJob s.host.jobSel (fun j =>
      { j with worlds := j.worlds.map (fun u => if u.num = s.host.worldSel then { u with segs := sset 0 (2 * k + w) x u.segs } else u) })
def execSegtab (k w : Nat) (v : Word) (s : State) : Out := .next (s.setSegtab k w v)

/-- Word i of the MSI-X table written; a vector whose mask bit is clear then is sent, if it waits (15 Table 15.4; log 76). -/
def State.setMsix (s : State) (i : Nat) (v : Word) : State :=
  let x := v &&& (if i % 2 = 1 then bits 32 0 else bits 63 2)
  let t := s.modHost (fun h => { h with msixTab := sset 0 i (x ^^^ msixReset i) h.msixTab })
  let e := (0, i / 2)
  if t.msixPend.contains e && !t.msixMasked 0 (i / 2) then { t with msix := t.msix ++ [e], msixPend := t.msixPend.filter (· != e) } else t

/-- One half of a 128-bit register written. -/
def halfSet (x : BitVec 128) (hi : Bool) (v : Word) : BitVec 128 :=
  if hi then v ++ (x.setWidth 64 : Word) else (x.extractLsb' 64 64 : Word) ++ v

/-- A write to PF BAR0 at an aligned offset: registers without a step of their own are written, the others act (Table 15.4). BARs answer
from HOSTLINK on. -/
def State.writeRegister (s : State) (off : Nat) (v : Word) : State :=
  if s.host.stage < 3 then s
  else if off = 0x20 ∨ off = 0x28 then
    (if 4 < s.host.stage then s
     else s.modHost (fun h => { h with featDrv := featDev &&& halfSet h.featDrv (off == 0x28) v }))
  else if off = 0x48 then
    (if v.getLsbD 1 then (if v.getLsbD 0 then s.negotiate else s).go else if v.getLsbD 0 then s.negotiate else s)
  else if off = 0x50 then s.modHost (fun h => { h with qtBase := v &&& bits 40 6 })
  else if off = 0x60 then s.modHost (fun h => { h with jobSel := field v 15 0, worldSel := field v 20 16 })
  else if off = 0x80 then s.modHost (fun h => { h with inv := sset 0 0x80 (v &&& bits 20 0) h.inv })
  else if off = 0x88 then s.modHost (fun h => { h with inv := sset 0 0x88 (v &&& bits 56 0) h.inv })
  else if off = 0x90 then s.modHost (fun h => { h with inv := sset 0 0x90 v h.inv })
  else if off = 0x98 then (if v.getLsbD 0 && !s.host.invBusy then s.invalidate else s)
  else if off = 0xA0 then s.modHost (fun h => { h with aperture := v &&& apertureBits })
  else if off = 0xC0 then s.askPower (field v 1 0)
  else if off = 0xC8 then s.setCap v
  else if off = 0x100 then s.setDiaginj v
  else if off = 0x1000 then s.doorbell {} (field v 15 0)
  else if 0x10000 ≤ off ∧ off < 0x18000 ∧ off % 8 = 0 then s.setMmap ((off - 0x10000) / 8) v
  else if 0x18000 ≤ off ∧ off < 0x18100 ∧ off % 8 = 0 then s.setSegtab ((off - 0x18000) / 16) ((off - 0x18000) / 8 % 2) v
  else if 0x20000 ≤ off ∧ off < 0x21000 ∧ off % 8 = 0 then s.setMsix ((off - 0x20000) / 8) v
  else s
def execRegisterWrite (off : Nat) (v : Word) (s : State) : Out := s.posted (.registerWrite off v) (s.writeRegister off v)

/-- One half of a 128-bit register. -/
def halfOf (x : BitVec 128) (hi : Bool) : Word := if hi then x.extractLsb' 64 64 else x.setWidth 64

/-- Pending bits of vectors 64 j to 64 j + 63 of the PF. -/
def State.msixPending (s : State) (j : Nat) : Word :=
  BitVec.ofNat 64 (((s.msixPend.filter (fun e => e.2 / 64 == j)).map (fun e => 2 ^ (e.2 % 64))).foldl (· + ·) 0)

/-- What a host read of PF BAR0 at an aligned offset answers, from HOSTLINK on; reserved bits, write-only fields and offsets without a
register read as zero (00 R5, Table 15.4), and the error log stands from 0x3_0000 on (18 R331). DESIGN CHOICE (log 76): the MSI-X table fills
its window, and the pending bits stand behind it. -/
def State.readRegister (s : State) (off : Nat) : Word :=
  let h := s.host
  if off % 8 ≠ 0 then 0
  else if off = 0 then word64 (0x1536 + Config.stepping.toNat * 2 ^ 16)
  else if off = 8 then 2
  else if off = 0x10 ∨ off = 0x18 then halfOf featDev (off == 0x18)
  else if off = 0x20 ∨ off = 0x28 then halfOf h.featDrv (off == 0x28)
  else if off = 0x30 ∨ off = 0x38 then halfOf h.featAcc (off == 0x38)
  else if off = 0x40 then word64 (h.stage + boolNat h.replace * 2 ^ 8)
  else if off = 0x50 then h.qtBase
  else if off = 0x60 then word64 (h.jobSel + h.worldSel * 2 ^ 16)
  else if off = 0x80 ∨ off = 0x88 ∨ off = 0x90 then sget 0 h.inv off
  else if off = 0x98 then word64 (boolNat h.invBusy * 2)
  else if off = 0xA0 then h.aperture
  else if off = 0xC0 then word64 (h.pstate * 2 ^ 8)
  else if off = 0xC8 then word64 h.pcap
  else if off = 0xD0 then word64 (min (Config.watts s.clock h.freq).toNat h.pcap + h.freq * 2 ^ 16)
  else if off = 0x100 then h.diaginj
  else if 0x10000 ≤ off ∧ off < 0x18000 then sget 0 h.mmap (h.jobSel * 4096 + (off - 0x10000) / 8)
  else if 0x18000 ≤ off ∧ off < 0x18100 then sget 0 h.segtab (segAddr h.jobSel h.worldSel 0 0 + (off - 0x18000) / 8)
  else if 0x20000 ≤ off ∧ off < 0x21000 then h.msixWord ((off - 0x20000) / 8)
  else if 0x21000 ≤ off ∧ off < 0x21020 then s.msixPending ((off - 0x21000) / 8)
  else if 0x30000 ≤ off ∧ off < 0x40000 then
    ((s.log.find? (fun r => r.seq % 1024 == (off - 0x30000) / 64)).map (fun r => r.words.getD ((off - 0x30000) / 8 % 8) 0)).getD 0
  else 0

/-- What a host read of a VF's BAR0 answers: its VAPERTURE, reserved bits zero (15 R291, R292). -/
def State.readVfRegister (s : State) (vf off : Nat) : Word := if off = 8 then sget 0 s.host.vaperture vf else 0

/-! The host's turn in a clock. -/

/-- What falls due of itself: boot stages, power transitions, a step of the clock down where power is above the cap, the invalidate command,
links that have not trained in their time, checkpoints for P2 and seal records that waited. -/
def State.hostTurn (s0 : State) : State :=
  let s := (if s0.host.ptarget = some 2 then s0.saveAll else s0).writeSeals
  let runs : List Instr :=
    (if s.host.stage < 4 ∧ s.host.stageAt ≤ s.clock ∧ s.host.pstate ≠ 3 then [.bootStageComplete] else [])
      ++ (if s.host.ptarget.isSome then [.pstateTransitionDone] else [])
      ++ (if s.host.pstate = 0 ∧ s.overCap s.host.freq then [.clockStep (s.host.freq - 100)] else [])
      ++ (if s.host.invBusy then [.invalidateComplete] else [])
      ++ ((s.ports.filter (fun e => s.untrained e.1)).map (fun e => .linkRetrainTimeout e.1))
  { s with agenda := runs.map .run ++ s.agenda }

end Sys2Proof.Machine
end

