-- ==== Sys2Proof/Machine/Trust.lean ====
section
/-! DEFINITION. The root of trust: key slots, the measured loader, measurements, TDISP states, signer hashes and fault policies (14 R275 to R285,
18 R329). -/

namespace Sys2Proof.Machine
open Sys2Proof

/-- SPDM sessions are up from READY on (15 Table 15.6). -/
def State.sessionsUp (s : State) : Bool := s.host.stage == 5 || s.host.stage == 6

/-! Key slots (14 R280 to R282). -/

/-- A key slot changed. -/
def State.setKey (s : State) (slot : Nat) (k : KeySlot) : State := { s with keys := sput slot k s.keys }

/-- A key command for the slot is taken: the slot is EMPTY and the owner's. Any other command is refused. -/
def State.keyFree (s : State) (owner : Nat × Nat) (slot job world : Nat) : Bool :=
  s.sessionsUp && slot != 0 && decide (slot ≤ 65535) && !(sget {} s.keys slot).live && owner == (job, world) && (s.worldOf job world).isSome

/-- A pair of a number of its own loaded into a slot: the generation advances. -/
def State.loadKey (s : State) (slot job world n : Nat) : State :=
  s.setKey slot { live := true, gen := ((sget {} s.keys slot).gen + 1) % 32, job := job, world := world, owner := (job, world), serial := n }

/-- KEY_NEW: the root of trust draws the pair. -/
def execKeyNew (owner : Nat × Nat) (slot job world : Nat) (s : State) : Out :=
  .next (if s.keyFree owner slot job world then { s.loadKey slot job world s.serial with serial := s.serial + 1 } else s)

/-- KEY_IMPORT: the pair is unwrapped under the key of the owner's session (log 6); one wrapped pair imported twice in it is one pair. -/
def execKeyImport (owner : Nat × Nat) (slot job world : Nat) (wrapped : Nat) (s : State) : Out :=
  .next (if !s.keyFree owner slot job world then s
    else match s.imports.find? (fun e => e.1 == owner && e.2.1 == wrapped) with
      | some e => s.loadKey slot job world e.2.2
      | none => { s.loadKey slot job world s.serial with serial := s.serial + 1, imports := (owner, wrapped, s.serial) :: s.imports })

/-- KEY_DESTROY: the pair is gone and the slot EMPTY. An access performs whole in one step, so none is under way. -/
def execKeyDestroy (owner : Nat × Nat) (slot : Nat) (s : State) : Out :=
  let k := sget {} s.keys slot
  .next (if s.sessionsUp && slot != 0 && k.live && k.owner == owner then s.setKey slot { gen := k.gen } else s)

/-! The measured loader (14 R277, R278). -/

/-- Length padded to 256 bytes. -/
def padded (n : Nat) : Nat := (n + 255) / 256 * 256

/-- Bits [hi:lo] of the 32-bit word at `off`. -/
def hfield (bs : List Byte) (off hi lo : Nat) : Nat := field (word64 (bytesToNat ((bs.drop off).take 4))) hi lo

/-- The header breaks Table 14.2, or asks for what the loader does not load: ALT, seats, debug level, features. -/
def State.badHeader (s : State) (h : List Byte) (x : ImageSpec) : Bool :=
  let isSealed := hfield h 4 0 0 == 1
  let lock := hfield h 0xC 0 0 == 1
  let w := if lock then 4 else 8
  let lo := hfield h 0xC 26 16
  let hi := hfield h 0x10 10 0
  let word (off : Nat) : Nat := bytesToNat ((h.drop off).take 4)
  let zero (off : Nat) (used : Word) : Bool := word64 (word off) &&& ~~~used == 0
  !(word 0 == 0x4D495254 && zero 4 (bits 2 0) && zero 8 (bits 7 0) && zero 0xC (bits 0 0 ||| bits 26 16) && zero 0x10 (bits 10 0)
      && tailZero h 0xB0)
    || hfield h 8 7 0 != 1 || hfield h 4 2 1 == 3 || decide (hfield h 4 2 1 < x.debug) || isSealed != (x.world != 0)
    || (isSealed && decide (1 < x.debug)) || lo == 0 || decide (x.nseats < lo) || decide (hi < x.nseats)
    || decide (128 * w < x.nseats) || (decide (w < x.nseats) && x.nseats % w != 0)
    || decide (65536 < hfield h 0x14 16 0) || decide (16384 < hfield h 0x14 31 17)
    || (lock && !s.accepted 1) || (isSealed && !s.accepted 6) || (x.debug == 1 && !s.accepted 9) || (x.debug == 2 && !s.accepted 10)
    || (!x.regions.isEmpty && !s.accepted 4) || (x.channels.any (fun e => decide (2 ≤ e.2.cls)) && !s.accepted 2)

/-- The four words of a channel entry as the loader builds them (13 R261, Table 13.1). -/
def ChanDecl.words (d : ChanDecl) (n : Nat) : List Word :=
  let consumer := windowOf d.base != some .pod
  [d.base,
   word64 (1 + boolNat consumer * 2 + d.cls * 2 ^ 2 + d.fmt * 2 ^ 4 + (d.depth - 1) * 2 ^ 10 + (d.slot / 64 - 1) * 2 ^ 18 + d.peer * 2 ^ 28
     + d.module * 2 ^ 38),
   word64 (d.fill.getD (128 + 2 * n) + d.free.getD (129 + 2 * n) * 2 ^ 8 + d.pch * 2 ^ 16 + d.hop * 2 ^ 24 + d.tensor * 2 ^ 32), 0]

/-- `.data` relocated: the address at which it is placed is added to each word that holds an address in it (07 Table 7.15; log 47). -/
def relocate (va : Nat) (data : List Byte) (offs : List Nat) : List Byte :=
  offs.foldl (fun d o => if o + 8 ≤ d.length then
    d.take o ++ natToBytes 8 (bytesToNat ((d.drop o).take 8) + va) ++ d.drop (o + 8) else d) data

/-- IMAGE_LOAD (R278): the image is read, checked, measured, given a fresh world key and placed; a refused one changes
nothing but what its reads have corrected. -/
def State.loadImage (s : State) (x : ImageSpec) : Io State :=
  match s.worldOf x.job x.world with
  | none => .ok s
  | some w =>
    if !s.sessionsUp || (x.world != 0 && w.tdi != .locked) then .ok s
    else
      (s.ioRead x.job x.world x.va 256).bind (fun h =>
        if h.1.badHeader h.2 x then .ok h.1
        else
          let tl := hfield h.2 0x14 16 0
          let cl := hfield h.2 0x14 31 17
          let dl := (bword h.2 0x18).toNat
          let total := padded tl + padded cl + padded dl
          (h.1.ioRead x.job x.world (x.va + 256) total).bind (fun body =>
            let digest := Config.sha384 (h.2.take 0x50 ++ body.2)
            let signer := bytesToNat ((h.2.drop 0x20).take 48)
            if x.world ≠ 0 ∧ !(w.hash == some signer && Config.verify signer digest ((h.2.drop 0x50).take 96)) then .ok body.1
            else
              let lock := hfield h.2 0xC 0 0
              let meas := Config.sha384 (h.2.take 0xB0 ++ body.2 ++ natToBytes 2 x.nseats ++ natToBytes 1 lock ++ natToBytes 1 x.debug)
              let data := relocate x.dataVa ((body.2.drop (padded tl + padded cl)).take dl) x.relocs
              let img : Image := { id := x.image, world := x.world, va := x.va, text := body.2.take tl
                                   const := (body.2.drop (padded tl)).take cl, key := s.serial, entry := x.entry, nseats := x.nseats
                                   lock := lock == 1, debug := x.debug, channels := x.channels.map (fun e => (e.1, ChanDecl.words e.2 e.1)), extents := x.extents, regions := x.regions }
              (if data.isEmpty then Io.ok body.1 else body.1.ioWrite x.job x.world x.dataVa data).bind (fun t =>
                let u := t.modJob x.job (fun j => { j with
                  images := j.images.filter (fun i => !(i.id == x.image && i.world == x.world)) ++ [img]
                  worlds := j.worlds.map (fun v => if v.num = x.world then
                    { v with measurement := meas, debug := x.debug, worldKey := s.serial } else v) })
                .ok { u with serial := s.serial + 1 })))

/-- A read or write that fails refuses the load; a page under migration holds it. -/
def execImageLoad (x : ImageSpec) (s : State) : Out :=
  match s.loadImage x with
  | .ok t => .next t
  | .held => .next { s with heldIo := s.heldIo ++ [.imageLoad x] }
  | .bad t _ _ _ => .next t

/-- GET_MEASUREMENTS: block 0x10 + WORLD as recorded. -/
def execGetMeasurements (world : Nat) (s : State) : Out :=
  match s.jobs.findSome? (fun j => j.worlds.find? (fun w => w.num == world && w.worldKey != 0)) with
  | some w => .next (if s.sessionsUp then s.answer (.data (natToBytes 48 w.measurement)) else s)
  | none => .next s

/-- SIGNER_HASH_SET, by the owner of a sealed world. -/
def execSignerHashSet (job world hash : Nat) (s : State) : Out :=
  .next (if s.sessionsUp && world != 0 then
    s.modJob job (fun j => { j with worlds := j.worlds.map (fun w => if w.num = world then { w with hash := some hash } else w) })
  else s)

/-- FAULT_POLICY_SET, by the owner of a sealed world: 512 entries. -/
def execFaultPolicySet (job world : Nat) (table : Sparse W32) (s : State) : Out :=
  .next (if s.sessionsUp && world != 0 then
    s.modJob job (fun j => { j with worlds := j.worlds.map (fun w =>
      if w.num = world then { w with policy := some (table.filter (fun e => decide (e.1 < 512))) } else w) })
  else s)

/-! TDISP (14 R284). -/

/-- Moves that TDISP allows. -/
def tdiMove : Tdi → Tdi → Bool
  | .unlocked, .locked => true
  | .locked, .run => true
  | .locked, .unlocked | .run, .unlocked | .error, .unlocked => true
  | .unlocked, .error | .locked, .error | .run, .error => true
  | _, _ => false

/-- TDI_STATE_CHANGE, where feature 6 is accepted: a move to ERROR or CONFIG_UNLOCKED saves nothing and kills every task of the world. -/
def execTdiStateChange (world : Nat) (t : Tdi) (s : State) : Out :=
  match s.ownerOf world with
  | none => .next s
  | some j =>
    if world = 0 ∨ !s.accepted 6 ∨ !tdiMove (s.tdiOf world) t then .next s
    else
      let s1 := s.modJob j.id (fun x => { x with worlds := x.worlds.map (fun w => if w.num = world then { w with tdi := t } else w) })
      if t = .locked ∨ t = .run then .next s1
      else
        let mine := s1.tasks.filter (fun x => x.job == j.id && x.world == world && x.state != .ended && !x.aborted)
        let rec0 : Record := { seq := 0, code := .tdierror, src := 2, identity := identityOf j.id 0 world 0, cyc := s.ioCycles }
        let u := s1.containAll mine .tdierror false
        .next (if mine.isEmpty ∧ t ≠ .error then s1
          else u.1.record { rec0 with sev := u.2.1, action := u.2.1, info := dumpedInfo u.2.2 })

end Sys2Proof.Machine
end

