-- ==== Sys2Proof/Machine/Jobs.lean ====
section
/-! DEFINITION. The driver's commands: creating and aborting jobs, copying ciphertext, and the debugger (02 R28, 04 R85, 08 R172, 14 R289,
21 R386, 22 R399). -/

namespace Sys2Proof.Machine
open Sys2Proof

/-- Worlds of a job: the open one alone, or one to sixteen sealed ones that no other job owns, where feature 6 is accepted (02 R28, 14 R275,
15 R299). -/
def State.worldsOk (s : State) (ws : List (Nat × Nat)) : Bool :=
  let ns := ws.map (·.1)
  (ns == [0]) || (!ns.isEmpty && decide (ns.length ≤ 16) && ns.Nodup && s.accepted 6 && ns.all (fun n => n != 0 && decide (n ≤ 16) && (s.ownerOf n).isNone))

/-- JOB_CREATE (R28): identifier, deadline, worlds with their table roots, open-world policy, dump area and context pool. -/
def execJobCreate (spec : JobSpec) (s : State) : Out :=
  let old := s.job spec.job
  let free := match old with
    | none => true
    | some j => j.aborted && !s.tasks.any (fun t => t.job == spec.job)
  .next (if s.sessionsUp && free && decide (1 ≤ spec.job ∧ spec.job ≤ 65535) && s.worldsOk spec.worlds
      && spec.dumpBase % 2 ^ 20 == 0 && spec.ctxBase % 2 ^ 20 == 0 && decide (spec.limit < 2 ^ 48) then
    { s with jobs := s.jobs.filter (fun j => j.id != spec.job) ++ [{
        id := spec.job, limit := spec.limit, dumpBase := spec.dumpBase, dumpLen := spec.dumpLen, ctxBase := spec.ctxBase
        ctxLen := spec.ctxLen
        worlds := spec.worlds.map (fun w => { num := w.1, troot := w.2, segs := s.segsOf spec.job w.1, policy := if w.1 = 0 then spec.policy else none }) }] }
  else s)

/-- JOB_ABORT: the driver aborts a job; no event, and so no record, stands behind it (18 R325, 21 R386). -/
def execJobAbort (job : Nat) (s : State) : Out :=
  .next (match s.job job with
    | some j => if j.aborted then s else (s.abortJob job (.trap 0)).1
    | none => s)

/-- One sector of raw ciphertext copied; one placed in HBM takes the generation of the slot named (R85). A read of HBM corrects a single
error, and rewrites an uncorrectable sector poisoned; poison never leaves for host memory, which can hold none, so a poisoned sector is not
copied there (21 R377, R378; log 78). -/
def State.copySector (s0 : State) (src dst slot : Nat) (toHost fromHost : Bool) : State :=
  let s := if fromHost then s0 else s0.afterRead (.hbm src 0 0) 32
  let bs := (if fromHost then s.hostMem else s.hbm).read src 32
  let tag := if fromHost then sget {} s.hostTags (src / 32) else sectorOf s src
  if toHost then
    if tag.poison then s
    else { s with hostMem := s.hostMem.write dst bs, hostTags := sput (dst / 32) { tag with gen := 0, soft := 0 } s.hostTags }
  else
    { s with hbm := s.hbm.write dst bs
             sectors := sput (dst / 32) { tag with gen := (sget {} s.keys slot).gen, soft := 0 } s.sectors }

def State.copySectors (s : State) (src dst slot : Nat) (toHost fromHost : Bool) : Nat → State
  | 0 => s
  | n + 1 => (s.copySectors src dst slot toHost fromHost n).copySector (src + 32 * n) (dst + 32 * n) slot toHost fromHost

/-- HOST_TRANSFER_ENGINE_COPY (R85): n sectors from one physical address to another, HBM or host memory at either end. -/
def execHostTransferEngineCopy (src dst n slot : Nat) (dstHost srcHost : Bool) (s : State) : Out :=
  .next (if src % 32 = 0 ∧ dst % 32 = 0 then s.copySectors src dst slot dstHost srcHost n else s)

/-- An access of the debugger to memory of a seat: its near SRAM, its team vault window, or its global memory. -/
def State.debugRead (s : State) (c : Nat) (m : DebugMem) (a n : Nat) : Io (State × List Byte) :=
  let k := s.core c
  let v := s.ownVault c
  match m with
  | .near => .ok (s, k.rf.near.read a n)
  | .vault => .ok (s, (s.gal v.1).vault.read (v.2 + a) n)
  | .global => s.ioRead k.job k.world a n
def State.debugWrite (s : State) (c : Nat) (m : DebugMem) (a : Nat) (bs : List Byte) : Io State :=
  let k := s.core c
  let v := s.ownVault c
  let put (h : Home) : Io State := .ok ((writeHome s h (full bs) false).toOption.getD s)
  match m with
  | .near => put (.near c a)
  | .vault => put (.vault v.1 (v.2 + a))
  | .global => s.ioWrite k.job k.world a bs

/-- Word w of a channel entry. -/
def Chan.word (e : Chan) (w : BitVec 2) : Word := [e.w0, e.w1, e.w2, e.w3].getD w.toNat 0
def Chan.setWord (e : Chan) (w : BitVec 2) (v : Word) : Chan :=
  if w = 0 then { e with w0 := v } else if w = 1 then { e with w1 := v } else if w = 2 then { e with w2 := v } else { e with w3 := v &&& bits 31 0 }

/-- What the debugger does to a seat at INVASIVE level; reads answer the debugger, which is the driver's. A special register that SRWR does not
write keeps its value (log 77). -/
def State.debugDo (s : State) (c : Nat) (act : DebugAct) : Io State :=
  let rf := (s.core c).rf
  let put (r : RegFile) : Io State := .ok (s.modCore c (fun k => { k with rf := r }))
  let say (bs : List Byte) : Io State := .ok (s.answer (.data bs))
  match act with
  | .go => .ok (s.modCore c (fun k => { k with debugHalt := false }))
  | .halt => .ok (s.modCore c (fun k => { k with debugHalt := true }))
  | .readS n => say (natToBytes 8 (rf.sreg n.toNat).toNat)
  | .writeS n v => put (rf.setS n.toNat v false)
  | .readP n => say (natToBytes 8 (rf.preg n.toNat).toNat)
  | .writeP n v => put (rf.setP n.toNat v)
  | .readV i => say (vecBytes (rf.vreg i))
  | .writeV i v => put (rf.setV i v (BitVec.allOnes 2048) 0)
  | .readF n => say (natToBytes 4 (sget 0 (s.core c).flags n.toNat).toNat)
  | .writeF n v => .ok (s.modCore c (fun k => { k with flags := sset 0 n.toNat v k.flags }))
  | .readT t r => say (vecBytes (((s.core c).tile t.toNat).getD r.toNat 0))
  | .writeT t r v => .ok (s.modCore c (fun k => k.setTile t.toNat (· == r.toNat) ((k.tile t.toNat).set r.toNat v)))
  | .readCh n w => say (natToBytes 8 ((sget {} rf.chans n.toNat).word w).toNat)
  | .writeCh n w v => put { rf with chans := sset {} n.toNat ((sget {} rf.chans n.toNat).setWord w v) rf.chans }
  | .readX n => say (natToBytes 8 (((s.core c).special rf n.toNat).getD 0).toNat)
  | .writeX n v => .ok (if specialWritable n.toNat then s.modCore c (fun k => k.writeSpecial n.toNat (rf.srwrValue n.toNat v)) else s)
  | .readC n => say (natToBytes 8 ((s.core c).seq.c.getD n.toNat 0).toNat)
  | .writeC n v => .ok (s.modCore c (fun k => { k with seq := { k.seq with c := k.seq.c.set n.toNat v } }))
  | .read m a n => (s.debugRead c m a n).bind (fun r => .ok (r.1.answer (.data r.2)))
  | .write m a bs => s.debugWrite c m a bs

/-- DEBUGGER_RELEASE: at INVASIVE level the debugger lets a seat go on, halts it before its next bundle, or reads or writes what it holds
(14 R289); outside P0, and while a migration holds its page, the access is held. -/
def execDebuggerRelease (c : Nat) (act : DebugAct) (s : State) : Out :=
  let k := s.core c
  let later : State := { s with heldDebug := s.heldDebug ++ [.debuggerRelease c act] }
  if s.host.pstate ≠ 0 then .next later
  else if !k.placed || k.debug != 2 then .next s
  else match s.debugDo c act with
    | .ok t => .next t
    | .held => .next later
    | .bad t _ _ _ => .next (t.answer .completerAbort)

end Sys2Proof.Machine
end

