-- ==== Sys2Proof/Machine/Dispatch.lean ====
section
/-! DEFINITION. One arm per instruction: its meaning. -/

namespace Sys2Proof.Machine
open Sys2Proof

def exec (i : Instr) (s : State) : Host.Outcome State Fault Refusal :=
  match i with
  | .add g d a b => Sys2Proof.Machine.execAdd g d a b s
  | .sub g d a b => Sys2Proof.Machine.execSub g d a b s
  | .addi g d a imm => Sys2Proof.Machine.execAddi g d a imm s
  | .mul g d a b => Sys2Proof.Machine.execMul g d a b s
  | .mulh g d a b u => Sys2Proof.Machine.execMulh g d a b u s
  | .and g d a b => Sys2Proof.Machine.execAnd g d a b s
  | .or g d a b => Sys2Proof.Machine.execOr g d a b s
  | .xor g d a b => Sys2Proof.Machine.execXor g d a b s
  | .andn g d a b => Sys2Proof.Machine.execAndn g d a b s
  | .shl g d a k => Sys2Proof.Machine.execShl g d a k s
  | .shr g d a k => Sys2Proof.Machine.execShr g d a k s
  | .sar g d a k => Sys2Proof.Machine.execSar g d a k s
  | .min g d a b => Sys2Proof.Machine.execMin g d a b s
  | .max g d a b => Sys2Proof.Machine.execMax g d a b s
  | .minu g d a b => Sys2Proof.Machine.execMinu g d a b s
  | .maxu g d a b => Sys2Proof.Machine.execMaxu g d a b s
  | .sel g d q a b => Sys2Proof.Machine.execSel g d q a b s
  | .clz g d a => Sys2Proof.Machine.execClz g d a s
  | .popc g d a => Sys2Proof.Machine.execPopc g d a s
  | .extr g d a pos lenM1 s1 => Sys2Proof.Machine.execExtr g d a pos lenM1 s1 s
  | .lea g d a b sh disp => Sys2Proof.Machine.execLea g d a b sh disp s
  | .mov g d a => Sys2Proof.Machine.execMov g d a s
  | .li g d imm => Sys2Proof.Machine.execLi g d imm s
  | .lih d imm => Sys2Proof.Machine.execLih d imm s
  | .cmp g cc d a b => Sys2Proof.Machine.execCmp g cc d a b s
  | .cmpi g cc d a imm => Sys2Proof.Machine.execCmpi g cc d a imm s
  | .pand g d a na b nb => Sys2Proof.Machine.execPand g d a na b nb s
  | .por g d a na b nb => Sys2Proof.Machine.execPor g d a na b nb s
  | .pxor g d a na b nb => Sys2Proof.Machine.execPxor g d a na b nb s
  | .pmov g d a na => Sys2Proof.Machine.execPmov g d a na s
  | .srrd g d n => Sys2Proof.Machine.execSrrd g d n s
  | .srwr g n a => Sys2Proof.Machine.execSrwr g n a s
  | .gspace g d a => Sys2Proof.Machine.execGspace g d a s
  | .gcast g t d a m => Sys2Proof.Machine.execGcast g t d a m s
  | .reps g a => Sys2Proof.Machine.execReps g a s
  | .vadd g st ty d a b => Sys2Proof.Machine.execVadd g st ty d a b s
  | .vsub g st ty d a b => Sys2Proof.Machine.execVsub g st ty d a b s
  | .vmul g st ty d a b => Sys2Proof.Machine.execVmul g st ty d a b s
  | .vfma g st ty d a b => Sys2Proof.Machine.execVfma g st ty d a b s
  | .vfms g st ty d a b => Sys2Proof.Machine.execVfms g st ty d a b s
  | .vfnma g st ty d a b => Sys2Proof.Machine.execVfnma g st ty d a b s
  | .vmin g st ty d a b => Sys2Proof.Machine.execVmin g st ty d a b s
  | .vmax g st ty d a b => Sys2Proof.Machine.execVmax g st ty d a b s
  | .vabs g st ty d a => Sys2Proof.Machine.execVabs g st ty d a s
  | .vneg g st ty d a => Sys2Proof.Machine.execVneg g st ty d a s
  | .vscale g st ty d a b => Sys2Proof.Machine.execVscale g st ty d a b s
  | .vrint g st ty d a => Sys2Proof.Machine.execVrint g st ty d a s
  | .vadds g st ty d a b => Sys2Proof.Machine.execVadds g st ty d a b s
  | .vsubs g st ty d a b => Sys2Proof.Machine.execVsubs g st ty d a b s
  | .vmullo g st ty d a b => Sys2Proof.Machine.execVmullo g st ty d a b s
  | .vmulhi g st ty d a b => Sys2Proof.Machine.execVmulhi g st ty d a b s
  | .vand g st d a b => Sys2Proof.Machine.execVand g st d a b s
  | .vor g st d a b => Sys2Proof.Machine.execVor g st d a b s
  | .vxor g st d a b => Sys2Proof.Machine.execVxor g st d a b s
  | .vandn g st d a b => Sys2Proof.Machine.execVandn g st d a b s
  | .vnot g st d a => Sys2Proof.Machine.execVnot g st d a s
  | .vshl g st ty d a k => Sys2Proof.Machine.execVshl g st ty d a k s
  | .vshr g st ty d a k => Sys2Proof.Machine.execVshr g st ty d a k s
  | .vsar g st ty d a k => Sys2Proof.Machine.execVsar g st ty d a k s
  | .vmov g st d a => Sys2Proof.Machine.execVmov g st d a s
  | .vbcst g ty d a => Sys2Proof.Machine.execVbcst g ty d a s
  | .vli g ty d imm => Sys2Proof.Machine.execVli g ty d imm s
  | .viota g ty d a => Sys2Proof.Machine.execViota g ty d a s
  | .vsel g d q a b => Sys2Proof.Machine.execVsel g d q a b s
  | .vcmp g cc ty d a b => Sys2Proof.Machine.execVcmp g cc ty d a b s
  | .vclass g d a mask => Sys2Proof.Machine.execVclass g d a mask s
  | .vpset g d a => Sys2Proof.Machine.execVpset g d a s
  | .vpand g d a na b nb => Sys2Proof.Machine.execVpand g d a na b nb s
  | .vpor g d a na b nb => Sys2Proof.Machine.execVpor g d a na b nb s
  | .vpxor g d a na b nb => Sys2Proof.Machine.execVpxor g d a na b nb s
  | .vpnot g d a => Sys2Proof.Machine.execVpnot g d a s
  | .vcvt g d a c => Sys2Proof.Machine.execVcvt g d a c s
  | .vrcp g d a => Sys2Proof.Machine.execVrcp g d a s
  | .vrsq g d a => Sys2Proof.Machine.execVrsq g d a s
  | .vexp2 g d a => Sys2Proof.Machine.execVexp2 g d a s
  | .vsum g ty d a => Sys2Proof.Machine.execVsum g ty d a s
  | .vrmax g ty idx d a => Sys2Proof.Machine.execVrmax g ty idx d a s
  | .vrmin g ty idx d a => Sys2Proof.Machine.execVrmin g ty idx d a s
  | .defer g a n => Sys2Proof.Machine.execDefer g a n s
  | .drq g d n flush p => Sys2Proof.Machine.execDrq g d n flush p s
  | .xpose g st clr op => Sys2Proof.Machine.execXpose g st clr op s
  | .cxs g ty k iv q dl => Sys2Proof.Machine.execCxs g ty k iv q dl s
  | .xperm g d a b => Sys2Proof.Machine.execXperm g d a b s
  | .xrot g d a n => Sys2Proof.Machine.execXrot g d a n s
  | .xshuf g p ty d a b => Sys2Proof.Machine.execXshuf g p ty d a b s
  | .xbcst g d a n => Sys2Proof.Machine.execXbcst g d a n s
  | .xpack g st ty d a grp => Sys2Proof.Machine.execXpack g st ty d a grp s
  | .xunpk g st ty d a grp s1 => Sys2Proof.Machine.execXunpk g st ty d a grp s1 s
  | .xcmpr g d a q => Sys2Proof.Machine.execXcmpr g d a q s
  | .mma g st d a b => Sys2Proof.Machine.execMma g st d a b s
  | .mmaz g st d a b => Sys2Proof.Machine.execMmaz g st d a b s
  | .tld g st d a => Sys2Proof.Machine.execTld g st d a s
  | .tstMemory g st p a => Sys2Proof.Machine.execTstMemory g st p a s
  | .tstRegister g st d a => Sys2Proof.Machine.execTstRegister g st d a s
  | .tzero g d => Sys2Proof.Machine.execTzero g d s
  | .tscale g c d a => Sys2Proof.Machine.execTscale g c d a s
  | .tadd g ty d b => Sys2Proof.Machine.execTadd g ty d b s
  | .ld g st sz sx d a disp => Sys2Proof.Machine.execLd g st sz sx d a disp s
  | .st g st sz x a disp => Sys2Proof.Machine.execSt g st sz x a disp s
  | .ldv g st sz sx d a disp => Sys2Proof.Machine.execLdv g st sz sx d a disp s
  | .stv g st sz x a disp => Sys2Proof.Machine.execStv g st sz x a disp s
  | .ldg g sz sx d a x t e => Sys2Proof.Machine.execLdg g sz sx d a x t e s
  | .stg g sz hk x a iv => Sys2Proof.Machine.execStg g sz hk x a iv s
  | .stNb g ty v a iv grp q => Sys2Proof.Machine.execStNb g ty v a iv grp q s
  | .gath g d a vi t e => Sys2Proof.Machine.execGath g d a vi t e s
  | .scat g va a vi q => Sys2Proof.Machine.execScat g va a vi q s
  | .fetch g sz sx d a x t e => Sys2Proof.Machine.execFetch g sz sx d a x t e s
  | .ldc g sz sx d a disp => Sys2Proof.Machine.execLdc g sz sx d a disp s
  | .wfree g ch nM1 => Sys2Proof.Machine.execWfree g ch nM1 s
  | .send g sz ch v off => Sys2Proof.Machine.execSend g sz ch v off s
  | .pubw g ch nM1 => Sys2Proof.Machine.execPubw g ch nM1 s
  | .recv g ch d nM1 vd => Sys2Proof.Machine.execRecv g ch d nM1 vd s
  | .radd g ch d a off => Sys2Proof.Machine.execRadd g ch d a off s
  | .advr g ch nM1 => Sys2Proof.Machine.execAdvr g ch nM1 s
  | .put g st sz x a => Sys2Proof.Machine.execPut g st sz x a s
  | .putf g sz x a f incM1 pos => Sys2Proof.Machine.execPutf g sz x a f incM1 pos s
  | .fadd g f v => Sys2Proof.Machine.execFadd g f v s
  | .faddRemote g p v => Sys2Proof.Machine.execFaddRemote g p v s
  | .faddb g d f incM1 bound => Sys2Proof.Machine.execFaddb g d f incM1 bound s
  | .faddbRemote g d p incM1 bound t e => Sys2Proof.Machine.execFaddbRemote g d p incM1 bound t e s
  | .fset g f v => Sys2Proof.Machine.execFset g f v s
  | .fsetRemote g p v => Sys2Proof.Machine.execFsetRemote g p v s
  | .fsetM g f v m blk => Sys2Proof.Machine.execFsetM g f v m blk s
  | .seqGo g addr f k => Sys2Proof.Machine.execSeqGo g addr f k s
  | .chset g ch a => Sys2Proof.Machine.execChset g ch a s
  | .br g off => Sys2Proof.Machine.execBr g off s
  | .bri g a => Sys2Proof.Machine.execBri g a s
  | .call g off => Sys2Proof.Machine.execCall g off s
  | .calli g a => Sys2Proof.Machine.execCalli g a s
  | .ret g => Sys2Proof.Machine.execRet g s
  | .loop g off => Sys2Proof.Machine.execLoop g off s
  | .loopR g off epi => Sys2Proof.Machine.execLoopR g off epi s
  | .wait g fc f v => Sys2Proof.Machine.execWait g fc f v s
  | .waitany g fc f nM1 v => Sys2Proof.Machine.execWaitany g fc f nM1 v s
  | .delay g n => Sys2Proof.Machine.execDelay g n s
  | .fence g sc => Sys2Proof.Machine.execFence g sc s
  | .fenceQueue g q => Sys2Proof.Machine.execFenceQueue g q s
  | .drain g sc => Sys2Proof.Machine.execDrain g sc s
  | .qfence g qs => Sys2Proof.Machine.execQfence g qs s
  | .rgnBegin g limit => Sys2Proof.Machine.execRgnBegin g limit s
  | .rgnKeep g a b => Sys2Proof.Machine.execRgnKeep g a b s
  | .rgnEnd g => Sys2Proof.Machine.execRgnEnd g s
  | .launch g a f => Sys2Proof.Machine.execLaunch g a f s
  | .trigger g => Sys2Proof.Machine.execTrigger g s
  | .tend g => Sys2Proof.Machine.execTend g s
  | .yield g => Sys2Proof.Machine.execYield g s
  | .trap g code a => Sys2Proof.Machine.execTrap g code a s
  | .sealOpen g a => Sys2Proof.Machine.execSealOpen g a s
  | .sealAdd g a => Sys2Proof.Machine.execSealAdd g a s
  | .sealClose g a => Sys2Proof.Machine.execSealClose g a s
  | .bkpt g id => Sys2Proof.Machine.execBkpt g id s
  | .cpMove ca cb inc len => Sys2Proof.Machine.execCpMove ca cb inc len s
  | .cpStr ca cb pitch rows rowlen => Sys2Proof.Machine.execCpStr ca cb pitch rows rowlen s
  | .cpPut ca cb pitch rows rowlen => Sys2Proof.Machine.execCpPut ca cb pitch rows rowlen s
  | .cpLoop lvl back n => Sys2Proof.Machine.execCpLoop lvl back n s
  | .cpAdd ca imm => Sys2Proof.Machine.execCpAdd ca imm s
  | .cpFlag ca loc val f => Sys2Proof.Machine.execCpFlag ca loc val f s
  | .cpWait val f => Sys2Proof.Machine.execCpWait val f s
  | .cpChk ca cls len => Sys2Proof.Machine.execCpChk ca cls len s
  | .seqProgramStart c => Sys2Proof.Machine.execSeqProgramStart c s
  | .correctFreezeEnd c => Sys2Proof.Machine.execCorrectFreezeEnd c s
  | .landingArrival c e => Sys2Proof.Machine.execLandingArrival c e s
  | .landingDue c => Sys2Proof.Machine.execLandingDue c s
  | .walkComplete hall k => Sys2Proof.Machine.execWalkComplete hall k s
  | .migRepoll hall k => Sys2Proof.Machine.execMigRepoll hall k s
  | .mxqEntryStart c => Sys2Proof.Machine.execMxqEntryStart c s
  | .tileClearPoint c => Sys2Proof.Machine.execTileClearPoint c s
  | .cmqEntryLeave c => Sys2Proof.Machine.execCmqEntryLeave c s
  | .hxqEntryLeave c k => Sys2Proof.Machine.execHxqEntryLeave c k s
  | .hopComparison c ch => Sys2Proof.Machine.execHopComparison c ch s
  | .lockstepCompare c even odd => Sys2Proof.Machine.execLockstepCompare c even odd s
  | .postedStoreFail c k => Sys2Proof.Machine.execPostedStoreFail c k s
  | .gmcStateWrite c w => Sys2Proof.Machine.execGmcStateWrite c w s
  | .gmcReplyResume gal m => Sys2Proof.Machine.execGmcReplyResume gal m s
  | .gmcReplyRedirect gal m npc => Sys2Proof.Machine.execGmcReplyRedirect gal m npc s
  | .gmcReplyRollback gal m => Sys2Proof.Machine.execGmcReplyRollback gal m s
  | .gmcReplyKill gal m => Sys2Proof.Machine.execGmcReplyKill gal m s
  | .gmcReplyAbort gal m => Sys2Proof.Machine.execGmcReplyAbort gal m s
  | .gmcWatchdog gal => Sys2Proof.Machine.execGmcWatchdog gal s
  | .seatDump c => Sys2Proof.Machine.execSeatDump c s
  | .taskCompletionEffects t => Sys2Proof.Machine.execTaskCompletionEffects t s
  | .checkpoint t => Sys2Proof.Machine.execCheckpoint t s
  | .checkpointTimer t => Sys2Proof.Machine.execCheckpointTimer t s
  | .preemptDrain t => Sys2Proof.Machine.execPreemptDrain t s
  | .drainTimeout t => Sys2Proof.Machine.execDrainTimeout t s
  | .seatSave c => Sys2Proof.Machine.execSeatSave c s
  | .vaultWindowSave t k => Sys2Proof.Machine.execVaultWindowSave t k s
  | .taskReplace t => Sys2Proof.Machine.execTaskReplace t s
  | .foyerBind slot => Sys2Proof.Machine.execFoyerBind slot s
  | .packetAdmit slot => Sys2Proof.Machine.execPacketAdmit slot s
  | .foyerSliceExpiry slot => Sys2Proof.Machine.execFoyerSliceExpiry slot s
  | .foyerSlotFree slot => Sys2Proof.Machine.execFoyerSlotFree slot s
  | .nodeRelease gr n m => Sys2Proof.Machine.execNodeRelease gr n m s
  | .nodeKernel gr n => Sys2Proof.Machine.execNodeKernel gr n s
  | .nodeCond gr n => Sys2Proof.Machine.execNodeCond gr n s
  | .nodeLoop gr n => Sys2Proof.Machine.execNodeLoop gr n s
  | .nodeLoopIterate gr n => Sys2Proof.Machine.execNodeLoopIterate gr n s
  | .nodeWait gr n => Sys2Proof.Machine.execNodeWait gr n s
  | .nodeSignal gr n => Sys2Proof.Machine.execNodeSignal gr n s
  | .nodeKernelComplete gr n => Sys2Proof.Machine.execNodeKernelComplete gr n s
  | .spawn gr n => Sys2Proof.Machine.execSpawn gr n s
  | .doorbell fn q => Sys2Proof.Machine.execDoorbell fn q s
  | .pcap v => Sys2Proof.Machine.execPcap v s
  | .clockStep mhz => Sys2Proof.Machine.execClockStep mhz s
  | .diaginj v => Sys2Proof.Machine.execDiaginj v s
  | .vaperture fn v => Sys2Proof.Machine.execVaperture fn v s
  | .mmap m v => Sys2Proof.Machine.execMmap m v s
  | .segtab k w v => Sys2Proof.Machine.execSegtab k w v s
  | .registerWrite off v => Sys2Proof.Machine.execRegisterWrite off v s
  | .bar2Read fn off n => Sys2Proof.Machine.execBar2Read fn off n s
  | .bar2Write fn off data => Sys2Proof.Machine.execBar2Write fn off data s
  | .bar2AtomicCas fn off wide old new => Sys2Proof.Machine.execBar2AtomicCas fn off wide old new s
  | .bar2AtomicFetchadd fn off wide v => Sys2Proof.Machine.execBar2AtomicFetchadd fn off wide v s
  | .keyNew owner slot job world => Sys2Proof.Machine.execKeyNew owner slot job world s
  | .keyImport owner slot job world wrapped => Sys2Proof.Machine.execKeyImport owner slot job world wrapped s
  | .keyDestroy owner slot => Sys2Proof.Machine.execKeyDestroy owner slot s
  | .getMeasurements world => Sys2Proof.Machine.execGetMeasurements world s
  | .imageLoad spec => Sys2Proof.Machine.execImageLoad spec s
  | .tdiStateChange world t => Sys2Proof.Machine.execTdiStateChange world t s
  | .linkKeyDerive port => Sys2Proof.Machine.execLinkKeyDerive port s
  | .linkRekey port => Sys2Proof.Machine.execLinkRekey port s
  | .flitCrcFail port => Sys2Proof.Machine.execFlitCrcFail port s
  | .linkdown port => Sys2Proof.Machine.execLinkdown port s
  | .linkRetrainTimeout port => Sys2Proof.Machine.execLinkRetrainTimeout port s
  | .flightWriteArrival p => Sys2Proof.Machine.execFlightWriteArrival p s
  | .flightWritefArrival p => Sys2Proof.Machine.execFlightWritefArrival p s
  | .flightFaddArrival p => Sys2Proof.Machine.execFlightFaddArrival p s
  | .flightFsetArrival p => Sys2Proof.Machine.execFlightFsetArrival p s
  | .flightFaddbArrival p => Sys2Proof.Machine.execFlightFaddbArrival p s
  | .flightFaddbRspArrival p => Sys2Proof.Machine.execFlightFaddbRspArrival p s
  | .flightFetchArrival p => Sys2Proof.Machine.execFlightFetchArrival p s
  | .flightFetchRspArrival p => Sys2Proof.Machine.execFlightFetchRspArrival p s
  | .flightSendArrival p => Sys2Proof.Machine.execFlightSendArrival p s
  | .flightPubwArrival p => Sys2Proof.Machine.execFlightPubwArrival p s
  | .flightLinkArrival p => Sys2Proof.Machine.execFlightLinkArrival p s
  | .rejectArrival p => Sys2Proof.Machine.execRejectArrival p s
  | .undefopc slot w => Sys2Proof.Machine.execUndefopc slot w s
  | .postedWritePerformed c k => Sys2Proof.Machine.execPostedWritePerformed c k s
  | .keepCopyComplete c => Sys2Proof.Machine.execKeepCopyComplete c s
  | .jobCreate spec => Sys2Proof.Machine.execJobCreate spec s
  | .jobAbort job => Sys2Proof.Machine.execJobAbort job s
  | .hostTransferEngineCopy src dst n slot dstHost srcHost => Sys2Proof.Machine.execHostTransferEngineCopy src dst n slot dstHost srcHost s
  | .debuggerRelease c act => Sys2Proof.Machine.execDebuggerRelease c act s
  | .signerHashSet job world hash => Sys2Proof.Machine.execSignerHashSet job world hash s
  | .faultPolicySet job world table => Sys2Proof.Machine.execFaultPolicySet job world table s
  | .emptyBundle => Sys2Proof.Machine.execEmptyBundle s
  | .cpEnd => Sys2Proof.Machine.execCpEnd s
  | .poolEntryFree => Sys2Proof.Machine.execPoolEntryFree s
  | .taskPlace => Sys2Proof.Machine.execTaskPlace s
  | .ctlNeg => Sys2Proof.Machine.execCtlNeg s
  | .ctlGo => Sys2Proof.Machine.execCtlGo s
  | .invalidateCommand => Sys2Proof.Machine.execInvalidateCommand s
  | .invalidateComplete => Sys2Proof.Machine.execInvalidateComplete s
  | .pstateP0Run => Sys2Proof.Machine.execPstateP0Run s
  | .pstateP1Gated => Sys2Proof.Machine.execPstateP1Gated s
  | .pstateP2Retention => Sys2Proof.Machine.execPstateP2Retention s
  | .pstateP3Off => Sys2Proof.Machine.execPstateP3Off s
  | .pstateTransitionDone => Sys2Proof.Machine.execPstateTransitionDone s
  | .powerOn => Sys2Proof.Machine.execPowerOn s
  | .hotReset => Sys2Proof.Machine.execHotReset s
  | .bootStageComplete => Sys2Proof.Machine.execBootStageComplete s
  | .headerEvent => Sys2Proof.Machine.execHeaderEvent s
  | .preemptDecide => Sys2Proof.Machine.execPreemptDecide s
  | .completionWordAdd => Sys2Proof.Machine.execCompletionWordAdd s
  | .deadline => Sys2Proof.Machine.execDeadline s
  | .cpUndefopc => Sys2Proof.Machine.execCpUndefopc s

end Sys2Proof.Machine
end

