-- ==== Sys2Proof/Machine/Clock.lean ====
section
/-! DEFINITION. What one agent does when its turn comes, what a clock brings to every agent, and a word placed where the next step fetches
it (02 R36, R37, 03 R50, 19 R340; log 3, log 12, log 16). -/

namespace Sys2Proof.Machine
open Sys2Proof

/-! One agent's turn. -/

/-- The state with instructions put before the agenda. -/
def State.first (s : State) (is : List Instr) : State := { s with agenda := is.map .run ++ s.agenda }

/-- What a running cycle brings before the bundle issues: clear points that are due (10 R201). -/
def State.dueSteps (s : State) (c : Nat) : List Instr :=
  let k := s.core c
  if !k.ran then []
  else
    (if k.tileClear.any (fun e => decide (e.2.1 ≤ k.sched)) || k.poisonClear.any (fun e => decide (e.1 ≤ k.sched))
        || k.run.any (fun r => r.late.isSome && decide (r.endClock ≤ s.clock)) then [Instr.tileClearPoint c]
      else [])

/-- Hop comparisons whose terms have been formed: behind the bundle of the cycle in which the last RADD delivers its results, or behind the ADVR's
own where that is later (13 R267; DESIGN CHOICE, log 106). -/
def State.hopSteps (s : State) (c : Nat) : List Instr :=
  let k := s.core c
  (k.hops.filter (fun h => decide (h.due ≤ k.sched) && (k.ran || decide (h.due + 1 = k.nextIssue)))).map (fun h => Instr.hopComparison c h.ch)

/-- What a core does behind its bundle: hop comparisons whose terms have been formed, the copy of a RGN.KEEP, and the next entry of the
matrix engine (10 R200, 13 R267, 22 R391). -/
def State.engineSteps (s : State) (c : Nat) : List Instr :=
  let k := s.core c
  s.hopSteps c ++
  (if k.keep.isSome ∧ !k.dump ∧ !k.correcting s.clock ∧ k.keepReady ≤ s.clock then [Instr.keepCopyComplete c] else []) ++
  if k.placed && !k.dump && !k.correcting s.clock && s.engineReady c then [Instr.mxqEntryStart c] else []

/-- The first access of a core that may perform, as the step that performs it. -/
def State.pieceStep (s : State) (c : Nat) : Option Instr :=
  ((List.range (s.core c).pend.length).find? (fun i => (s.pieceReady c i).isSome)).map (fun i =>
    match s.pieceReady c i with
    | some (p, h) =>
      (match p.write, writeHome s h p.data p.poison with
        | true, .error _ => Instr.postedStoreFail c i
        | _, _ => Instr.postedWritePerformed c i)
    | none => Instr.postedWritePerformed c i)

/-- Queue entries of a core that leave in a clock: the oldest remote operation, and one host-port entry of those that may. -/
def State.leaving (s : State) (c : Nat) : List Instr :=
  let k := s.core c
  let ready := (List.range k.hxq.length).filter (fun i => (s.sited c).hxqReady i s.clock)
  (if k.cmq.isEmpty then [] else [Instr.cmqEntryLeave c])
    ++ (match ready[Config.pick s.fresh % ready.length]? with
      | some i => [Instr.hxqEntryLeave c i]
      | none => [])

/-- A core's ports: accesses perform while one may, then the queues leave. -/
def State.portsTurn (s : State) (c : Nat) : State :=
  match s.pieceStep c with
  | some i => { s with agenda := .run i :: .ports c :: s.agenda }
  | none => ({ s with fresh := s.fresh + 1 }.modCore c Core.postDue).first (s.leaving c)

/-- A hall's walker: the first walk whose time has come ends, or its page is under migration (04 R82, R83). -/
def State.walkerTurn (s : State) (h : Nat) : State :=
  let ws := (s.hall h).walks
  match (List.range ws.length).find? (fun i => (ws[i]?).any (fun w => decide (w.ready ≤ s.clock))) with
  | none => s
  | some i =>
    let step := match (ws[i]?).map s.walkResult with
      | some .migrating => Instr.migRepoll h i
      | _ => Instr.walkComplete h i
    { s with agenda := .run step :: .walker h :: s.agenda }

/-- What follows a core's cycle, before its bundle issues. -/
def afterCycle (c : Nat) : Out → Out
  | .next t => .next (t.first (t.dueSteps c))
  | o => o

/-- One agent's turn. -/
def State.act (s : State) (a : Agent) : Out :=
  match a with
  | .run i => exec i s
  | .cycle c => afterCycle c (s.cycleTurn exec c)
  | .issue c => (s.issueTurn c).finish exec
  | .replay c => (s.replayTurn c).finish exec
  | .engine c => .next (s.first (s.engineSteps c))
  | .hops c => .next (s.first (s.hopSteps c))
  | .seq c => s.seqTurn exec c
  | .ports c => .next (s.portsTurn c)
  | .walker h => .next (s.walkerTurn h)
  | .gmc g => .next (s.gmcTurn g)
  | .lateral => .next s.lateralTurn
  | .concourse => .next s.concourseTurn
  | .foyer => .next s.foyerTurn
  | .graphs => .next s.graphsTurn
  | .host => .next s.hostTurn

/-! A clock. -/

/-- The steps of a core that a clock may bring before the core's cycle begins. -/
def State.earlySteps (s : State) (c : Nat) : List Instr :=
  let k := s.core c
  (k.landing.filterMap (fun e => match e.2 with
      | some l => if !l.arrived && l.left == 0 && decide (l.ready ≤ s.clock) then some (Instr.landingArrival c e.1) else none
      | none => none))
    ++ (if k.correct ≠ 0 ∧ k.correct ≤ s.clock then [Instr.correctFreezeEnd c] else [])

/-- A core's agents in a clock, in their order (log 16). -/
def State.coreAgents (s : State) (c : Nat) : List Agent := (s.earlySteps c).map .run ++ [.cycle c, .issue c, .engine c]
/-- What works in a clock while the cores run: the cores; then their ports, sequencers and the lateral network, whose accesses stand after
those of the core ports (06 R118); then the walkers and the management cores with work (log 16). -/
def computeAgents (s : State) (placed walking busy : List Nat) : List Agent :=
  placed.flatMap s.coreAgents ++ placed.map .ports ++ placed.map .seq ++ .lateral :: (walking.map .walker ++ busy.map .gmc)
/-- Ports whose link needs fresh keys. -/
def State.wornPorts (s : State) : List Nat := (s.ports.filter (fun e => e.2.worn)).map (·.1)

/-- Galleries whose management core has work. -/
def State.busyGals (s : State) (placed : List Nat) : List Nat :=
  (List.range Config.galleries).filter (fun g => s.mail.any (fun m => m.gal == g) || placed.any (fun c => galOf c == g && (s.core c).rolling.isSome)
    || !s.sramue.isEmpty || !s.lockMis.isEmpty || !s.corrected.isEmpty)

/-- The end of a core's cycle: CYC counts a cycle that ran; frozen ones have been counted. -/
def Core.endCycle (k : Core) : Core := if k.ran then { k with cyc := k.cyc + 1, ran := false } else k

/-- The next clock: packets that waited for room or for a port go on, counters advance, and every agent that has something to do gets its turn. In P1 to P3 the clocks of the cores stand
still (15 R301). -/
def State.tick (s : State) : State :=
  let s0 := s.drainAll.retryQueued.sendAllAgain.sendReplies
  let s1 : State := { s0 with
    clock := s.clock + 1
    cores := s0.cores.map (fun e => (e.1, e.2.endCycle))
    jobs := s0.jobs.map (fun j => if s.host.pstate = 0 ∧ !(s.jobCores j.id).isEmpty then { j with dlc := j.dlc + 1 } else j)
    heldIo := [], heldDebug := if s.host.pstate = 0 then [] else s.heldDebug }
  let placed := (s1.cores.filter (fun e => e.2.placed)).map (·.1)
  let walking := (s1.halls.filter (fun e => !e.2.walks.isEmpty)).map (·.1)
  let compute : List Agent :=
    if s.host.pstate ≠ 0 then [] else computeAgents s1 placed walking (s1.busyGals placed)
  { s1 with agenda := (s.heldIo ++ (if s.host.pstate = 0 then s.heldDebug else [])).map .run
                        ++ s1.wornPorts.map (fun n => .run (.linkRekey n)) ++ compute ++ [.concourse, .graphs, .foyer, .host] }

/-! A word where the next step fetches it. -/

/-- A core that is about to issue the bundle whose header stands at its PC, with nothing that keeps it from issuing. -/
def Core.toIssue (k : Core) (w : Nat) : Core :=
  { k with
    placed := true, started := true, ran := true, stop := none, nextIssue := k.sched, keep := none, ended := false, debugHalt := false
    rolling := none, dump := false, saveAsked := false, saveAt := none, killed := false, abort := none, late := [], count := none, rep := 0
    textLen := max k.textLen (k.pc + 4), imem := k.imem.write k.pc (natToBytes 4 w) }

/-- A core whose copy sequencer is about to execute the word at MPC. -/
def Core.toSequence (k : Core) (w : Nat) : Core :=
  { k with
    placed := true, dump := false, saveAt := none, correct := 0, textLen := max k.textLen (k.seq.mpc + 4), imem := k.imem.write k.seq.mpc (natToBytes 4 w)
    seq := { k.seq with mode := .running, halted := false, faults := [], ready := 0 } }

/-- A hall in which no walk of core 0's sequencer is in progress. -/
def Hall.noSeqWalk (h : Hall) : Hall :=
  { h with walks := h.walks.filter (fun w => w.core != 0 || w.who != 2), waiting := h.waiting.filter (fun w => w.core != 0 || w.who != 2) }

/-- Core 0 with the word of an opcode-table row in its instruction memory, and its turn the next (log 12). -/
def State.withWord (s : State) (nbits w : Nat) : State :=
  if nbits ≠ 32 then s
  else if w = 0 then { s.modCore 0 (·.toIssue w) with agenda := [.issue 0], ctx := {} }
  else { (s.modHall 0 Hall.noSeqWalk).modCore 0 (·.toSequence w) with agenda := [.seq 0], ctx := {} }

end Sys2Proof.Machine
end

