-- ==== Sys2Proof/Machine/Step.lean ====
section
/-! DEFINITION. One step of the module: the next agent of the present clock acts; with none left an outside step is taken, if one waits;
with none waiting the next clock begins (log 3). -/

namespace Sys2Proof.Machine
open Sys2Proof

def step (s : State) : Host.Outcome State Fault Refusal :=
  match s.agenda with
  | a :: rest => { s with agenda := rest }.act a
  | [] =>
    match s.inputs with
    | i :: rest => exec i { s with inputs := rest }
    | [] => .next s.tick

/-- The state with a word of the opcode table where the next step fetches it. -/
def State.withFetchWord (s : State) (nbits w : Nat) : State := s.withWord nbits w

end Sys2Proof.Machine
end

