-- ==== Sys2Proof/Safety.lean ====
section
/-! DEFINITION. What a safe run is, and the words that the statements use: what a step leaves alone, what conditions say of numbers, and the
invariants that statements name. -/

namespace Sys2Proof.Machine
open Sys2Proof

/-! Outcomes. -/

/-- The machine goes on to t: neither a fault nor a refusal. -/
abbrev Goes (o : Out) (t : State) : Prop := o = .next t
/-- A run of n steps in which no step stops. -/
def SafeRun : Nat → State → Prop
  | 0, _ => True
  | n + 1, s => ∃ t, step s = .next t ∧ SafeRun n t

/-! Conditions as relations of numbers (08 Table 8.2, Table 8.6). -/

def SCond.says (cc : SCond) (a b : Word) : Prop :=
  match cc with
  | .eq => a = b
  | .ne => a ≠ b
  | .lt => a.toInt < b.toInt
  | .ge => b.toInt ≤ a.toInt
  | .le => a.toInt ≤ b.toInt
  | .gt => b.toInt < a.toInt
  | .ltu => a.toNat < b.toNat
  | .geu => b.toNat ≤ a.toNat
  | .leu => a.toNat ≤ b.toNat
  | .gtu => b.toNat < a.toNat

/-! What is left alone. -/

/-- Two cores agree on every architectural register but the results in flight: registers, near SRAM, special registers, flags, tiles,
transpose buffer, deferral queue, PC and stacks. -/
structure SameRegisters (k l : Core) : Prop where
  rf    : l.rf = k.rf
  dom   : l.dom = k.dom
  phase : l.phase = k.phase
  cyc   : l.cyc = k.cyc
  frz   : l.frz = k.frz
  feat  : l.feat = k.feat
  flags : l.flags = k.flags
  tiles : l.tiles = k.tiles
  pc    : l.pc = k.pc
  rstack : l.rstack = k.rstack
  rgd   : l.rgd = k.rgd
  frames : l.frames = k.frames
  seq   : l.seq = k.seq

/-- Memory outside the cores: HBM, host memory, vaults, and their keys. -/
structure SameMemory (s t : State) : Prop where
  hbm     : t.hbm = s.hbm
  sectors : t.sectors = s.sectors
  host    : t.hostMem = s.hostMem
  gals    : t.gals = s.gals
  keys    : t.keys = s.keys

/-- Cores other than c are untouched. -/
def SameOthers (c : Nat) (s t : State) : Prop := ∀ d, d ≠ c → t.core d = s.core d

/-! Exact values as rational numbers (05 R89, R97, R103). -/

/-- The number that a finite value is. -/
def FVal.rat : FVal → ℚ
  | .fin n m e => (if n then -1 else 1) * (m : ℚ) * 2 ^ e
  | _ => 0
/-- The sign of a value that is no NaN, of a zero too. -/
def FVal.signed : FVal → Bool
  | .fin n _ _ | .inf n => n
  | .nan => false
/-- x is the finite number q; where q is zero, the zero of sign `neg`. -/
def FVal.Is (x : FVal) (q : ℚ) (neg : Bool) : Prop := ∃ n m e, x = .fin n m e ∧ x.rat = q ∧ (q = 0 → n = neg)
/-- x is an infinity. -/
def FVal.IsInf (x : FVal) : Prop := ∃ n, x = .inf n
/-- The code r is the number q, or the zero of sign `neg`, rounded once to the nearest in format f (05 R103). -/
def RoundsOnce (f : Fmt) (r : Nat) (q : ℚ) (neg : Bool) : Prop := ∃ x : FVal, x.Is q neg ∧ r = roundTo f .rne x

/-- A product that is no number: of a NaN, or of zero and an infinity. -/
def NanProduct (x y : FVal) : Prop := x = .nan ∨ y = .nan ∨ (x.IsInf ∧ y.isZero = true) ∨ (x.isZero = true ∧ y.IsInf)
/-- A product that is an infinity of sign n. -/
def InfProduct (x y : FVal) (n : Bool) : Prop := ¬ NanProduct x y ∧ (x.IsInf ∨ y.IsInf) ∧ n = xor x.signed y.signed
/-- The infinities and the canonical NaN of FP32. -/
def inf32 (n : Bool) : Nat := if n then 0xFF800000 else 0x7F800000
def nan32 : Nat := 0x7FC00000

/-- One group of a matrix command: the FP32 code `r` is the accumulator `acc` with the n products x k × y k added exactly and rounded once
(05 R104, R105). -/
structure GroupAdds (acc r n : Nat) (x y : Nat → FVal) : Prop where
  nan   : (decodeF .f32 acc = .nan ∨ (∃ k, k < n ∧ NanProduct (x k) (y k)) ∨
    (∃ i j, i < n ∧ j < n ∧ InfProduct (x i) (y i) true ∧ InfProduct (x j) (y j) false)) → r = nan32
  inf   : ∀ b, decodeF .f32 acc ≠ .nan → (∀ k, k < n → ¬ NanProduct (x k) (y k)) → (∃ k, k < n ∧ InfProduct (x k) (y k) b) →
    (∀ k, k < n → ¬ InfProduct (x k) (y k) (!b)) → r = if decodeF .f32 acc = .inf (!b) then nan32 else inf32 b
  whole : (∀ k, k < n → (x k).isFinite = true ∧ (y k).isFinite = true) →
    (∀ b, decodeF .f32 acc = .inf b → r = inf32 b) ∧
    ((decodeF .f32 acc).isFinite = true → RoundsOnce .f32 r
      ((decodeF .f32 acc).rat + ((List.range n).map (fun k => (x k).rat * (y k).rat)).sum)
      ((decodeF .f32 acc).signed && (List.range n).all (fun k => xor (x k).signed (y k).signed)))

/-! Matrix operands in registers and in windows (10 R202, R203, 05 R94, R95). -/

/-- The window offset of a base pointer, and the byte at an offset of the window that it names. -/
def windowOff (base : Word) : Nat := if windowOf base = some .gallery then field base 21 0 else field base 17 0
def State.windowByte (s : State) (c : Nat) (base : Word) (o : Nat) : Byte :=
  match windowOf base with
  | some .gallery => (match s.vaultWindow (s.core c).task (field base 38 32) with
    | some w => (s.gal w.1).vault.byte (w.2 + o)
    | none => 0)
  | _ => (s.core c).rf.near.byte o

def MSrc.fmt : MSrc → Fmt
  | .regs f _ _ => f
  | .mem _ d => (dFormat d).getD .fp8a
/-- Byte x of line n: of register n / 4, or of the window, its chunks turned by ROT. -/
def State.lineByte (s : State) (c : Nat) (src : MSrc) (n x : Nat) : Byte :=
  match src with
  | .regs _ l _ => (l.getD (n / 4) 0).extractLsb' (8 * (64 * (n % 4) + x)) 8
  | .mem base d => s.windowByte c base (windowOff base + n * field d 15 0 + 16 * ((x / 16 + n * field d 35 32) % 4) + x % 16)
/-- The scale of block b of line n, with nb blocks a line. -/
def State.scaleByte (s : State) (c : Nat) (src : MSrc) (nb n b : Nat) : Nat :=
  match src with
  | .regs _ _ sc => (sc.extractLsb' (8 * (n * nb + b)) 8).toNat
  | .mem base d => (s.windowByte c base (field d 63 42 + (windowOff base + n * field d 15 0) / 64 * nb + b)).toNat
/-- The code of element k of line n, from the line's bit stream. -/
def State.lineCode (s : State) (c : Nat) (src : MSrc) (n k : Nat) : Nat :=
  let w := Fmt.width src.fmt
  ((List.range w).map (fun j => if (s.lineByte c src n ((w * k + j) / 8)).getLsbD ((w * k + j) % 8) then 2 ^ j else 0)).sum
/-- Element k of line n, scaled with its block. -/
def State.lineElem (s : State) (c : Nat) (src : MSrc) (n k : Nat) : FVal :=
  let f := src.fmt
  let v := decodeF (Fmt.elemOf f) (s.lineCode c src n k)
  if f.isElem then v
  else
    let sc := s.scaleByte c src (if f = .bk4 then 2 else 1) n (k / 64)
    if sc = 0xFF then .nan else v.scale ((sc : Int) - 127)

/-! The matrix queue (10 R200, R202). -/

/-- t is s with one more entry in the issuing core's MXQ, and the busy bits of its tiles set. -/
structure Enqueued (s t : State) (cmd : MCmd) (g : Word) (tiles : List Nat) : Prop where
  entry : t.cur.mxq = s.cur.mxq ++ [{ cmd := cmd, guard := g, enq := s.ctx.cyc, iss := s.cur.issued, word := s.ctx.word, pc := s.ctx.pc }]
  busy  : ∀ n, n ∈ t.cur.tileBusy ↔ n ∈ s.cur.tileBusy ∨ n ∈ tiles
  regs  : SameRegisters s.cur t.cur
  inflight : t.cur.inflight = s.cur.inflight
  memory : SameMemory s t
  others : SameOthers s.ctx.core s t

/-- What a matrix operand captures at issue: 16 registers and a scale register, or base and descriptor of a window whose 64 lines and scales lie
inside it, of the other operand's class. -/
def State.Captures (s : State) (st : Sticky) (op : MOperand) (i : Nat) (other : Option Fmt) (src : MSrc) : Prop :=
  match op with
  | .reg f v => ∃ l, s.rdSpan st v (spanOf f) = .ok l ∧ src = .regs f (l.take 16) (l.getD 16 0)
  | .mem n =>
    let p := s.matPair n i
    ∃ f, dFormat p.2 = some f ∧ mmaDescOk p.2 = true ∧ (∀ h, other = some h → h.mclass = f.mclass) ∧
      s.checkMatrix (s.stepBase st p.1 p.2) p.2 64 (blocksPerLine f) = .ok () ∧ src = .mem (s.stepBase st p.1 p.2) p.2

/-! The remote queues (08 R167, 11 R219, 22 R392). -/

/-- Room for an operation of n payload bytes: CMQ holds it outside a region, the hold buffer of 32 KiB inside one. -/
def Core.RoomFor (k : Core) (n : Nat) : Prop := k.rgd = 0 ∨ k.held + (32 + n) ≤ 32768

/-- t is s with one more operation of the issuing core, in CMQ outside a region and in the hold buffer inside one; scalar registers, predicates, near
SRAM, flags, PC and results in flight are as before. -/
structure Sent (s t : State) (pkts : List Packet) : Prop where
  outside : s.cur.rgd = 0 → t.cur.cmq = s.cur.cmq ++ [{ pkts := pkts, iss := s.cur.issued, word := s.ctx.word, pc := s.ctx.pc }] ∧
    t.cur.hold = s.cur.hold
  inside  : s.cur.rgd ≠ 0 → t.cur.hold = s.cur.hold ++
    [(s.cur.rgd, { pkts := pkts, iss := s.cur.issued, word := s.ctx.word, pc := s.ctx.pc })] ∧ t.cur.cmq = s.cur.cmq
  scalars : t.cur.rf.s = s.cur.rf.s
  preds   : t.cur.rf.p = s.cur.rf.p
  near    : t.cur.rf.near = s.cur.rf.near
  flags   : t.cur.flags = s.cur.flags
  pc      : t.cur.pc = s.cur.pc
  memory  : SameMemory s t
  others  : SameOthers s.ctx.core s t

/-- A packet of the issuing seat to a POD pointer (15 Table 15.2): who sends it, where it goes, what it carries. -/
structure PacketTo (s : State) (q : Packet) (ty : Nat) (ptr : Word) (payload : List Byte) : Prop where
  ty   : q.ty.toNat = ty
  addr : q.addr.toNat = field ptr 39 0
  dmod : q.dmod.toNat = field ptr 51 40
  payload : q.payload = payload
  job  : q.job = BitVec.ofNat 16 s.cur.job
  taskid : q.taskid = BitVec.ofNat 16 s.cur.taskid
  world : q.world = BitVec.ofNat 5 s.cur.world
  gen  : q.gen = BitVec.ofNat 8 s.cur.gen
  seat : q.sseat = BitVec.ofNat 10 s.cur.seat
  sq   : q.sq = false

/-! Generic stores (06 R113, R121, R132, 11 R216 to R218). -/

/-- A place outside the core port, n bytes long: the ranges and homes of its pieces. A GLOBAL or PRIVATE one leads where the core has translated each
range to; a GALLERY one of another gallery of the team leads to that gallery's window. -/
def State.LeadsTo (s : State) (pl : Place) (n : Nat) (l : List ((Nat × Nat × Nat) × Home)) : Prop :=
  match pl with
  | .va va => s.cur.globalPieces va n true = l.map (fun e => (e.1, .hit e.2))
  | .vault tg off => tg ≠ s.cur.ownTeamGal ∧ ∃ v o, s.windowHome s.cur.task tg off = .vault v o ∧
      l = (piecesOf o n).map (fun q => ((0, q.2.1, q.2.2), .vault v (o + q.2.1)))
  | _ => False

/-- The pieces of a store of the issuing bundle through pointer p: one for each range, with its part of the data. -/
def State.piecesAt (s : State) (hk : HostKind) (p : Word) (ds : List (Byte × Byte)) (l : List ((Nat × Nat × Nat) × Home)) : List Piece :=
  l.map (fun e => { iss := s.cur.issued, write := true, ptr := p, pos := e.1.2.1, n := e.1.2.2, home := some e.2, va := e.1.1
                    data := (ds.drop e.1.2.1).take e.1.2.2, word := s.ctx.word, pc := s.ctx.pc, kind := hk, ready := s.clock + 1 })

/-- Byte b of a memory that took bytes under bit enables from `off` on. -/
def stored (old : Byte) (ds : List (Byte × Byte)) (off b : Nat) : Byte :=
  if off ≤ b ∧ b < off + ds.length then (old &&& ~~~(ds.getD (b - off) 0).2) ||| ((ds.getD (b - off) 0).1 &&& (ds.getD (b - off) 0).2) else old

/-- t is s with a store of the issuing bundle that changes no register, no memory and no other core. -/
structure Waiting (s t : State) : Prop where
  rf       : t.cur.rf = s.cur.rf
  inflight : t.cur.inflight = s.cur.inflight
  memory   : SameMemory s t
  others   : SameOthers s.ctx.core s t

/-- `run` stores the bytes `ds` under their bit enables through pointer p, whatever window it names. -/
structure StoresTo (s : State) (run : Out) (hk : HostKind) (p : Word) (ds : List (Byte × Byte)) (align : Nat) : Prop where
  /-- SCRATCH of the own seat: at the core port, at issue. -/
  near : ∀ off, checkPtr s.cur s.src.limit lWindows p ds.length align = .ok (.near off) → ∃ t, run = .next t ∧
    (∀ b, t.cur.rf.near.byte b = stored (s.cur.rf.near.byte b) ds off b) ∧ t.cur.rf.s = s.cur.rf.s ∧ t.cur.rf.p = s.cur.rf.p ∧
    t.cur.inflight = s.cur.inflight ∧ t.cur.pend = s.cur.pend ∧ SameMemory s t ∧ SameOthers s.ctx.core s t
  /-- GALLERY of the own gallery: at the core port, at issue. -/
  own : ∀ off, checkPtr s.cur s.src.limit lWindows p ds.length align = .ok (.vault s.cur.ownTeamGal off) → ∃ t, run = .next t ∧
    (∀ b, (t.gal (s.ownVault s.ctx.core).1).vault.byte b =
      stored ((s.gal (s.ownVault s.ctx.core).1).vault.byte b) ds ((s.ownVault s.ctx.core).2 + off) b) ∧
    (∀ h, h ≠ (s.ownVault s.ctx.core).1 → t.gal h = s.gal h) ∧ t.hbm = s.hbm ∧ t.hostMem = s.hostMem ∧ t.cur.rf = s.cur.rf ∧
    t.cur.inflight = s.cur.inflight ∧ t.cur.pend = s.cur.pend ∧ SameOthers s.ctx.core s t
  /-- HBM, or the vault of another gallery: as pieces that wait, each at its home. -/
  away : ∀ pl l, checkPtr s.cur s.src.limit lWindows p ds.length align = .ok pl → s.LeadsTo pl ds.length l → (∀ e ∈ l, e.2.isHost = false) →
    ∃ t, run = .next t ∧ t.cur.pend = s.cur.pend ++ s.piecesAt hk p ds l ∧ Waiting s t
  /-- Host memory, ordinary or non-temporal: one entry of HXQ. -/
  posted : ∀ pl l, checkPtr s.cur s.src.limit lWindows p ds.length align = .ok pl → s.LeadsTo pl ds.length l → l ≠ [] →
    (∀ e ∈ l, e.2.isHost = true) → hk ≠ .writeCombining → s.cur.wc = [] →
    ∃ t, run = .next t ∧ t.cur.hxq = s.cur.hxq ++ [s.piecesAt hk p ds l] ∧ t.cur.wc = [] ∧ t.cur.pend = s.cur.pend ∧ Waiting s t
  /-- Host memory, write-combining: a buffer of 64 bytes that is not yet full. -/
  combined : ∀ pl e, checkPtr s.cur s.src.limit lWindows p ds.length align = .ok pl → s.LeadsTo pl ds.length [e] → ds.length < 64 →
    e.2.isHost = true → hk = .writeCombining → s.cur.wc = [] →
    ∃ t, run = .next t ∧ t.cur.wc = [s.piecesAt hk p ds [e]] ∧ t.cur.hxq = s.cur.hxq ∧ t.cur.pend = s.cur.pend ∧ Waiting s t

/-! Frames of the engines (19 R340 to R358): what a step of core c's engines leaves alone. -/

/-- Registers, near SRAM and results in flight of core c, all memory and every other core are as before. -/
structure StillAt (c : Nat) (s t : State) : Prop where
  rf       : (t.core c).rf = (s.core c).rf
  inflight : (t.core c).inflight = (s.core c).inflight
  memory   : SameMemory s t
  others   : SameOthers c s t

/-- As StillAt, for the core whose bundle issues. -/
def Unmoved (s t : State) : Prop := t.ctx.core = s.ctx.core ∧ StillAt s.ctx.core s t

/-! Messages (18 R326, R327). -/

/-- t is s with message m of core c posted: in the slot of its source, with the identity and state words of its core. -/
structure Posted (c : Nat) (s t : State) (m : Msg) : Prop where
  mail     : t.mail = s.mail ++ [m]
  core     : m.core = c
  gal      : m.gal = c / 8
  slot     : m.slot = if m.src = 0 then 2 * (c % 8) else if m.src = 1 then 2 * (c % 8) + 1 else m.slot
  mseq     : m.mseq = (s.core c).mseq
  next     : (t.core c).mseq = ((s.core c).mseq + 1) % 2 ^ 32
  identity : m.identity = (s.core c).identity

/-! Graph nodes (12 R245). -/

/-- Node n of graph g. -/
def State.node (s : State) (g n : Nat) : Option Node := (s.graph g).bind (fun x => x.nodes[n]?)

/-! Registers whose values the spec limits (14 Table 14.7, 15 R299 to R302). -/

/-- Stage, features, power state, clock and cap are ones that the spec names; READY and RUN need feature 0. -/
structure HostLegal (h : HostRegs) : Prop where
  stage    : h.stage ≤ 6
  features : h.featAcc &&& ~~~0x7FF = 0
  ready    : 5 ≤ h.stage → h.featAcc.getLsbD 0 = true
  pstate   : h.pstate ≤ 3
  target   : ∀ n, h.ptarget = some n → n ≤ 3
  after    : ∀ n, h.pnext = some n → n ≤ 3
  freq     : 800 ≤ h.freq ∧ h.freq ≤ 1600 ∧ h.freq % 100 = 0
  cap      : 2000 ≤ h.pcap ∧ h.pcap ≤ 6000
  capNext  : ∀ n, h.pcapNext = some n → 2000 ≤ n ∧ n ≤ 6000

end Sys2Proof.Machine
end

