-- ==== Sys2Proof/Certificates/Slice0/Obligations.lean ====
section
/-! DEFINITION. The statements for the provers. -/

open Sys2Proof Sys2Proof.Machine

/-! A slot. -/

/-- 08 R156, Table 8.1: ADD, SUB, ADDI, MUL, MULH, AND, OR, XOR, ANDN complete in every state, with the register's new value modulo 2⁶⁴ one
cycle (MUL and MULH three) after the issue cycle, under a scalar guard; nothing else changes.
08 R156, Table 8.1: SHL, SHR, SAR with both kinds of count, MIN, MAX, MINU, MAXU and SEL complete in every state. -/
def Obligations.ScalarArithmeticCompletes : Prop :=
  (∀ (s : State) (g : Guard) (d : SReg) (a b : SSrc) (imm : BitVec 16),
    let x := s.rdS 1 a
    let y := s.rdS 2 b
    let to_ (lat : Nat) (v : Word) : State := if s.on g then s.resultS lat d.toNat v else s
    exec (.add g d a b) s = .next (to_ 1 (x + y)) ∧
    exec (.sub g d a b) s = .next (to_ 1 (x - y)) ∧
    exec (.addi g d a imm) s = .next (to_ 1 (x + BitVec.ofInt 64 imm.toInt)) ∧
    exec (.mul g d a b) s = .next (to_ 3 (x * y)) ∧
    exec (.mulh g d a b true) s = .next (to_ 3 ((x.zeroExtend 128 * y.zeroExtend 128).extractLsb' 64 64)) ∧
    exec (.mulh g d a b false) s = .next (to_ 3 ((x.signExtend 128 * y.signExtend 128).extractLsb' 64 64)) ∧
    exec (.and g d a b) s = .next (to_ 1 (x &&& y)) ∧
    exec (.or g d a b) s = .next (to_ 1 (x ||| y)) ∧
    exec (.xor g d a b) s = .next (to_ 1 (x ^^^ y)) ∧
    exec (.andn g d a b) s = .next (to_ 1 (x &&& ~~~y))) ∧
  (∀ (s : State) (g : Guard) (d : SReg) (a b : SSrc) (n : BitVec 6) (q : PReg),
    let x := s.rdS 1 a
    let y := s.rdS 2 b
    let to_ (v : Word) : State := if s.on g then s.resultS 1 d.toNat v else s
    exec (.shl g d a (.imm n)) s = .next (to_ (x <<< n.toNat)) ∧
    exec (.shl g d a (.reg b)) s = .next (to_ (x <<< (y.toNat % 64))) ∧
    exec (.shr g d a (.imm n)) s = .next (to_ (x >>> n.toNat)) ∧
    exec (.shr g d a (.reg b)) s = .next (to_ (x >>> (y.toNat % 64))) ∧
    exec (.sar g d a (.imm n)) s = .next (to_ (BitVec.ofInt 64 (x.toInt / 2 ^ n.toNat))) ∧
    exec (.sar g d a (.reg b)) s = .next (to_ (BitVec.ofInt 64 (x.toInt / 2 ^ (y.toNat % 64)))) ∧
    exec (.min g d a b) s = .next (to_ (BitVec.ofInt 64 (min x.toInt y.toInt))) ∧
    exec (.max g d a b) s = .next (to_ (BitVec.ofInt 64 (max x.toInt y.toInt))) ∧
    exec (.minu g d a b) s = .next (to_ (BitVec.ofNat 64 (min x.toNat y.toNat))) ∧
    exec (.maxu g d a b) s = .next (to_ (BitVec.ofNat 64 (max x.toNat y.toNat))) ∧
    exec (.sel g d q a b) s = .next (to_ (if (s.src.preg q.toNat).getLsbD 0 then x else y)))

/-- 08 R156, Table 8.1: CLZ, POPC, EXTR, LEA, MOV and LI complete in every state (EXTR where POS + LEN ≤ 64, the only encodings there
are). The count of CLZ is the one n with 2^(63 − n) ≤ a < 2^(64 − n), or 64 for zero. -/
def Obligations.BitFieldsAndMovesComplete : Prop :=
  ∀ (s : State) (g : Guard) (d : SReg) (a b : SSrc) (pos lenM1 : BitVec 6) (sh : BitVec 3) (disp : BitVec 13) (imm : W32),
    let x := s.rdS 1 a
    let len := lenM1.toNat + 1
    let to_ (v : Word) : State := if s.on g then s.resultS 1 d.toNat v else s
    (∃ n : Nat, n ≤ 64 ∧ x.toNat < 2 ^ (64 - n) ∧ (n < 64 → 2 ^ (63 - n) ≤ x.toNat) ∧ exec (.clz g d a) s = .next (to_ (BitVec.ofNat 64 n))) ∧
    exec (.popc g d a) s = .next (to_ (BitVec.ofNat 64 ((List.range 64).countP (fun j => x.getLsbD j)))) ∧
    (pos.toNat + len ≤ 64 →
      exec (.extr g d a pos lenM1 false) s = .next (to_ ((x <<< (64 - (pos.toNat + len))) >>> (64 - len))) ∧
      exec (.extr g d a pos lenM1 true) s = .next (to_ ((x <<< (64 - (pos.toNat + len))).sshiftRight (64 - len)))) ∧
    exec (.lea g d a b sh disp) s = .next (to_ (x + (s.rdS 2 b <<< sh.toNat) + BitVec.ofInt 64 disp.toInt)) ∧
    exec (.mov g d a) s = .next (to_ x) ∧
    exec (.li g d imm) s = .next (to_ (BitVec.ofInt 64 imm.toInt))

/-- 07 R142: LI in A0 and LIH in A1 of one bundle write the 64-bit immediate once, as a result of A0 one cycle after the issue, under the
guard of LI; where that guard is false LIH writes nothing either. The results of earlier bundles stay as they are. -/
def Obligations.LoadImmediatePair : Prop :=
  ∀ (s : State) (g : Guard) (d : SReg) (lo hi : W32), s.ctx.slot = 0 → d.toNat ≠ 0 → (∀ p ∈ s.cur.inflight, p.iss < s.cur.issued) →
    ∃ t u : State, exec (.li g d lo) s = .next t ∧ exec (.lih d hi) { t with ctx := { t.ctx with slot := 1 } } = .next u ∧
      (s.on g = true → u.cur.inflight = s.cur.inflight ++
        [{ due := s.ctx.cyc + 1, slot := 0, iss := s.cur.issued, dest := .s d.toNat, value := (hi ++ lo : Word).setWidth 2048 }]) ∧
      (s.on g = false → u.cur.inflight = s.cur.inflight) ∧
      SameRegisters s.cur u.cur ∧ SameMemory s u ∧ SameOthers s.ctx.core s u

/-- 08 R157, Table 8.2: CMP and CMPI complete in every state: all ones where the condition holds of the two 64-bit values, else zero, in a
predicate visible at cy 1.
08 R158: PAND, POR, PXOR and PMOV complete in every state, bit by bit, each source complemented where its bit says so. -/
def Obligations.ComparesAndPredicatesComplete : Prop :=
  (∀ (s : State) (g : Guard) (cc : SCond) (d : PReg) (a b : SSrc) (imm : BitVec 12),
    let to_ (v : Word) : State := if s.on g then s.resultP 1 d.toNat v else s
    (SCond.says cc (s.rdS 1 a) (s.rdS 2 b) → exec (.cmp g cc d a b) s = .next (to_ (BitVec.allOnes 64))) ∧
    (¬ SCond.says cc (s.rdS 1 a) (s.rdS 2 b) → exec (.cmp g cc d a b) s = .next (to_ 0)) ∧
    (SCond.says cc (s.rdS 1 a) (imm.signExtend 64) → exec (.cmpi g cc d a imm) s = .next (to_ (BitVec.allOnes 64))) ∧
    (¬ SCond.says cc (s.rdS 1 a) (imm.signExtend 64) → exec (.cmpi g cc d a imm) s = .next (to_ 0))) ∧
  (∀ (s : State) (g : Guard) (d a b : PReg) (na nb : Bool),
    let to_ (v : Word) : State := if s.on g then s.resultP 1 d.toNat v else s
    ∃ vand vor vxor vmov : Word,
      exec (.pand g d a na b nb) s = .next (to_ vand) ∧ exec (.por g d a na b nb) s = .next (to_ vor) ∧
      exec (.pxor g d a na b nb) s = .next (to_ vxor) ∧ exec (.pmov g d a na) s = .next (to_ vmov) ∧
      ∀ j, j < 64 →
        let x := xor ((s.src.preg a.toNat).getLsbD j) na
        let y := xor ((s.src.preg b.toNat).getLsbD j) nb
        vand.getLsbD j = (x && y) ∧ vor.getLsbD j = (x || y) ∧ vxor.getLsbD j = xor x y ∧ vmov.getLsbD j = x)

/-- 08 R159, 03 R48 and Table 3.4: SRRD completes for each register of the table, two cycles after the issue cycle; CST reads RESUME 8 and
FRZCAUSE 0 (R49).
08 R159, Table 8.3: SRWR completes for each register that it may write and each value that the table accepts: ALLOT 1 to 16, RSIZE 0 to
256 in steps of 8, any other value of the others. The value is written one cycle after the issue cycle with its reserved bits cleared; a
write of RSIZE sets RRB to zero, and RRB is stored modulo the RSIZE that the bundle found (bits [63:8] of its value dropped first: log 98). -/
def Obligations.SpecialRegistersComplete : Prop :=
  (∀ (s : State) (g : Guard) (d : SReg) (i : Nat),
    let k := s.cur
    let rd (n : Nat) (v : Word) : Prop := exec (.srrd g d (BitVec.ofNat 10 n)) s = .next (if s.on g then s.resultS 2 d.toNat v else s)
    rd 0x000 (BitVec.ofNat 64 k.seat) ∧ rd 0x001 (BitVec.ofNat 64 k.nseats) ∧ rd 0x002 (BitVec.ofNat 64 (k.taskid + k.job * 2 ^ 16)) ∧
    (i < 4 → rd (0x004 + i) (k.dom.getD i 0)) ∧
    rd 0x010 (BitVec.ofNat 64 s.src.allot) ∧ rd 0x011 (BitVec.ofNat 64 s.src.rbase) ∧ rd 0x012 (BitVec.ofNat 64 s.src.rsize) ∧
    rd 0x013 (BitVec.ofNat 64 s.src.rrb) ∧ rd 0x014 (s.src.lcnt.zeroExtend 64) ∧
    rd 0x020 (BitVec.ofNat 64 (8 + k.repleft * 2 ^ 4 + k.phase * 2 ^ 16 + k.rgd * 2 ^ 18)) ∧
    rd 0x021 (BitVec.ofNat 64 k.world) ∧ rd 0x022 (BitVec.ofNat 64 k.gen) ∧ rd 0x030 (BitVec.ofNat 64 k.cyc) ∧
    rd 0x031 (BitVec.ofNat 64 k.frz) ∧ rd 0x032 (BitVec.ofNat 64 k.rgd) ∧
    (i < 16 → rd (0x040 + i) (((k.exts[i]?).map (·.reg)).getD 0)) ∧
    rd 0x060 (k.feat.extractLsb' 0 64) ∧ rd 0x061 (k.feat.extractLsb' 64 64)) ∧
  (∀ (s : State) (g : Guard) (a : SSrc) (i : Nat) (p : Pend) (k : Core),
    let v := s.rdS 1 a
    let wr (n : Nat) : Prop :=
      exec (.srwr g (BitVec.ofNat 10 n) a) s = .next (if s.on g then s.result 1 (.special n) (v.setWidth 2048) else s)
    let rrb := if s.src.rsize = 0 then 0 else v.toNat % 2 ^ 8 % s.src.rsize
    let x := (p.value.setWidth 64 : Word).toNat
    let to_ (n : Nat) : Core := k.apply { p with dest := .special n }
    (i < 4 → wr (0x004 + i)) ∧ (1 ≤ v.toNat % 32 ∧ v.toNat % 32 ≤ 16 → wr 0x010) ∧ wr 0x011 ∧
    (v.toNat ≤ 256 ∧ v.toNat % 8 = 0 → wr 0x012) ∧ wr 0x014 ∧ wr 0x020 ∧
    exec (.srwr g 0x013 a) s = .next (if s.on g then s.result 1 (.special 0x013) (BitVec.ofNat 2048 rrb) else s) ∧
    (i < k.dom.length → i < 4 → (to_ (0x004 + i)).dom = k.dom.set i (BitVec.ofNat 64 (x % 2 ^ 10))) ∧
    to_ 0x010 = { k with rf := { k.rf with allot := x % 2 ^ 5 } } ∧
    to_ 0x011 = { k with rf := { k.rf with rbase := x % 2 ^ 10 } } ∧
    to_ 0x012 = { k with rf := { k.rf with rsize := x % 2 ^ 9, rrb := 0 } } ∧
    to_ 0x013 = { k with rf := { k.rf with rrb := x % 2 ^ 8 } } ∧
    to_ 0x014 = { k with rf := { k.rf with lcnt := p.value.setWidth 32 } } ∧
    to_ 0x020 = { k with phase := x / 2 ^ 16 % 4 })

/-- 08 R160: GSPACE completes in every state with the tag of its source. 07 R144: REPS completes for a count of at most 256, which PRC holds one cycle
after the issue cycle.
08 R160, 04 R68, Table 4.3: GCAST completes for every pointer whose tag is assigned, with the conversion of the table: the source for the same
window; PRIVATE to GLOBAL and back by the seat's region (stated where that region lies below VA 2⁵⁷; what lies beyond is the model's choice,
log 80); SCRATCH of the own seat to a POD pointer of KIND 1, GALLERY to one of KIND 0, both of the module given, and POD of that module back;
the null pointer where the condition fails or the table has no row.
21 R370: GSPACE raises nothing; GCAST raises TAG for a reserved tag alone; an access through the null pointer is checked as one to GLOBAL
address 0. A SCRATCH pointer to another seat raises FOREIGNSCR whatever its offset. -/
def Obligations.PointersAndRepeatComplete : Prop :=
  (∀ (s : State) (g : Guard) (d : SReg) (a : SSrc),
    exec (.gspace g d a) s = .next (if s.on g then s.resultS 1 d.toNat (BitVec.ofNat 64 ((s.rdS 1 a).toNat / 2 ^ 60)) else s)) ∧
  (∀ (s : State) (g : Guard) (a : SSrc), (s.rdS 1 a).toNat ≤ 256 →
    exec (.reps g a) s = .next (if s.on g then s.result 1 .prc ((s.rdS 1 a).setWidth 2048) else s)) ∧
  (∀ (s : State) (g : Guard) (d : SReg) (a m : SSrc) (t w : Window),
    let p := s.rdS 1 a
    let k := s.cur
    let md := (s.rdS 2 m).toNat % 2 ^ 12
    let priv := k.pbase + k.seat * k.pstride
    let to_ (v : Word) : Prop := exec (.gcast g t d a m) s = .next (if s.on g then s.resultS 1 d.toNat v else s)
    (windowOf p = some w →
      (∃ v, to_ v) ∧
      ((w, t) ∉ [(Window.priv, Window.global), (.global, .priv), (.scratch, .pod), (.gallery, .pod), (.pod, .scratch), (.pod, .gallery)] →
        to_ (if w = t then p else 0)) ∧
      (w = .priv → t = .global → (field p 31 0 < k.psize → priv + k.psize ≤ 2 ^ 57 → to_ (BitVec.ofNat 64 (priv + field p 31 0))) ∧
        (k.psize ≤ field p 31 0 → to_ 0)) ∧
      (w = .global → t = .priv →
        (priv ≤ field p 56 0 ∧ field p 56 0 < priv + k.psize → to_ (BitVec.ofNat 64 (0x8 * 2 ^ 60 + (field p 56 0 - priv)))) ∧
        (priv + k.psize ≤ 2 ^ 57 → ¬ (priv ≤ field p 56 0 ∧ field p 56 0 < priv + k.psize) → to_ 0)) ∧
      (w = .scratch → t = .pod → k.seat / k.width < 128 → (field p 47 32 ≠ k.seat → to_ 0) ∧
        (field p 47 32 = k.seat → ∃ v, to_ v ∧ field v 63 60 = 0xC ∧ field v 59 52 = 0 ∧ field v 51 40 = md ∧ field v 39 39 = 1 ∧
          field v 38 32 = k.seat / k.width ∧ field v 31 21 = 0 ∧ field v 20 18 = k.seat % k.width ∧ field v 17 0 = field p 17 0)) ∧
      (w = .gallery → t = .pod → ∃ v, to_ v ∧ field v 63 60 = 0xC ∧ field v 59 52 = 0 ∧ field v 51 40 = md ∧ field v 39 39 = 0 ∧
        field v 38 32 = field p 38 32 ∧ field v 31 22 = 0 ∧ field v 21 0 = field p 21 0) ∧
      (w = .pod → t = .scratch → (¬ (field p 39 39 = 1 ∧ field p 51 40 = md) → to_ 0) ∧
        (field p 39 39 = 1 → field p 51 40 = md → ∃ v, to_ v ∧ field v 63 60 = 0x9 ∧ field v 59 48 = 0 ∧
          field v 47 32 = k.width * field p 38 32 + field p 20 18 ∧ field v 31 18 = 0 ∧ field v 17 0 = field p 17 0)) ∧
      (w = .pod → t = .gallery → (¬ (field p 39 39 = 0 ∧ field p 51 40 = md) → to_ 0) ∧
        (field p 39 39 = 0 → field p 51 40 = md → ∃ v, to_ v ∧ field v 63 60 = 0xA ∧ field v 59 39 = 0 ∧
          field v 38 32 = field p 38 32 ∧ field v 31 22 = 0 ∧ field v 21 0 = field p 21 0))) ∧
    (windowOf p = none ↔ ¬ (field p 63 60 = 0 ∨ (8 ≤ field p 63 60 ∧ field p 63 60 ≤ 10) ∨ field p 63 60 = 12)) ∧
    (windowOf p = none → exec (.gcast g t d a m) s = .next (if s.on g then s.raiseEvent (.gcast g t d a m) (.tag, p) else s))) ∧
  (∀ (k : Core) (limit n align : Nat) (p : Word), 0 < n → n ≤ 2 ^ 57 → checkPtr k limit lWindows 0 n align = .ok (.va 0) ∧
    (windowOf p = some .scratch → field p 47 32 ≠ k.seat → checkPtr k limit lWindows p n align = .error (.foreignscr, p)))

/-! Results, their frame and their commit order. -/

/-- 03 R45, with R44 and R46: when results are written. A result is written to no register before its due cycle. In a running cycle every result
that is due, the landing deliveries among them, is written in one order: by due cycle, then by slot, then by issue; a landing counts as a result
of the slot that issued its request. So of the results for one register the one of the highest slot stands, and of one slot the one that
issued later. A scalar register takes its result and nothing else changes; s0 never takes a value and p0 never changes. That results of one cycle
for one vector register merge under their lane masks in this order is the model's reading (DEDUCED, log 25). -/
def Obligations.ResultsCommit : Prop :=
  ∀ (k : Core) (p : Pend) (l : Landing) (n j : Nat),
    let due := k.inflight.filter (fun x => x.due ≤ k.sched) ++ k.dueEntries.map (fun e => e.2.pend)
    let beats (x y : Pend) : Prop := x.due < y.due ∨ (x.due = y.due ∧ (x.slot < y.slot ∨ (x.slot = y.slot ∧ x.iss < y.iss)))
    let stands (u : Core) (r : Pend) : Prop :=
      (r.dest = .s n → n ≠ 0 → u.rf.sreg n = r.value.setWidth 64) ∧
      (r.dest = .p n → n ≠ 0 → ∀ b, b < 64 → r.mask.getLsbD b = true → (u.rf.preg n).getLsbD b = r.value.getLsbD b) ∧
      (r.dest = .v n → (∀ x ∈ due, ∀ m, x.dest = .v m → m < 1024) →
        ∀ b, b < 2048 → r.mask.getLsbD b = true → (u.rf.vreg n).getLsbD b = r.value.getLsbD b)
    (p.dest = .s n →
      (k.apply p).rf.sreg j = (if j = n ∧ n ≠ 0 then p.value.setWidth 64 else k.rf.sreg j) ∧
      (k.apply p).rf.preg j = k.rf.preg j ∧ (k.apply p).rf.near = k.rf.near) ∧
    (p.dest = .p n → p.mask = BitVec.allOnes 2048 →
      (k.apply p).rf.preg j = (if j = n ∧ n ≠ 0 then p.value.setWidth 64 else k.rf.preg j) ∧
      (k.apply p).rf.sreg j = k.rf.sreg j ∧ (k.apply p).rf.near = k.rf.near) ∧
    ((∀ r ∈ k.inflight, k.sched < r.due) → k.deliver = k) ∧
    (l.pend.slot = l.slot ∧ l.pend.iss = l.iss ∧ l.pend.due = l.due ∧ l.pend.dest = l.dest) ∧
    (∃ order : List Pend, order.Perm due ∧ order.Pairwise (fun x y => ¬ beats y x) ∧
      k.runCycle.rf = (order.foldl Core.apply { k with inflight := k.inflight.filter (fun x => k.sched < x.due) }).rf) ∧
    k.runCycle.inflight = k.inflight.filter (fun x => k.sched < x.due) ∧
    (∀ r ∈ due, (∀ x ∈ due, x.dest = r.dest → x = r ∨ beats x r) → stands k.runCycle r)

/-! V slot. -/

/-- 09 R175, R178, Table 9.3: VADD, VSUB, VMUL, VFMA, VFMS, VFNMA, VMIN, VMAX, VABS, VNEG, VSCALE and VRINT complete for every type, guard and
sticky form whose registers lie inside the allotment: element by element, in the active lanes alone, VFP 4 cy (fused 6), VINT 2.
09 R179, R180: VADDS, VSUBS, VMULLO, VMULHI, VAND, VOR, VXOR, VANDN, VNOT and the shifts by an immediate and by a register complete in two cycles
in the active lanes. -/
def Obligations.VectorArithmeticCompletes : Prop :=
  (∀ (s : State) (g : Guard) (st : Sticky) (ty : Fmt) (d : VReg) (a b : VSrc) (k : Nat) (x y z : Vec),
    s.dstV st d = .ok k → s.rdV 0 st (.reg d) = .ok z → s.rdV 1 st a = .ok x → s.rdV 2 st b = .ok y →
    let m := laneMask (s.guard g)
    let lat := if ty.isFloat then 4 else 2
    let to_ (n : Nat) (v : Vec) : State := if m = 0 then s else s.result n (.v k) v m
    exec (.vadd g st ty d a b) s = .next (to_ lat (map2 ty (eAdd ty) x y)) ∧
    exec (.vsub g st ty d a b) s = .next (to_ lat (map2 ty (eSub ty) x y)) ∧
    exec (.vmul g st ty d a b) s = .next (to_ 4 (map2 ty (fop2 ty FVal.mul) x y)) ∧
    exec (.vfma g st ty d a b) s = .next (to_ 6 (map3 ty (ffma ty) x y z)) ∧
    exec (.vfms g st ty d a b) s = .next (to_ 6 (map3 ty (ffms ty) x y z)) ∧
    exec (.vfnma g st ty d a b) s = .next (to_ 6 (map3 ty (ffnma ty) x y z)) ∧
    exec (.vmin g st ty d a b) s = .next (to_ lat (map2 ty (eMinMax ty false) x y)) ∧
    exec (.vmax g st ty d a b) s = .next (to_ lat (map2 ty (eMinMax ty true) x y)) ∧
    exec (.vabs g st ty d a) s = .next (to_ 2 (map1 ty (eAbs ty) x)) ∧
    exec (.vneg g st ty d a) s = .next (to_ 2 (map1 ty (eNeg ty) x)) ∧
    exec (.vscale g st ty d a b) s = .next (to_ 4 (map2 .f32 (fun p n => fscale p (BitVec.ofNat 32 n).toInt) x y)) ∧
    exec (.vrint g st ty d a) s = .next (to_ 4 (map1 ty (frint ty) x))) ∧
  (∀ (s : State) (g : Guard) (st : Sticky) (ty : Fmt) (d : VReg) (a b : VSrc) (n : BitVec 5) (k : Nat) (x y : Vec),
    s.dstV st d = .ok k → s.rdV 1 st a = .ok x → s.rdV 2 st b = .ok y →
    let m := laneMask (s.guard g)
    let w := Fmt.width ty
    let to_ (v : Vec) : State := if m = 0 then s else s.result 2 (.v k) v m
    exec (.vadds g st ty d a b) s = .next (to_ (map2 ty (eAdds ty) x y)) ∧
    exec (.vsubs g st ty d a b) s = .next (to_ (map2 ty (eSubs ty) x y)) ∧
    exec (.vmullo g st ty d a b) s = .next (to_ (map2 ty (fun p q => p * q % 2 ^ 32) x y)) ∧
    exec (.vmulhi g st ty d a b) s = .next (to_ (map2 ty (eMulHi ty) x y)) ∧
    exec (.vand g st d a b) s = .next (to_ (x &&& y)) ∧
    exec (.vor g st d a b) s = .next (to_ (x ||| y)) ∧
    exec (.vxor g st d a b) s = .next (to_ (x ^^^ y)) ∧
    exec (.vandn g st d a b) s = .next (to_ (x &&& ~~~y)) ∧
    exec (.vnot g st d a) s = .next (to_ (~~~x)) ∧
    exec (.vshl g st ty d a (.imm n)) s = .next (to_ (map1 ty (fun p => p * 2 ^ (n.toNat % w) % 2 ^ w) x)) ∧
    exec (.vshl g st ty d a (.reg b)) s = .next (to_ (map2 ty (fun p q => p * 2 ^ (q % w) % 2 ^ w) x y)) ∧
    exec (.vshr g st ty d a (.imm n)) s = .next (to_ (map1 ty (fun p => p / 2 ^ (n.toNat % w)) x)) ∧
    exec (.vshr g st ty d a (.reg b)) s = .next (to_ (map2 ty (fun p q => p / 2 ^ (q % w)) x y)) ∧
    exec (.vsar g st ty d a (.imm n)) s = .next (to_ (map1 ty (fun p => eSar ty p n.toNat) x)) ∧
    exec (.vsar g st ty d a (.reg b)) s = .next (to_ (map2 ty (eSar ty) x y)))

/-- 09 R179: what the integer element operations compute, for elements of 8 and 32 bits: sums and differences modulo 2^w, saturation at the type's
bounds, the high half of the exact product, the magnitude modulo 2^w. 09 R180: VSAR fills with the top bit, whatever the type: its result read
as a two's complement number is the operand so read over 2^(n mod w), rounded down.
09 R175: a lane-wise register operation works on each element alone: element e of the result is the operation on the elements e of the
operands, cut to the element's width.
09 R178, 05 R91, R103: what the floating-point ones compute, for FP32, BF16 and FP16: VADD, VSUB, VMUL, VFMA, VFMS and VFNMA the exact result of the
operands' values rounded once to the nearest, an exact zero sum +0 but where both terms are −0; ∞ − ∞, 0 × ∞ and any NaN operand the canonical
NaN; else an infinite operand the infinity of its sign. VSCALE multiplies by 2^n and rounds once, VRINT gives the nearest integer, ties to even,
with the operand's sign; VMIN and VMAX the canonical NaN for a NaN, else the lesser and the greater, −0 below +0. -/
def Obligations.VectorElements : Prop :=
  (∀ (ty : Fmt) (a b n : Nat), ty.isInt4 = true → a < 2 ^ Fmt.width ty → b < 2 ^ Fmt.width ty →
    let w := Fmt.width ty
    let val (c : Nat) : Int := if ty = .int32 ∨ ty = .int8 then (if c < 2 ^ (w - 1) then (c : Int) else (c : Int) - 2 ^ w) else c
    let lo : Int := if ty = .int32 ∨ ty = .int8 then -(2 ^ (w - 1)) else 0
    let hi : Int := if ty = .int32 ∨ ty = .int8 then 2 ^ (w - 1) - 1 else 2 ^ w - 1
    let twos (c : Nat) : Int := if c < 2 ^ (w - 1) then (c : Int) else (c : Int) - 2 ^ w
    eAdd ty a b = (a + b) % 2 ^ w ∧ (eSub ty a b + b) % 2 ^ w = a ∧
    val (eAdds ty a b) = max lo (min hi (val a + val b)) ∧ val (eSubs ty a b) = max lo (min hi (val a - val b)) ∧
    (ty.isI32 = true → val (eMulHi ty a b) = val a * val b / 2 ^ 32) ∧
    val (eMinMax ty false a b) = min (val a) (val b) ∧ val (eMinMax ty true a b) = max (val a) (val b) ∧
    eSar ty a n < 2 ^ w ∧ twos (eSar ty a n) = twos a / 2 ^ (n % w) ∧
    (eAbs ty a : Int) = max (val a) (-(val a)) % 2 ^ w ∧ (eNeg ty a + a) % 2 ^ w = 0) ∧
  (∀ (f : Fmt) (op1 : Nat → Nat) (op2 : Nat → Nat → Nat) (op3 : Nat → Nat → Nat → Nat) (x y z : Vec) (e : Nat), e < 2048 / Fmt.width f →
    let w := Fmt.width f
    let el (v : Vec) : Nat := (v.extractLsb' (w * e) w).toNat
    el (map1 f op1 x) = op1 (el x) % 2 ^ w ∧ el (map2 f op2 x y) = op2 (el x) (el y) % 2 ^ w ∧
    el (map3 f op3 x y z) = op3 (el x) (el y) (el z) % 2 ^ w) ∧
  (∀ (f : Fmt) (a b d : Nat), f ∈ [Fmt.f32, .bf16, .fp16] → a < 2 ^ Fmt.width f → b < 2 ^ Fmt.width f → d < 2 ^ Fmt.width f →
    let v (c : Nat) : FVal := decodeF f c
    let num (c : Nat) : Prop := (v c).isFinite = true
    let q (c : Nat) : ℚ := (v c).rat
    let g (c : Nat) : Bool := (v c).signed
    let gp : Bool := xor (g a) (g b)
    let top : Nat := 2 ^ (Fmt.width f - 1)
    let nan : Nat := if f = .f32 then 0x7FC00000 else if f = .bf16 then 0x7FC0 else 0x7E00
    let inf (n : Bool) : Nat := (if n then top else 0) + (if f = .f32 then 0x7F800000 else if f = .bf16 then 0x7F80 else 0x7C00)
    let key (c : Nat) : Int := if c < top then c else (top : Int) - c - 1
    let mul := fop2 f FVal.mul a b
    (num a → num b → RoundsOnce f (eAdd f a b) (q a + q b) (g a && g b) ∧ RoundsOnce f (eSub f a b) (q a - q b) (g a && !g b) ∧
      RoundsOnce f mul (q a * q b) gp ∧
      (num d → RoundsOnce f (ffma f a b d) (q a * q b + q d) (gp && g d) ∧ RoundsOnce f (ffms f a b d) (q a * q b - q d) (gp && !g d) ∧
        RoundsOnce f (ffnma f a b d) (q d - q a * q b) (g d && !gp)) ∧
      (∀ n, v d = .inf n → ffma f a b d = inf n ∧ ffms f a b d = inf (!n) ∧ ffnma f a b d = inf n)) ∧
    (v a = .nan ∨ v b = .nan → eAdd f a b = nan ∧ eSub f a b = nan ∧ eMinMax f false a b = nan ∧ eMinMax f true a b = nan) ∧
    (NanProduct (v a) (v b) → mul = nan) ∧
    (NanProduct (v a) (v b) ∨ v d = .nan → ffma f a b d = nan ∧ ffms f a b d = nan ∧ ffnma f a b d = nan) ∧
    (∀ n, InfProduct (v a) (v b) n → mul = inf n ∧ (v d ≠ .nan → ffma f a b d = (if v d = .inf (!n) then nan else inf n) ∧
      ffms f a b d = (if v d = .inf n then nan else inf n) ∧ ffnma f a b d = if v d = .inf n then nan else inf (!n))) ∧
    (∀ n, v a = .inf n → v b ≠ .nan → eAdd f a b = (if v b = .inf (!n) then nan else inf n) ∧
      eSub f a b = if v b = .inf n then nan else inf n) ∧
    (∀ n, num a → v b = .inf n → eAdd f a b = inf n ∧ eSub f a b = inf (!n)) ∧
    (v a ≠ .nan → v b ≠ .nan → eMinMax f false a b = (if key b < key a then b else a) ∧
      eMinMax f true a b = if key a < key b then b else a) ∧
    (num a → ∃ n : Int, |q a - n| ≤ 1 / 2 ∧ (|q a - n| = 1 / 2 → n % 2 = 0) ∧ RoundsOnce f (frint f a) n (g a)) ∧
    (¬ num a → frint f a = if v a = .nan then nan else inf (g a)) ∧
    (∀ n : Int, f = .f32 → (num a → RoundsOnce .f32 (fscale a n) (q a * 2 ^ n) (g a)) ∧
      (¬ num a → fscale a n = if v a = .nan then nan else inf (g a))))

/-- 05 R89, R97, Table 5.1: a code of a floating-point element format that is no NaN is the rounding, in every mode, of its own exact value.
05 R89, Table 5.1: the value of each code, by the widths and the bias of its format.
05 R97, R98, R101, Table 5.4: how a finite value is rounded. Between two neighbours, the overflow point above the greatest finite value among them, RNE
takes the nearer and on a tie the one with the even code, RTZ the one nearer to zero, RDN the lower, RUP the higher, and SR the higher where its draw
lies below the fraction. At the overflow point and beyond, the result is the format's overflow of its mode and sign: an infinity or the greatest
finite value.
05 R99, Table 5.5: a NaN becomes the canonical NaN, or +0 in a format without one; an infinity the infinity of its sign, or the greatest value. -/
def Obligations.FloatCodesAreExact : Prop :=
  (∀ (f : Fmt) (mode : RMode) (c u : Nat), f.isFloat = true → f.isElem = true → c < 2 ^ Fmt.width f → isNanCode f c = false →
    roundTo f mode (decodeF f c) u = c) ∧
  (∀ (f : Fmt) (ew mw bias c : Nat), (f, ew, mw, bias) ∈ [(Fmt.f32, 8, 23, 127), (.bf16, 8, 7, 127), (.fp16, 5, 10, 15), (.fp8a, 4, 3, 7),
      (.fp8b, 5, 2, 15), (.fp6a, 3, 2, 3), (.fp6b, 2, 3, 1), (.fp4, 2, 1, 1)] → c < 2 ^ (1 + ew + mw) →
    let S : Bool := decide (2 ^ (ew + mw) ≤ c)
    let E := c / 2 ^ mw % 2 ^ ew
    let M := c % 2 ^ mw
    let sign : ℚ := if S then -1 else 1
    let ieee : Prop := f ∈ [Fmt.f32, .bf16, .fp16, .fp8b]
    let isInf : Prop := ieee ∧ E = 2 ^ ew - 1 ∧ M = 0
    let isNan : Prop := (ieee ∧ E = 2 ^ ew - 1 ∧ M ≠ 0) ∨ (f = .fp8a ∧ E = 15 ∧ M = 7)
    (isInf → decodeF f c = .inf S) ∧ (isNan → decodeF f c = .nan) ∧
    (¬ isInf → ¬ isNan →
      (E = 0 → (decodeF f c).Is (sign * 2 ^ (1 - (bias : ℤ)) * ((M : ℚ) / 2 ^ mw)) S) ∧
      (E ≠ 0 → (decodeF f c).Is (sign * 2 ^ ((E : ℤ) - bias) * (1 + (M : ℚ) / 2 ^ mw)) S))) ∧
  (∀ (f : Fmt) (big nan : Nat) (omega : ℚ) (infs : Bool) (mode : RMode) (n : Bool) (m : Nat) (e : Int) (u k : Nat),
    (f, big, nan, omega, infs) ∈ [(Fmt.f32, 0x7F7FFFFF, 0x7FC00000, 2 ^ 128, true), (.bf16, 0x7F7F, 0x7FC0, 2 ^ 128, true),
      (.fp16, 0x7BFF, 0x7E00, 65536, true), (.fp8a, 0x7E, 0x7F, 480, false), (.fp8b, 0x7B, 0x7E, 65536, true), (.fp6a, 0x1F, 0, 32, false),
      (.fp6b, 0x1F, 0, 8, false), (.fp4, 7, 0, 8, false)] → u < 2 ^ 32 →
    let x : ℚ := (m : ℚ) * 2 ^ e
    let mag (k : Nat) : ℚ := if k ≤ big then (decodeF f k).rat else omega
    let sign : Nat := if n then 2 ^ (Fmt.width f - 1) else 0
    let away : Bool := mode == .rne || mode == .sr || (mode == .rdn && n) || (mode == .rup && !n)
    let beyond : Nat := sign + if infs && away then big + 1 else big
    let code (k : Nat) : Nat := if k ≤ big then sign + k else beyond
    let r := roundTo f mode (.fin n m e) u
    let down := x - mag k
    let up := mag (k + 1) - x
    roundTo f mode .nan u = nan ∧ roundTo f mode (.inf n) u = sign + (if infs then big + 1 else big) ∧
    (omega ≤ x → r = beyond) ∧ (k ≤ big → x = mag k → r = sign + k) ∧
    (k ≤ big → mag k < x → x < mag (k + 1) →
      (mode = .rne → (down < up → r = code k) ∧ (up < down → r = code (k + 1)) ∧ (up = down → r = code (if k % 2 = 0 then k else k + 1))) ∧
      (mode = .rtz → r = code k) ∧ (mode = .rdn → r = code (if n then k + 1 else k)) ∧ (mode = .rup → r = code (if n then k else k + 1)) ∧
      (mode = .sr → n = false → r = code (if (u : ℚ) < down / (down + up) * 2 ^ 32 then k + 1 else k)) ∧
      (mode = .sr → n = true → r = code (if (u : ℚ) < up / (down + up) * 2 ^ 32 then k else k + 1))))

/-- 09 R181: VMOV, VBCST, VLI, VIOTA and VSEL complete in two cycles in the active lanes; VSEL takes a lane of the first source where the
predicate's bit is one, else of the second.
09 R182 to R184, Table 9.4: VCMP, VCLASS, VPSET, VPAND, VPOR, VPXOR and VPNOT complete: bit j of the predicate for each active lane j, the other
bits kept, two cycles after the issue cycle.
09 R182, Table 9.4: when each condition holds: on F32 by the order of the values, ±0 equal, with false for a NaN but in NE, UN and, where b is the NaN, RB;
on INT32 and UINT32 by the signed and the unsigned value. 09 R183: the nine classes of a code. -/
def Obligations.VectorMovesAndPredicatesComplete : Prop :=
  (∀ (s : State) (g : Guard) (st : Sticky) (ty : Fmt) (d : VReg) (q : BitVec 3) (a b : VSrc) (c : SSrc) (imm : W32) (k : Nat) (x y : Vec),
    let m := laneMask (s.guard g)
    let to_ (v : Vec) : State := if m = 0 then s else s.result 2 (.v k) v m
    (s.dstV st d = .ok k → s.rdV 1 st a = .ok x → exec (.vmov g st d a) s = .next (to_ x)) ∧
    (s.dstV noStep d = .ok k →
      exec (.vbcst g ty d c) s = .next (to_ (splat ty (s.rdS 1 c).toNat)) ∧
      exec (.vli g ty d imm) s = .next (to_ (splat ty imm.toNat)) ∧
      exec (.viota g ty d c) s = .next (to_ (ofLanes (fun j => (s.rdS 1 c).setWidth 32 + BitVec.ofNat 32 j))) ∧
      (s.rdV 1 noStep a = .ok x → s.rdV 2 noStep b = .ok y → ∃ v : Vec, exec (.vsel g d q a b) s = .next (to_ v) ∧
        ∀ j, j < 64 → lane v j = if (s.src.preg q.toNat).getLsbD j then lane x j else lane y j))) ∧
  (∀ (s : State) (g : Guard) (cc : VCond) (ty : Fmt) (d p q : PReg) (np nq : Bool) (a b : VSrc) (c : SSrc) (cls : BitVec 9) (x y : Vec),
    let gm := s.guard g
    let to_ (v : Word) : State := if gm = 0 then s else s.resultP 2 d.toNat v gm
    let src (r : PReg) (n : Bool) (j : Nat) : Bool := xor ((s.src.preg r.toNat).getLsbD j) n
    (s.rdV 1 noStep a = .ok x → s.rdV 2 noStep b = .ok y → ∃ v : Word, exec (.vcmp g cc ty d a b) s = .next (to_ v) ∧
      ∀ j, j < 64 → v.getLsbD j = vcondHolds cc ty (lane x j).toNat (lane y j).toNat j) ∧
    (s.rdV 1 noStep a = .ok x → ∃ v : Word, exec (.vclass g d a cls) s = .next (to_ v) ∧
      ∀ j, j < 64 → v.getLsbD j = cls.getLsbD (fclass (lane x j).toNat)) ∧
    exec (.vpset g d c) s = .next (to_ (s.rdS 1 c)) ∧
    ∃ va vo vx vn : Word,
      exec (.vpand g d p np q nq) s = .next (to_ va) ∧ exec (.vpor g d p np q nq) s = .next (to_ vo) ∧
      exec (.vpxor g d p np q nq) s = .next (to_ vx) ∧ exec (.vpnot g d p) s = .next (to_ vn) ∧
      ∀ j, j < 64 → va.getLsbD j = (src p np j && src q nq j) ∧ vo.getLsbD j = (src p np j || src q nq j) ∧
        vx.getLsbD j = xor (src p np j) (src q nq j) ∧ vn.getLsbD j = !(s.src.preg p.toNat).getLsbD j) ∧
  (∀ (ty : Fmt) (a b j : Nat), a < 2 ^ 32 → b < 2 ^ 32 →
    let v (c : Nat) : FVal := decodeF .f32 c
    let nan : Prop := v a = .nan ∨ v b = .nan
    let key (c : Nat) : Int := if c < 2 ^ 31 then c else 2 ^ 31 - (c : Int)
    let int (c : Nat) : Int := if ty = .int32 then (BitVec.ofNat 32 c).toInt else c
    let f32 (cc : VCond) : Prop := vcondHolds cc .f32 a b j = true
    let on (cc : VCond) : Prop := vcondHolds cc ty a b j = true
    ((v a).isFinite = true → (v b).isFinite = true → (key a < key b ↔ (v a).rat < (v b).rat) ∧ (key a = key b ↔ (v a).rat = (v b).rat)) ∧
    (f32 .eq ↔ ¬ nan ∧ key a = key b) ∧ (f32 .ne ↔ nan ∨ key a ≠ key b) ∧ (f32 .lt ↔ ¬ nan ∧ key a < key b) ∧
    (f32 .ge ↔ ¬ nan ∧ key b ≤ key a) ∧ (f32 .le ↔ ¬ nan ∧ key a ≤ key b) ∧ (f32 .gt ↔ ¬ nan ∧ key b < key a) ∧ (f32 .un ↔ nan) ∧
    (f32 .rb ↔ v b = .nan ∨ (¬ nan ∧ key b ≤ key a)) ∧
    (ty.isI32 = true → (on .eq ↔ int a = int b) ∧ (on .ne ↔ int a ≠ int b) ∧ (on .lt ↔ int a < int b) ∧ (on .ge ↔ int b ≤ int a) ∧
      (on .le ↔ int a ≤ int b) ∧ (on .gt ↔ int b < int a) ∧ (on .rb ↔ int b ≤ int a)) ∧
    (fclass a = 8 ↔ v a = .nan) ∧ (fclass a = 0 ↔ v a = .inf true) ∧ (fclass a = 7 ↔ v a = .inf false) ∧ (fclass a = 3 ↔ a = 0x80000000) ∧
    (fclass a = 4 ↔ a = 0) ∧ (fclass a = 1 ↔ (v a).rat ≤ -2 ^ (-126 : ℤ)) ∧ (fclass a = 2 ↔ -2 ^ (-126 : ℤ) < (v a).rat ∧ (v a).rat < 0) ∧
    (fclass a = 5 ↔ 0 < (v a).rat ∧ (v a).rat < 2 ^ (-126 : ℤ)) ∧ (fclass a = 6 ↔ 2 ^ (-126 : ℤ) ≤ (v a).rat))

/-- 09 R187, R188 and 05 R107, R108: VRCP, VRSQ, VEXP2 and the reductions VSUM, VRMAX, VRMIN complete: every active lane of the destination takes the
one value that the reduction has over the active lanes of the source; with no active lane they write nothing.
05 R107: VSUM is the root of the tree of six levels whose nodes add adjacent pairs, the lower first, rounded to nearest in FP32 or modulo 2³²; an
inactive lane enters as −0 or as 0.
05 R108, 09 R188: on INT32 and UINT32 VRMAX and VRMIN give the greatest and the least of the active lanes, and with IDX the lowest lane that holds
it. On F32 they pick the lane that ranks before every other active lane: a number before a NaN, then the greater (VRMIN: the lesser) number, ±0
equal, then the lower lane; with IDX = 0 a number is written bit for bit and a NaN as the canonical one. -/
def Obligations.SpecialAndReductionsComplete : Prop :=
  (∀ (s : State) (g : Guard) (ty : Fmt) (idx : Bool) (d : VReg) (a : VSrc) (k : Nat) (x : Vec),
    s.dstV noStep d = .ok k → s.rdV 1 noStep a = .ok x →
    let gm := s.guard g
    let m := laneMask gm
    let to_ (lat : Nat) (v : Vec) : State := if m = 0 then s else s.result lat (.v k) v m
    exec (.vrcp g d a) s = .next (to_ 12 (map1 .f32 frcp x)) ∧
    exec (.vrsq g d a) s = .next (to_ 12 (map1 .f32 frsq x)) ∧
    exec (.vexp2 g d a) s = .next (to_ 12 (map1 .f32 (fexp2 (expRoots 50 (2 ^ 129))) x)) ∧
    exec (.vsum g ty d a) s = .next (to_ (if ty.isFloat then 24 else 12) (splat .f32 (vsumOf ty gm x))) ∧
    exec (.vrmax g ty idx d a) s = .next (to_ 12 (splat .f32 (pickOf true idx ty gm x))) ∧
    exec (.vrmin g ty idx d a) s = .next (to_ 12 (splat .f32 (pickOf false idx ty gm x)))) ∧
  (∀ (ty : Fmt) (gm : Word) (x : Vec), ty.isI32 = true →
    let val (c : W32) : Int := if ty = .int32 then c.toInt else c.toNat
    (∀ j, j < 64 → gm.getLsbD j = true →
      val (lane x j) ≤ val (BitVec.ofNat 32 (pickOf true false ty gm x)) ∧ val (BitVec.ofNat 32 (pickOf false false ty gm x)) ≤ val (lane x j)) ∧
    (gm ≠ 0 → ∀ mx : Bool, gm.getLsbD (pickOf mx true ty gm x) = true ∧
      (lane x (pickOf mx true ty gm x)).toNat = pickOf mx false ty gm x ∧
      ∀ j, j < 64 → gm.getLsbD j = true → (lane x j).toNat = pickOf mx false ty gm x → pickOf mx true ty gm x ≤ j)) ∧
  (∀ (ty : Fmt) (gm : Word) (x : Vec) (node : Nat → Nat → Nat), ty.isW32 = true →
    (∀ j, j < 64 → node 0 j = if gm.getLsbD j then (lane x j).toNat else if ty = .f32 then 0x80000000 else 0) →
    (∀ l i, l < 6 → i < 2 ^ (5 - l) → node (l + 1) i =
      if ty = .f32 then roundTo .f32 .rne ((decodeF .f32 (node l (2 * i))).add (decodeF .f32 (node l (2 * i + 1))))
      else (node l (2 * i) + node l (2 * i + 1)) % 2 ^ 32) →
    vsumOf ty gm x = node 6 0) ∧
  (∀ (gm : Word) (x : Vec) (mx : Bool), gm ≠ 0 →
    let code (j : Nat) : Nat := (lane x j).toNat
    let num (j : Nat) : Prop := isNanCode .f32 (code j) = false
    let key (j : Nat) : Int := if code j < 2 ^ 31 then code j else 2 ^ 31 - (code j : Int)
    let i := pickOf mx true .f32 gm x
    gm.getLsbD i = true ∧ (num i → pickOf mx false .f32 gm x = code i) ∧ (¬ num i → pickOf mx false .f32 gm x = 0x7FC00000) ∧
    ∀ j, j < 64 → gm.getLsbD j = true → j ≠ i →
      (num i ∧ num j ∧ ((if mx then key j < key i else key i < key j) ∨ (key i = key j ∧ i < j))) ∨ (num i ∧ ¬ num j) ∨
      (¬ num i ∧ ¬ num j ∧ i < j))

/-- 09 R185, R186: VCVT completes in four cycles. A plain conversion converts the 64 codes of one source group into one group of the destination;
only enabled elements of that group change. In the SR mode, and in no other, the generator moves on.
09 R186, 05 R101, R102: block quantisation completes: the codes in one group, and the scale byte of the group in byte GD of the scale register.
05 R99, Table 5.5, 09 R186: a conversion to a floating-point format rounds the exact value of the source by the mode; one to an integer format rounds
to an integer by the mode and clamps to the range, NaN giving 0. That an integer is clamped in a format as wide too is the model's choice (DESIGN
CHOICE, log 81).
05 R102: a block with a NaN or an infinity has the scale 0xFF and zeros. Else its scale is 127 for zeros, and floor(log2) of the greatest magnitude less
emax plus 127, clamped to 0 to 254; each element is its value over the scale rounded by the mode, and the greatest value of its sign where that
overflows. -/
def Obligations.ConversionsComplete : Prop :=
  (∀ (s : State) (g : Guard) (d : VReg) (a : VSrc) (dst src : Fmt) (mode : RMode) (gd gs : BitVec 3) (k : Nat) (x : Vec),
    (mode = .sr → s.cur.feat.getLsbD 3 = true) → s.dstV noStep d = .ok k → s.rdV 1 noStep a = .ok x →
    let dr := if mode = .sr then draws 64 s.cur.srg else (List.replicate 64 0, s.cur.srg)
    let ys := List.zipWith (convert dst src mode) (groupOf src x gs.toNat) dr.1
    let m := groupMask (Fmt.width dst) gd.toNat (s.guard g)
    let u := s.modCur (fun q => { q with srg := dr.2 })
    exec (.vcvt g d a (.plain dst src mode gd gs)) s =
      .next (if m = 0 then u else u.result 4 (.v k) (placeGroup dst gd.toNat ys) m)) ∧
  (∀ (s : State) (g : Guard) (d : VReg) (a : VSrc) (e : Fmt) (mode : RMode) (gd : BitVec 3) (vs : VReg) (k ks : Nat) (x : Vec),
    (mode = .sr → s.cur.feat.getLsbD 3 = true) → s.dstV noStep d = .ok k → s.rdV 1 noStep a = .ok x → s.dstV noStep vs = .ok ks →
    groupMask (Fmt.width e) gd.toNat (s.guard g) ≠ 0 → s.guard g ≠ 0 →
    let dr := if mode = .sr then draws 64 s.cur.srg else (List.replicate 64 0, s.cur.srg)
    let b := blk ((groupOf .f32 x 0).map (decodeF .f32)) e mode dr.1
    exec (.vcvt g d a (.block e mode gd vs)) s =
      .next (((s.modCur (fun q => { q with srg := dr.2 })).result 4 (.v k) (placeGroup e gd.toNat b.2)
        (groupMask (Fmt.width e) gd.toNat (s.guard g))).result 4 (.v ks) (BitVec.ofNat 2048 (b.1 * 2 ^ (8 * gd.toNat)))
        (BitVec.ofNat 2048 (0xFF * 2 ^ (8 * gd.toNat))))) ∧
  (∀ (dst src : Fmt) (mode : RMode) (c u : Nat), dst.isElem = true → src.isElem = true → c < 2 ^ Fmt.width src →
    let v := decodeF src c
    let w := Fmt.width dst
    let lo : Int := if dst = .int32 ∨ dst = .int8 then -2 ^ (w - 1) else 0
    let hi : Int := if dst = .int32 ∨ dst = .int8 then 2 ^ (w - 1) - 1 else 2 ^ w - 1
    let val : Int := if (src = .int32 ∨ src = .int8) ∧ 2 ^ (Fmt.width src - 1) ≤ c then (c : Int) - 2 ^ Fmt.width src else c
    let cut (i : Int) : Nat := (max lo (min hi i) % 2 ^ w).toNat
    let y := convert dst src mode c u
    (dst.isFloat = true → src.isFloat = true → y = roundTo dst mode v u) ∧
    (dst.isFloat = true → src.isFloat = false → ∃ x : FVal, x.Is val false ∧ y = roundTo dst mode x u) ∧
    (dst.isFloat = false → src.isFloat = false → y = cut val) ∧
    (dst.isFloat = false → src.isFloat = true →
      (v = .nan → y = 0) ∧ (∀ n, v = .inf n → y = cut (if n then lo else hi)) ∧
      (v.isFinite = true → ∃ i : Int, y = cut i ∧
        (mode = .rne → |v.rat - i| ≤ 1 / 2 ∧ (|v.rat - i| = 1 / 2 → i % 2 = 0)) ∧
        (mode = .rtz → |(i : ℚ)| ≤ |v.rat| ∧ |v.rat| < |(i : ℚ)| + 1 ∧ 0 ≤ (i : ℚ) * v.rat) ∧
        (mode = .rdn → (i : ℚ) ≤ v.rat ∧ v.rat < i + 1) ∧ (mode = .rup → v.rat ≤ i ∧ (i : ℚ) < v.rat + 1)))) ∧
  (∀ (f : Fmt) (big : Nat) (emax : Int) (mode : RMode) (xs : List FVal) (us : List Nat),
    (f, big, emax) ∈ [(Fmt.fp8a, 0x7E, 8), (.fp8b, 0x7B, 15), (.fp6a, 0x1F, 4), (.fp6b, 0x1F, 2), (.fp4, 7, 2)] → xs.length = 64 → us.length = 64 →
    let b := blk xs f mode us
    ((∃ x ∈ xs, x.isFinite = false) → b = (0xFF, List.replicate 64 0)) ∧
    ((∀ x ∈ xs, x.isFinite = true) →
      (∀ M : ℚ, (∃ x ∈ xs, |x.rat| = M) → (∀ x ∈ xs, |x.rat| ≤ M) → (M = 0 → b.1 = 127) ∧
        (M ≠ 0 → ∃ l : Int, (2 : ℚ) ^ l ≤ M ∧ M < 2 ^ (l + 1) ∧ (b.1 : Int) = max 0 (min 254 (l - emax + 127)))) ∧
      b.2.length = 64 ∧ ∀ i, i < 64 →
        let x := xs.getD i .nan
        ∃ y : FVal, y.Is (x.rat / 2 ^ ((b.1 : Int) - 127)) x.signed ∧
          (let r := roundTo f mode y (us.getD i 0)
           b.2.getD i 0 = if r % 2 ^ (Fmt.width f - 1) ≤ big then r else (if x.signed then 2 ^ (Fmt.width f - 1) else 0) + big)))

/-- 09 R189, R190, 02 R42: DEFER appends one entry for each active lane, in lane order, with that lane of the registers named, where they fit in
2,048 entries; DRQ takes 64 entries when there are so many, and any that there are when it flushes, and its predicate has one low bit
for each entry taken. Entry j goes to lane j of the destinations: its lane number to vd, its value k to vd+1+k, zero where it has fewer values;
the lanes behind the last entry keep their values, and so does each register when none is taken. The results come four cycles after the issue
cycle. -/
def Obligations.DeferralCompletes : Prop :=
  ∀ (s : State) (g : Guard) (a d : VReg) (n : BitVec 3) (fl : Bool) (p : PReg) (vs : List Vec) (ds : List Nat),
    let gm := s.guard g
    let js := (List.range 64).filter (fun j => gm.getLsbD j)
    let q := s.cur.dq
    let m := if fl then min q.length 64 else if 64 ≤ q.length then 64 else 0
    (s.rdRun a n.toNat = .ok vs → q.length + s.cur.dqRetained.length + js.length ≤ 2048 →
      exec (.defer g a n) s = .next (s.modCur (fun k => { k with dq := q ++ js.map (fun j => { lane := j, vals := vs.map (fun v => lane v j) }) }))) ∧
    (s.dstRun d (n.toNat + 1) = .ok ds → gm = 0 → exec (.drq g d n fl p) s = .next s) ∧
    (s.dstRun d (n.toNat + 1) = .ok ds → gm ≠ 0 → ∃ t : State, exec (.drq g d n fl p) s = .next t ∧
      t.cur.dq = q.drop m ∧ SameRegisters s.cur t.cur ∧ SameMemory s t ∧ SameOthers s.ctx.core s t ∧
      (t.cur.inflight.getLast?).map (fun e => (e.dest, (e.value.setWidth 64 : Word), e.due)) =
        some (.p p.toNat, BitVec.ofNat 64 (2 ^ m - 1), s.ctx.cyc + 4) ∧
      (n.toNat ≤ 4 →
        t.cur.inflight.take s.cur.inflight.length = s.cur.inflight ∧
        t.cur.inflight.length = s.cur.inflight.length + (if m = 0 then 0 else n.toNat + 1) + 1 ∧
        (0 < m → ∀ c, c ≤ n.toNat → ∃ e, t.cur.inflight[s.cur.inflight.length + c]? = some e ∧ e.dest = .v (ds.getD c 0) ∧
          e.due = s.ctx.cyc + 4 ∧ e.mask = laneMask (BitVec.ofNat 64 (2 ^ m - 1)) ∧
          ∀ j, j < m → ∀ x : DEntry, q[j]? = some x → x.lane < 2 ^ 32 →
            lane e.value j = if c = 0 then BitVec.ofNat 32 x.lane else x.vals.getD (c - 1) 0)))

/-! X slot. -/

/-- 09 R194, R195, R197: XPERM, XROT, XBCST, XSHUF and XCMPR complete in three cycles: which lane or element each lane of the result takes.
09 R196: XPACK puts the 64 lanes' low bits into group G of the destination and leaves the other groups; XUNPK takes group G apart, extended
by zeros or by the sign. Both take three cycles. -/
def Obligations.PermutesComplete : Prop :=
  (∀ (s : State) (g : Guard) (p : Shuffle) (ty : Fmt) (d : VReg) (a b : VSrc) (n : BitVec 6) (c : SSrc) (q : PReg) (k : Nat) (x y : Vec),
    s.dstV noStep d = .ok k → s.rdV 1 noStep a = .ok x → s.rdV 2 noStep b = .ok y →
    let m := laneMask (s.guard g)
    let to_ (v : Vec) : State := if m = 0 then s else s.result 3 (.v k) v m
    ∃ vp vr vrr vb vbr vs vc : Vec,
      exec (.xperm g d a b) s = .next (to_ vp) ∧ exec (.xrot g d a (.imm n)) s = .next (to_ vr) ∧
      exec (.xrot g d a (.reg c)) s = .next (to_ vrr) ∧ exec (.xbcst g d a (.imm n)) s = .next (to_ vb) ∧
      exec (.xbcst g d a (.reg c)) s = .next (to_ vbr) ∧ exec (.xshuf g p ty d a b) s = .next (to_ vs) ∧
      exec (.xcmpr g d a q) s = .next (to_ vc) ∧
      (∀ j, j < 64 → lane vp j = lane x ((lane y j).toNat % 64) ∧ lane vr j = lane x ((j + n.toNat) % 64) ∧
        lane vrr j = lane x ((j + (s.rdS 2 c).toNat) % 64) ∧ lane vb j = lane x n.toNat ∧
        lane vbr j = lane x ((s.rdS 2 c).toNat % 64)) ∧
      (let w := Fmt.width ty
       let h := 2048 / w / 2
       let el (v : Vec) (e : Nat) : Nat := (v.extractLsb' (w * e) w).toNat
       ∀ e, e < h →
        (p = .ilo → el vs (2 * e) = el x e ∧ el vs (2 * e + 1) = el y e) ∧
        (p = .ihi → el vs (2 * e) = el x (h + e) ∧ el vs (2 * e + 1) = el y (h + e)) ∧
        (p = .even → el vs e = el x (2 * e) ∧ el vs (h + e) = el y (2 * e)) ∧
        (p = .odd → el vs e = el x (2 * e + 1) ∧ el vs (h + e) = el y (2 * e + 1))) ∧
      (∀ j, j < 64 → (s.src.preg q.toNat).getLsbD j = true →
        lane vc (((List.range j).filter (fun i => (s.src.preg q.toNat).getLsbD i)).length) = lane x j) ∧
      (∀ j, j < 64 → onesIn (s.src.preg q.toNat) ≤ j → lane vc j = 0)) ∧
  (∀ (s : State) (g : Guard) (st : Sticky) (ty : Fmt) (d : VReg) (a : VSrc) (grp : BitVec 3) (k : Nat) (x : Vec),
    s.dstV st d = .ok k → s.rdV 1 st a = .ok x → grp.toNat < ty.groups →
    let w := Fmt.width ty
    let gm := groupMask w grp.toNat (s.guard g)
    let lm := laneMask (s.guard g)
    let el (v : Vec) (e : Nat) : BitVec w := v.extractLsb' (w * e) w
    (∃ v : Vec, exec (.xpack g st ty d a grp) s = .next (if gm = 0 then s else s.result 3 (.v k) v gm) ∧
      (ty.isPack = true → ∀ j, j < 64 → 64 * grp.toNat + j < 2048 / w → el v (64 * grp.toNat + j) = (lane x j).setWidth w)) ∧
    (∃ v : Vec, exec (.xunpk g st ty d a grp false) s = .next (if lm = 0 then s else s.result 3 (.v k) v lm) ∧
      ∀ j, j < 64 → lane v j = (el x (64 * grp.toNat + j)).zeroExtend 32) ∧
    (∃ v : Vec, exec (.xunpk g st ty d a grp true) s = .next (if lm = 0 then s else s.result 3 (.v k) v lm) ∧
      ∀ j, j < 64 → lane v j = (el x (64 * grp.toNat + j)).signExtend 32))

/-- 09 R193: CXS completes: each pair of active lanes j and j + 2^DL of both registers is exchanged or kept, two cycles after the issue cycle, so
that the pair's key and index in lane j and lane j + 2^DL are the same two pairs as before.
Which pairs are exchanged: under R108 with the companion as index (numbers before NaNs, the greater first, ±0 equal, ties by the lower companion;
for an integer TYPE the greater key under it first), a pair whose upper lane ranks before the lower one where the direction's bit is one, and a
pair whose lower lane ranks before the upper one where it is zero.
09 R192: XPOSE.W, .R and .WR complete: a write puts the active lanes of the row into the present bank at WR and turns the bank after row 63;
a read gives column RD of the other bank, eight cycles after the issue cycle; CLR starts both counters and the bank at zero. -/
def Obligations.ExchangeAndTransposeComplete : Prop :=
  (∀ (s : State) (g : Guard) (ty : Fmt) (kn i : VReg) (q : PReg) (dl : BitVec 3) (dk di : Nat),
    s.dstV noStep kn = .ok dk → s.dstV noStep i = .ok di → dl.toNat < 6 →
    let gm := s.guard g
    let key := s.src.vreg dk
    let idx := s.src.vreg di
    let partner (j : Nat) : Nat := if j / 2 ^ dl.toNat % 2 = 0 then j + 2 ^ dl.toNat else j - 2 ^ dl.toNat
    let num (j : Nat) : Prop := ty = .f32 → isNanCode .f32 (lane key j).toNat = false
    let val (j : Nat) : Int := if ty = .int32 then (lane key j).toInt else if ty = .uint32 then (lane key j).toNat
      else if (lane key j).toNat < 2 ^ 31 then (lane key j).toNat else 2 ^ 31 - ((lane key j).toNat : Int)
    let first (a b : Nat) : Prop := (num a ∧ num b ∧ (val b < val a ∨ (val a = val b ∧ (lane idx a).toNat < (lane idx b).toNat))) ∨
      (num a ∧ ¬ num b) ∨ (¬ num a ∧ ¬ num b ∧ (lane idx a).toNat < (lane idx b).toNat)
    ∃ (nk ni : Vec) (m : Vec),
      exec (.cxs g ty kn i q dl) s = .next (if m = 0 then s else (s.result 2 (.v dk) nk m).result 2 (.v di) ni m) ∧
      (∀ j, j < 64 → lane m j = if gm.getLsbD j && gm.getLsbD (partner j) then 0xFFFFFFFF else 0) ∧
      ∀ j, j < 64 → j / 2 ^ dl.toNat % 2 = 0 → gm.getLsbD j = true → gm.getLsbD (partner j) = true → ty.isW32 = true →
        let m := partner j
        let out := if (s.src.preg q.toNat).getLsbD j then first m j else first j m
        (¬ out → lane nk j = lane key j ∧ lane ni j = lane idx j ∧ lane nk m = lane key m ∧ lane ni m = lane idx m) ∧
        (out → lane nk j = lane key m ∧ lane ni j = lane idx m ∧ lane nk m = lane key j ∧ lane ni m = lane idx j)) ∧
  (∀ (s : State) (g : Guard) (st : Sticky) (clr : Bool) (d : VReg) (a : VSrc) (kd : Nat) (x : Vec),
    s.dstV st d = .ok kd → s.rdV 1 st a = .ok x →
    let k := if clr then { s.cur with xpWr := 0, xpRd := 0, xpBank := 0 } else s.cur
    let m := laneMask (s.guard g)
    ∃ (t u v : State) (col : Vec),
      exec (.xpose g st clr (.w a)) s = .next t ∧ exec (.xpose g st clr (.r d)) s = .next u ∧ exec (.xpose g st clr (.wr d a)) s = .next v ∧
      (∀ i, i < 64 → lane col i = lane (sget 0 k.xpose (64 * (1 - k.xpBank) + i)) k.xpRd) ∧
      sget 0 t.cur.xpose (64 * k.xpBank + k.xpWr) = mixBits (sget 0 k.xpose (64 * k.xpBank + k.xpWr)) x m ∧
      (∀ j, j ≠ 64 * k.xpBank + k.xpWr → sget 0 t.cur.xpose j = sget 0 k.xpose j) ∧
      t.cur.xpWr = (k.xpWr + 1) % 64 ∧ t.cur.xpBank = (if (k.xpWr + 1) % 64 = 0 then 1 - k.xpBank else k.xpBank) ∧ t.cur.xpRd = k.xpRd ∧
      t.cur.inflight = s.cur.inflight ∧
      u.cur.xpose = k.xpose ∧ u.cur.xpRd = (k.xpRd + 1) % 64 ∧ u.cur.xpWr = k.xpWr ∧ u.cur.xpBank = k.xpBank ∧
      u.cur.inflight = (if m = 0 then s.cur.inflight
        else s.cur.inflight ++ [{ due := s.ctx.cyc + 8, slot := s.ctx.slot, iss := s.cur.issued, dest := .v kd, value := col, mask := m }]) ∧
      v.cur.xpose = t.cur.xpose ∧ v.cur.xpRd = u.cur.xpRd ∧ v.cur.xpWr = t.cur.xpWr ∧ v.cur.xpBank = t.cur.xpBank ∧ v.cur.inflight = u.cur.inflight)

/-! M slot and matrix engine. -/

/-- 10 R200, R205: MMA and MMAZ complete for every pair of operands, in registers or in a window: one entry enters MXQ with what was captured at
issue, the tile's busy bit is set, and nothing else changes until the engine performs it.
10 R207, R208: TLD from registers and from a window, TST to a window, TZERO, TSCALE and TADD complete: one entry enters MXQ with the rows, the
stepped base or the factors captured at issue, and the busy bits of its tiles are set.
10 R207: the register form of TST completes: each active row of the tile, read at issue, goes to its own name 16 cycles after the issue cycle;
no entry enters MXQ. -/
def Obligations.MatrixCommandsIssue : Prop :=
  (∀ (s : State) (g : Guard) (st : Sticky) (d : TReg) (a b : MOperand) (x y : MSrc),
    s.Captures st a 0 (s.matFormat b (saWords a)) x → s.Captures st b (saWords a) (s.matFormat a 0) y →
    (∃ t, exec (.mma g st d a b) s = .next t ∧ Enqueued s t (.mma false d.toNat x y) (s.guard g) [d.toNat]) ∧
    (∃ t, exec (.mmaz g st d a b) s = .next t ∧ Enqueued s t (.mma true d.toNat x y) (s.guard g) [d.toNat])) ∧
  (∀ (s : State) (g : Guard) (st : Sticky) (c : Bool) (ty : Fmt) (d b : TReg) (v : VReg) (n : SReg) (rows : List Vec) (k : Nat),
    let base := s.stepBase st (s.matPair n 0).1 (s.matPair n 0).2
    let desc := (s.matPair n 0).2
    (∃ t, exec (.tzero g d) s = .next t ∧ Enqueued s t (.tzero d.toNat) (s.guard g) [d.toNat]) ∧
    (∃ t, exec (.tadd g ty d b) s = .next t ∧ Enqueued s t (.tadd ty d.toNat b.toNat) (s.guard g) [d.toNat, b.toNat]) ∧
    (vphys s.src v.toNat = .ok k →
      ∃ t, exec (.tscale g c d v) s = .next t ∧ Enqueued s t (.tscale c d.toNat (s.src.vreg k)) (s.guard g) [d.toNat]) ∧
    (s.rdSpan st v 64 = .ok rows →
      ∃ t, exec (.tld g st d (.reg v)) s = .next t ∧ Enqueued s t (.tldReg d.toNat rows) (s.guard g) [d.toNat]) ∧
    (tileDescOk false desc = true → s.checkMatrix base desc 256 0 = .ok () →
      ∃ t, exec (.tld g st d (.mem n)) s = .next t ∧ Enqueued s t (.tldMem d.toNat base desc) (s.guard g) [d.toNat]) ∧
    (tileDescOk true desc = true → s.checkMatrix base desc 256 0 = .ok () →
      ∃ t, exec (.tstMemory g st n d) s = .next t ∧ Enqueued s t (.tstMem base desc d.toNat) (s.guard g) [d.toNat])) ∧
  (∀ (s : State) (g : Guard) (st : Sticky) (d : VReg) (a : TReg) (ds : List Nat), s.dstSpan st d 64 = .ok ds →
    ∃ t, exec (.tstRegister g st d a) s = .next t ∧
      t.cur.inflight = s.cur.inflight ++ ((List.range 64).filter (fun i => (s.guard g).getLsbD i)).map (fun i =>
        { due := s.ctx.cyc + 16, slot := s.ctx.slot, iss := s.cur.issued, dest := .v (ds.getD i 0)
          value := (sget [] s.cur.tiles a.toNat).getD i 0, tst := true, row := i }) ∧
      t.cur.mxq = s.cur.mxq ∧ SameRegisters s.cur t.cur ∧ SameMemory s t ∧ SameOthers s.ctx.core s t)

/-- 10 R206, 05 R106: the engine starts the oldest entry when it may. An MMA of integer operands in registers adds to each element (i, j) of an
active row the exact sum of the 64 products of line i of A and line j of B, modulo 2³²; MMAZ starts from zero, and sets the other rows to zero
where MMA keeps them. That the product has its whole effect in the step that starts it is the model's reading (DEDUCED, log 26).
10 R202, R203, R206, 05 R104 to R106, Table 5.6: so an MMA of any two operands of one class, each in registers or in a window, where no word that it
reads is poisoned. Element k of line n is the code that its bits of the line's stream are, in a block format scaled with its block, a NaN in a NaN
block; a window's line has its chunks turned by ROT. In the integer class it is as above. Else each element of an active row takes sixteen groups in
ascending order, of 4, 8 or 2 products with its class: each adds its exact sum of products to the accumulator with one rounding to nearest. A NaN or
0 × ∞ makes it the canonical NaN, and so do infinities of both signs; with one sign it is that infinity; an exact zero is −0 only where the accumulator
and every product are negative. -/
def Obligations.MatrixProduct : Prop :=
  (∀ (s : State) (c : Nat) (e : MEntry) (rest : List MEntry) (z : Bool) (d : Nat) (la lb : List Vec) (sa sb : Vec) (fa fb : Fmt),
    (s.core c).mxq = e :: rest → e.cmd = .mma z d (.regs fa la sa) (.regs fb lb sb) → (fa = .int8 ∨ fa = .uint8) → (fb = .int8 ∨ fb = .uint8) →
    s.engineReady c = true → (s.core c).tilePoison = [] → (s.core c).broken = [] →
    let code (l : List Vec) (n x : Nat) : Nat := ((l.getD (n / 4) 0).extractLsb' (512 * (n % 4) + 8 * x) 8).toNat
    let row (u : State) (i : Nat) : Vec := (sget [] (u.core c).tiles d).getD i 0
    ∃ t, exec (.mxqEntryStart c) s = .next t ∧ (t.core c).mxq = rest ∧ (t.core c).rf = (s.core c).rf ∧ SameMemory s t ∧ SameOthers c s t ∧
      ∀ i j, i < 64 → j < 64 →
        lane (row t i) j =
          if e.guard.getLsbD i then
            BitVec.ofInt 32 ((if z then 0 else ((lane (row s i) j).toNat : Int)) +
              ((List.range 64).map (fun x => decodeI fa (code la i x) * decodeI fb (code lb j x))).sum)
          else if z then 0 else lane (row s i) j) ∧
  (∀ (s : State) (c : Nat) (e : MEntry) (rest : List MEntry) (z : Bool) (d : Nat) (a b : MSrc) (cl : MClass),
    (s.core c).mxq = e :: rest → e.cmd = .mma z d a b → a.fmt.mclass = some cl → b.fmt.mclass = some cl →
    s.engineReady c = true → (s.core c).tilePoison = [] → (s.core c).broken = [] → (s.core c).rf.nearPoison = [] → (s.core c).rf.soft = [] →
    (∀ g, (s.gal g).poison = [] ∧ (s.gal g).soft = []) →
    let row (u : State) (n i : Nat) : Vec := (sget [] (u.core c).tiles n).getD i 0
    ∃ t, exec (.mxqEntryStart c) s = .next t ∧ (t.core c).mxq = rest ∧ (t.core c).rf = (s.core c).rf ∧ SameMemory s t ∧ SameOthers c s t ∧
      (∀ n i, n ≠ d → row t n i = row s n i) ∧
      ∀ i j, i < 64 → j < 64 →
        let start : W32 := if z then 0 else lane (row s d i) j
        (e.guard.getLsbD i = false → lane (row t d i) j = start) ∧
        (e.guard.getLsbD i = true →
          (cl = .int8 → lane (row t d i) j = start + BitVec.ofInt 32
            ((List.range 64).map (fun k => decodeI a.fmt (s.lineCode c a i k) * decodeI b.fmt (s.lineCode c b j k))).sum) ∧
          ∀ g, (cl, g) ∈ [(MClass.fp8, 4), (.fp4, 8), (.half, 2)] → ∃ acc : Nat → Nat, acc 0 = start.toNat ∧ acc 16 = (lane (row t d i) j).toNat ∧
            ∀ n, n < 16 → GroupAdds (acc n) (acc (n + 1)) g (fun k => s.lineElem c a i (g * n + k)) (fun k => s.lineElem c b j (g * n + k))))

/-- 10 R207, R208: what the other entries do to a tile when the engine performs them: TZERO clears the active rows, TLD loads them, TSCALE
multiplies each element by its row's or column's factor, TADD adds a tile; other rows and tiles stay.
10 R203, R207: a TLD from a window loads each active row from its 256 bytes at the base and RPITCH; a TST to a window writes each active row
there, and no other byte, and leaves the tiles.
10 R201, Table 10.1: the engine's occupancy and the busy bits: an entry started in a clock holds the engine for its time of the table, and the bits of
its tiles have their clear point at their offset in schedule cycles: 16 and 20 cycles for MMA, TLD, TST, TSCALE and TADD, 1 and 4 for TZERO, 64 and
68 for a memory form of TLD and TST from a vault, and with the vault of another gallery 2 + 4 × hops + 6 × bridges more. Operands in a vault
may come later by a free number of cycles (log 4); the clear point then waits for the end. TILE_CLEAR_POINT completes in every state: it clears the bit of a tile whose cycle has
come and leaves the others; an entry that ended late gets the later of the table's point and the cycle 4 after its end.
19 R353: an entry that poison cancelled leaves its POISON event, with its word, at its clear point (with VALUE 0: DESIGN CHOICE, log 27).
That a command has its whole effect in the step that starts it is the model's reading (DEDUCED, log 26). -/
def Obligations.TileCommandsPerform : Prop :=
  (∀ (s : State) (c : Nat) (e : MEntry) (rest : List MEntry) (d b : Nat) (rows : List Vec) (cc : Bool) (v : Vec) (ty : Fmt),
    (s.core c).mxq = e :: rest → s.engineReady c = true → (s.core c).tilePoison = [] → (s.core c).broken = [] →
    (e.cmd = .tzero d ∨ e.cmd = .tldReg d rows ∨ e.cmd = .tscale cc d v ∨ e.cmd = .tadd ty d b) →
    let row (u : State) (n i : Nat) : Vec := (sget [] (u.core c).tiles n).getD i 0
    ∃ t, exec (.mxqEntryStart c) s = .next t ∧ (t.core c).mxq = rest ∧ (t.core c).rf = (s.core c).rf ∧ SameMemory s t ∧ SameOthers c s t ∧
      (∀ n i, n ≠ d → row t n i = row s n i) ∧
      ∀ i j, i < 64 → j < 64 →
        (e.guard.getLsbD i = false → row t d i = row s d i) ∧
        (e.guard.getLsbD i = true →
          (e.cmd = .tzero d → row t d i = 0) ∧ (e.cmd = .tldReg d rows → row t d i = rows.getD i 0) ∧
          (e.cmd = .tscale cc d v → (lane (row t d i) j).toNat =
            fop2 .f32 FVal.mul (lane (row s d i) j).toNat (lane v (if cc then j else i)).toNat % 2 ^ 32) ∧
          (e.cmd = .tadd ty d b → (lane (row t d i) j).toNat = eAdd ty (lane (row s d i) j).toNat (lane (row s b i) j).toNat % 2 ^ 32))) ∧
  (∀ (s : State) (c : Nat) (e : MEntry) (rest : List MEntry) (d : Nat) (base desc : Word), (s.core c).mxq = e :: rest → s.engineReady c = true →
    (s.core c).tilePoison = [] → (s.core c).broken = [] → (s.core c).rf.nearPoison = [] → (s.core c).rf.soft = [] →
    (∀ g, (s.gal g).poison = [] ∧ (s.gal g).soft = []) →
    let row (u : State) (n i : Nat) : Vec := (sget [] (u.core c).tiles n).getD i 0
    let at_ (i : Nat) : Nat := windowOff base + i * field desc 15 0
    (e.cmd = .tldMem d base desc → ∃ t, exec (.mxqEntryStart c) s = .next t ∧ (t.core c).mxq = rest ∧ (t.core c).rf = (s.core c).rf ∧
      SameMemory s t ∧ SameOthers c s t ∧ (∀ n i, n ≠ d → row t n i = row s n i) ∧
      ∀ i, i < 64 → (e.guard.getLsbD i = false → row t d i = row s d i) ∧
        (e.guard.getLsbD i = true → ∀ j, j < 256 → (row t d i).extractLsb' (8 * j) 8 = s.windowByte c base (at_ i + j))) ∧
    (e.cmd = .tstMem base desc d → 256 ≤ field desc 15 0 → ∃ t, exec (.mxqEntryStart c) s = .next t ∧ (t.core c).mxq = rest ∧
      (t.core c).tiles = (s.core c).tiles ∧ (t.core c).rf.s = (s.core c).rf.s ∧ (t.core c).rf.p = (s.core c).rf.p ∧ t.hbm = s.hbm ∧
      t.hostMem = s.hostMem ∧ SameOthers c s t ∧
      (let wrote (byte old : Nat → Byte) : Prop :=
        (∀ i j, i < 64 → j < 256 → e.guard.getLsbD i = true → byte (at_ i + j) = (row s d i).extractLsb' (8 * j) 8) ∧
        (∀ o, (∀ i, i < 64 → e.guard.getLsbD i = true → o < at_ i ∨ at_ i + 256 ≤ o) → byte o = old o)
       (windowOf base ≠ some .gallery → wrote (t.core c).rf.near.byte (s.core c).rf.near.byte ∧ SameMemory s t) ∧
       (∀ w, windowOf base = some .gallery → s.vaultWindow (s.core c).task (field base 38 32) = some w →
        wrote (fun o => (t.gal w.1).vault.byte (w.2 + o)) (fun o => (s.gal w.1).vault.byte (w.2 + o)) ∧
        (∀ o, o < w.2 → (t.gal w.1).vault.byte o = (s.gal w.1).vault.byte o) ∧ (∀ g, g ≠ w.1 → t.gal g = s.gal g) ∧
        (t.core c).rf = (s.core c).rf)))) ∧
  (∀ (s : State) (c : Nat) (e : MEntry) (rest : List MEntry), (s.core c).mxq = e :: rest → s.engineReady c = true → (s.core c).weak = [] →
    (s.core c).broken = [] → (s.core c).rf.soft = [] → (∀ g, (s.gal g).soft = []) → (s.core c).correct ≤ s.clock →
    (∀ r, (s.core c).run = some r → r.late = none) →
    let k := s.core c
    let vaults : List Nat := e.cmd.bases.filterMap (fun b => match s.engineHome c b with
      | .vault g _ => some g
      | _ => none)
    let far (g : Nat) : Nat := if galOf c = g then 0 else 2 + 4 * hops (galOf c) g + 6 * bridges (galOf c) g
    let ex : Nat := (vaults.map far).foldl max 0
    let takes (occ clear : Nat) : Prop := ∃ (t : State) (late : Nat) (b : Bool), exec (.mxqEntryStart c) s = .next t ∧ (vaults = [] → late = 0) ∧
      (t.core c).run = some { entry := e, endClock := s.clock + (occ + ex) + late, endSched := k.sched + (occ + ex)
                              late := if late = 0 then none else some (k.sched + (clear + ex), b) } ∧
      (t.core c).tileClear = k.tileClear ++ (if late = 0 then e.cmd.tiles.map (fun n => (n, k.sched + (clear + ex), e.iss)) else [])
    match e.cmd with
    | .mma _ _ _ _ | .tldReg _ _ | .tscale _ _ _ | .tadd _ _ _ => takes 16 20
    | .tldMem _ _ _ | .tstMem _ _ _ => if vaults = [] then takes 16 20 else takes 64 68
    | .tzero _ => takes 1 4) ∧
  (∀ (s : State) (c : Nat),
    let k := s.core c
    let ended (x : Nat × Nat × Nat) : Prop := ∃ r point b, k.run = some r ∧ r.late = some (point, b) ∧ r.endClock ≤ s.clock ∧
      x.1 ∈ r.entry.cmd.tiles ∧ x.2 = (max point (k.sched + 4), r.entry.iss)
    ∃ t, exec (.tileClearPoint c) s = .next t ∧
      (∀ n, n ∈ (t.core c).tileBusy ↔ n ∈ k.tileBusy ∧ ∀ x ∈ k.tileClear, x.1 = n → k.sched < x.2.1) ∧
      (∀ x, x ∈ (t.core c).tileClear ↔ (x ∈ k.tileClear ∧ k.sched < x.2.1) ∨ ended x) ∧
      (t.core c).late = k.late ++ (k.poisonClear.filter (fun x => x.1 ≤ k.sched)).map
        (fun x => { code := .poison, src := 0, opSlot := 4, word := x.2 }) ∧
      SameRegisters k (t.core c) ∧ SameMemory s t ∧ SameOthers c s t)

/-! L slot. -/

/-- 11 R212, R214, Table 11.1: LD, LDV and LDC complete where the offset lies inside the window and is aligned: LD and LDC four, LDV twelve cycles after
the issue cycle. The value holds the bytes little-endian, a scalar extended by zeros or by its sign; memory stays as it is.
03 R53: lane j of an allotted vector register is four bytes of near SRAM, little-endian; all of them lie above the scratchpad limit. -/
def Obligations.WindowLoadsComplete : Prop :=
  ∀ (s : State) (g : Guard) (st : Sticky) (sz : Size) (sx : Bool) (d : XReg) (a : SSrc) (disp : BitVec 10) (dst : Dest),
    s.on g = true →
    let n := sz.bytes
    let fits (off limit : Nat) : Prop := off + n ≤ limit ∧ off % sz.alignment = 0
    let holds (v : Vec) (byte : Nat → Byte) : Prop :=
      (∀ j, j < n → v.extractLsb' (8 * j) 8 = byte j) ∧
      (sz.scalar = true → sx = false → v.toNat < 2 ^ (8 * n)) ∧
      (sz.scalar = true → sx = true → (v.setWidth 64).toInt = (v.setWidth (8 * n)).toInt)
    let off := s.rawOff st a disp n
    let coff := s.rawOff noStep a disp n
    let w := s.ownVault s.ctx.core
    (s.dstX st d = .ok dst → fits off s.src.limit → ∃ v, holds v (fun j => s.src.near.byte (off + j)) ∧
      exec (.ld g st sz sx d a disp) s = .next (s.resultX 4 dst v (poisonBits s.src.nearPoison off n))) ∧
    (s.dstX st d = .ok dst → fits off (s.cur.vsize * 0x10000) → s.ctx.under = [] → s.hidden s.ctx.core w.1 = [] →
      ∃ v, holds v (fun j => (s.gal w.1).vault.byte (w.2 + off + j)) ∧
      exec (.ldv g st sz sx d a disp) s = .next (s.resultX 12 dst v (poisonBits (s.gal w.1).poison (w.2 + off) n))) ∧
    (s.dstX noStep d = .ok dst → fits coff 0x4000 → ∃ v, holds v (fun j => s.cur.const.byte (coff + j)) ∧
      exec (.ldc g sz sx d a disp) s = .next (s.resultX 4 dst v 0)) ∧
    (∀ (r : RegFile) (i j b : Nat), r.allot ≤ 16 → i < 64 * r.allot → j < 64 → b < 4 →
      let base := 0x40000 - 256 * (i + 1)
      r.limit = 0x40000 - 16384 * r.allot ∧ r.limit ≤ base ∧ base + 4 * j + b < 0x40000 ∧
      (lane (r.vreg i) j).extractLsb' (8 * b) 8 = r.near.byte (base + 4 * j + b))

/-- 11 R212, R214: ST and STV complete where the offset lies inside the window and is aligned. Exactly the bytes from the offset on take the data,
little-endian; every other byte of near SRAM and of every vault, every register and all other memory read as before.
11 R212: as many bytes are stored as the size names, little-endian, from a scalar register or from the low end of a vector register. -/
def Obligations.WindowStoresComplete : Prop :=
  (∀ (s : State) (g : Guard) (st : Sticky) (sz : Size) (x : XSrc) (a : SSrc) (disp : BitVec 10) (bs : List Byte),
    s.on g = true → s.dataX st sz x = .ok bs →
    let n := sz.bytes
    let off := s.rawOff st a disp n
    let w := s.ownVault s.ctx.core
    (off + n ≤ s.src.limit → off % sz.alignment = 0 → ∃ t, exec (.st g st sz x a disp) s = .next t ∧
      (∀ i, t.cur.rf.near.byte i = if off ≤ i ∧ i < off + n then bs.getD (i - off) 0 else s.cur.rf.near.byte i) ∧
      t.cur.rf.s = s.cur.rf.s ∧ t.cur.rf.p = s.cur.rf.p ∧ t.cur.inflight = s.cur.inflight ∧ t.cur.flags = s.cur.flags ∧
      SameMemory s t ∧ SameOthers s.ctx.core s t) ∧
    (off + n ≤ s.cur.vsize * 0x10000 → off % sz.alignment = 0 → ∃ t, exec (.stv g st sz x a disp) s = .next t ∧
      (∀ i, (t.gal w.1).vault.byte i = if w.2 + off ≤ i ∧ i < w.2 + off + n then bs.getD (i - (w.2 + off)) 0 else (s.gal w.1).vault.byte i) ∧
      (∀ h, h ≠ w.1 → t.gal h = s.gal h) ∧ t.hbm = s.hbm ∧ t.hostMem = s.hostMem ∧ t.cur.rf = s.cur.rf ∧ t.cur.inflight = s.cur.inflight ∧
      t.cur.flags = s.cur.flags ∧ SameOthers s.ctx.core s t)) ∧
  (∀ (s : State) (st : Sticky) (sz : Size) (a : SSrc) (v : VSrc) (x : Vec), s.rdV 0 st v = .ok x →
    (∃ bs, s.dataX st sz (.s a) = .ok bs ∧ bs.length = sz.bytes ∧
      ∀ j, j < sz.bytes → j < 8 → bs.getD j 0 = (s.rdS 0 a).extractLsb' (8 * j) 8) ∧
    (∃ bs, s.dataX st sz (.v v) = .ok bs ∧ bs.length = sz.bytes ∧ ∀ j, j < sz.bytes → bs.getD j 0 = x.extractLsb' (8 * j) 8))

/-- 11 R216, R217, R218, 06 R113, R121, R132: STG, ST.NB and SCAT complete, through every window that a store may name. Through a SCRATCH pointer of
the own seat, and a GALLERY pointer of the own gallery, the store performs at issue, and only its bytes (for ST.NB only its enabled bits) change.
Through a GLOBAL or PRIVATE pointer whose pages the core has translated to HBM, and a GALLERY pointer of another gallery of the team, the bytes
wait as pieces, one for each range of the pointer's bytes, at its home and with its part of the data, and memory is unchanged until they
perform. A store to host memory enters HXQ as one entry (ordinary and NT), or a combining buffer (WC).
11 R218: SCAT completes over its enabled lanes in ascending order. Where every lane's pointer names the own scratchpad, a byte that no lane addresses
keeps its value, and the word of the highest lane that addresses it stands; so in the vault of the own gallery. Elsewhere its lanes wait as
pieces in ascending order, or enter HXQ as one entry. -/
def Obligations.GenericStoresComplete : Prop :=
  (∀ (s : State) (g : Guard) (ty : Fmt) (sz : Size) (hk : HostKind) (x : XSrc) (v : VSrc) (vx : Vec) (a : SSrc) (i : SReg) (grp : BitVec 3) (q : PReg)
    (bs : List Byte), s.on g = true →
    let p := s.rdS 1 a + s.src.sreg i.toNat
    let w := Fmt.width ty
    (s.dataX noStep sz x = .ok bs →
      StoresTo s (exec (.stg g sz hk x a i) s) hk p (bs.map (fun b => (b, 0xFF))) sz.alignment) ∧
    (s.rdV 0 noStep v = .ok vx → ∃ ds : List (Byte × Byte), ds.length = 8 * w ∧
      (∀ j, j < 64 * w → (ds.getD (j / 8) 0).1.getLsbD (j % 8) = vx.getLsbD (64 * w * grp.toNat + j) ∧
        (ds.getD (j / 8) 0).2.getLsbD (j % 8) = (s.src.preg q.toNat).getLsbD (j / w)) ∧
      StoresTo s (exec (.stNb g ty v a i grp q) s) .ordinary p ds 4)) ∧
  (∀ (s : State) (g : Guard) (va vi : VSrc) (a : SSrc) (q : PReg) (x v : Vec) (off : Nat → Nat) (pl : Nat → Place)
    (l : Nat → List ((Nat × Nat × Nat) × Home)), s.on g = true → s.rdV 0 noStep va = .ok x → s.rdV 2 noStep vi = .ok v →
    let m := s.src.preg q.toNat
    let ptr (j : Nat) : Word := s.rdS 1 a + (lane v j).zeroExtend 64 * 4
    let data (j : Nat) : List (Byte × Byte) := (List.range 4).map (fun b => ((lane x j).extractLsb' (8 * b) 8, 0xFF))
    let pieces := ((List.range 64).filter (fun j => m.getLsbD j)).flatMap (fun j => s.piecesAt .ordinary (ptr j) (data j) (l j))
    let w := s.ownVault s.ctx.core
    let lanesStand (old new : Nat → Byte) (base : Nat) : Prop :=
      (∀ b, (∀ j, j < 64 → m.getLsbD j = true → b < base + off j ∨ base + off j + 4 ≤ b) → new b = old b) ∧
      (∀ j, j < 64 → m.getLsbD j = true → (∀ i, j < i → i < 64 → m.getLsbD i = true → off i ≠ off j) →
        (∀ i, i < 64 → m.getLsbD i = true → off i % 4 = 0) → ∀ b, b < 4 → new (base + off j + b) = (lane x j).extractLsb' (8 * b) 8)
    ((∀ j, j < 64 → m.getLsbD j = true → checkPtr s.cur s.src.limit lWindows (ptr j) 4 4 = .ok (.near (off j))) →
      ∃ t, exec (.scat g va a vi q) s = .next t ∧ lanesStand s.cur.rf.near.byte t.cur.rf.near.byte 0 ∧
        t.cur.rf.s = s.cur.rf.s ∧ t.cur.inflight = s.cur.inflight ∧ SameMemory s t ∧ SameOthers s.ctx.core s t) ∧
    ((∀ j, j < 64 → m.getLsbD j = true → checkPtr s.cur s.src.limit lWindows (ptr j) 4 4 = .ok (.vault s.cur.ownTeamGal (off j))) →
      ∃ t, exec (.scat g va a vi q) s = .next t ∧ lanesStand (s.gal w.1).vault.byte (t.gal w.1).vault.byte w.2 ∧
        (∀ h, h ≠ w.1 → t.gal h = s.gal h) ∧ t.hbm = s.hbm ∧ t.hostMem = s.hostMem ∧ t.cur.rf = s.cur.rf ∧ SameOthers s.ctx.core s t) ∧
    ((∀ j, j < 64 → m.getLsbD j = true → checkPtr s.cur s.src.limit lWindows (ptr j) 4 4 = .ok (pl j) ∧ s.LeadsTo (pl j) 4 (l j)) →
      ((∀ j, ∀ e ∈ l j, e.2.isHost = false) →
        ∃ t, exec (.scat g va a vi q) s = .next t ∧ t.cur.pend = s.cur.pend ++ pieces ∧ Waiting s t) ∧
      ((∀ j, ∀ e ∈ l j, e.2.isHost = true) → s.cur.wc = [] → pieces ≠ [] →
        ∃ t, exec (.scat g va a vi q) s = .next t ∧ t.cur.hxq = s.cur.hxq ++ [pieces] ∧ t.cur.pend = s.cur.pend ∧ Waiting s t)))

/-- 03 R58, 11 R215, R218, 21 R369, R371: LDG and GATH complete for every pointer, of every window of theirs, that lies within its limits and is aligned,
where the landing entry is free, the destination lies inside the allotment, and no page of a GLOBAL or PRIVATE one refuses the read: the entry
is armed with the destination and the due cycle T after the issue cycle. A core-port read (own scratchpad, own vault window) performs at issue,
so that the entry holds its bytes; any other read waits as pieces of the entry, one at least. No register changes before the due cycle.
11 R215, 15 R294, R295: FETCH completes where its landing entry is free, its pointer names the POD window within its limits, and the module map
holds its module: the entry waits for the response, and one request packet with the pointer's ADDR goes over the lateral network for the own
module, else by a ready port, or waits for one while ports in service are not ready. From a LOCK pair it waits in the release buffer (19 R354). -/
def Obligations.TimedLoadsComplete : Prop :=
  (∀ (s : State) (g : Guard) (sz : Size) (sx : Bool) (d : XReg) (dv : VReg) (a : SSrc) (x : SReg) (vi : VSrc) (t : BitVec 10) (e : BitVec 6)
    (dst : Dest) (k : Nat) (v : Vec) (pl : Place) (lanes : Nat → Place), s.on g = true → sget none s.cur.landing e.toNat = none →
    let p := s.rdS 1 a + s.src.sreg x.toNat
    let at_ (j : Nat) : Word := s.rdS 1 a + (lane v j).zeroExtend 64 * 4
    let open_ (q : Place) (n : Nat) : Prop := ∀ va, q = .va va → ∀ r ∈ s.cur.globalPieces va n false, ∀ c, r.2 ≠ .bad c
    let w := s.ownVault s.ctx.core
    let portByte (q : Place) (j : Nat) (b : Byte) : Prop := match q with
      | .near off => b = s.src.near.byte (off + j)
      | .vault m off => s.ctx.under = [] → s.hidden s.ctx.core w.1 = [] → m = s.cur.ownTeamGal → b = (s.gal w.1).vault.byte (w.2 + off + j)
      | _ => True
    let away (q : Place) : Prop := match q with
      | .near _ => False
      | .vault m _ => m ≠ s.cur.ownTeamGal
      | _ => True
    let armed (u : State) (dst : Dest) (P : Landing → Prop) : Prop :=
      (∃ l, sget none u.cur.landing e.toNat = some l ∧ l.due = s.ctx.cyc + t.toNat ∧ l.dest = dst ∧ l.iss = s.cur.issued ∧ l.arrived = false ∧ P l) ∧
        u.cur.rf = s.cur.rf ∧ u.cur.inflight = s.cur.inflight ∧ SameMemory s u ∧ SameOthers s.ctx.core s u
    let waits (u : State) (l : Landing) : Prop := ∃ ps, u.cur.pend = s.cur.pend ++ ps ∧ ps ≠ [] ∧
      ∀ q ∈ ps, q.write = false ∧ q.entry = e.toNat ∧ q.serial = l.serial ∧ q.iss = s.cur.issued
    (s.dstX noStep d = .ok dst → checkPtr s.cur s.src.limit lWindows p sz.bytes sz.alignment = .ok pl → open_ pl sz.bytes →
      ∃ u, exec (.ldg g sz sx d a x t e) s = .next u ∧
        armed u dst (fun l => l.req = .memory p sz.bytes ∧ l.form = ⟨sz, sx⟩ ∧ (away pl → waits u l) ∧
          (¬ away pl → u.cur.pend = s.cur.pend ∧ l.left = 0 ∧ ∀ j, j < sz.bytes → portByte pl j (l.data.extractLsb' (8 * j) 8)))) ∧
    (s.dstV noStep dv = .ok k → s.rdV 2 noStep vi = .ok v →
      (∀ j, j < 64 → checkPtr s.cur s.src.limit lWindows (at_ j) 4 4 = .ok (lanes j) ∧ open_ (lanes j) 4) →
      ∃ u, exec (.gath g dv a vi t e) s = .next u ∧
        armed u (.v k) (fun l => l.req = .gather ((List.range 64).map at_) ∧ ((∃ j, j < 64 ∧ away (lanes j)) → waits u l) ∧
          ((∀ j, j < 64 → ¬ away (lanes j)) → u.cur.pend = s.cur.pend ∧ l.left = 0) ∧
          ∀ j b, j < 64 → b < 4 → ¬ away (lanes j) → portByte (lanes j) b (l.data.extractLsb' (8 * (4 * j + b)) 8)))) ∧
  (∀ (s : State) (g : Guard) (sz : Size) (sx : Bool) (d : XReg) (a : SSrc) (x : SReg) (t : BitVec 10) (e : BitVec 6) (dst : Dest) (pl : Place) (n : Nat),
    s.on g = true → sget none s.cur.landing e.toNat = none → s.dstX noStep d = .ok dst →
    let p := s.rdS 1 a + s.src.sreg x.toNat
    let job := s.cur.job % 65536
    let m := field p 51 40
    let asks (q : Packet) : Prop := q.ty.toNat = 0x07 ∧ q.addr.toNat = field p 39 0 ∧ q.dmod.toNat = m ∧ q.len.toNat + 1 = sz.bytes ∧
      q.sseat = BitVec.ofNat 10 s.cur.seat ∧ q.gen = BitVec.ofNat 8 s.cur.gen ∧ q.sq = false
    checkPtr s.cur s.src.limit podOnly p sz.bytes sz.alignment = .ok pl → (s.mapEntry job m).getLsbD 0 = true →
    (s.cur.lock = true ∨ s.isOwnModule job m = true ∨ s.sendPort job m ≠ .unreachable) →
    ∃ u, exec (.fetch g sz sx d a x t e) s = .next u ∧
      (∃ l, sget none u.cur.landing e.toNat = some l ∧ l.due = s.ctx.cyc + t.toNat ∧ l.dest = dst ∧ l.req = .fetch p sz.bytes ∧ l.form = ⟨sz, sx⟩ ∧
        l.iss = s.cur.issued ∧ l.left = 1 ∧ l.arrived = false ∧ l.lost = false) ∧
      (s.cur.lock = true → ∃ q, u.queued = s.queued ++ [(s.ctx.core, s.cur.issued, q)] ∧ asks q ∧ u.lateral = s.lateral ∧ u.out = s.out) ∧
      (s.cur.lock = false → s.isOwnModule job m = true → ∃ f, u.lateral = s.lateral ++ [f] ∧ asks f.pkt ∧ f.own = true ∧ u.out = s.out ∧ u.queued = s.queued) ∧
      (s.cur.lock = false → s.isOwnModule job m = false → s.sendPort job m = .port n → ∃ q, u.out = s.out ++ [q] ∧ asks q ∧ q.port = n ∧ u.queued = s.queued) ∧
      (s.cur.lock = false → s.isOwnModule job m = false → s.sendPort job m = .notYet → ∃ q, u.queued = s.queued ++ [(s.ctx.core, s.cur.issued, q)] ∧ asks q ∧ u.out = s.out) ∧
      u.cur.rf = s.cur.rf ∧ u.cur.inflight = s.cur.inflight ∧ SameMemory s u ∧ SameOthers s.ctx.core s u)

/-! C slot. -/

/-- 11 R226, R227, 03 R60: FADD, FSET and FADDB on the own flags complete. FADD adds modulo 2³², FSET sets, FADDB adds only where the exact sum stays
within the bound and gives the old value; every other flag, register and byte of memory is as before. -/
def Obligations.FlagOperationsComplete : Prop :=
  ∀ (s : State) (g : Guard) (f : FReg) (v : FOperand) (d bound : SReg) (incM1 : BitVec 4), s.on g = true →
    let old (n : Nat) : W32 := flagOf s.cur.flags n
    let alone (t : State) : Prop := (∀ n, n ≠ f.toNat → flagOf t.cur.flags n = old n) ∧ t.cur.rf = s.cur.rf ∧ t.cur.pc = s.cur.pc ∧
      t.cur.cmq = s.cur.cmq ∧ SameMemory s t ∧ SameOthers s.ctx.core s t
    let b : W32 := (s.src.sreg bound.toNat).setWidth 32
    (∃ t, exec (.fadd g f v) s = .next t ∧ flagOf t.cur.flags f.toNat = old f.toNat + s.flagV v ∧ alone t ∧ t.cur.inflight = s.cur.inflight) ∧
    (∃ t, exec (.fset g f v) s = .next t ∧ flagOf t.cur.flags f.toNat = s.flagV v ∧ alone t ∧ t.cur.inflight = s.cur.inflight) ∧
    (∃ t, exec (.faddb g d f incM1 bound) s = .next t ∧
      flagOf t.cur.flags f.toNat = (if (old f.toNat).toNat + (incM1.toNat + 1) ≤ b.toNat then old f.toNat + BitVec.ofNat 32 (incM1.toNat + 1)
        else old f.toNat) ∧ alone t ∧
      t.cur.inflight = if d.toNat = 0 then s.cur.inflight else s.cur.inflight ++
        [{ due := s.ctx.cyc + 1, slot := s.ctx.slot, iss := s.cur.issued, dest := .s d.toNat, value := (old f.toNat).setWidth 2048 }])

/-- 11 R220, R226, R228: FADD and FSET at a POD flag pointer, and FSET.M, complete where the pointer names KIND 1 and a flag, and every seat chosen is one of
the team: one operation leaves, with one FSET packet for each seat chosen, in ascending order.
11 R227: FADDB at a POD flag pointer completes outside a region where its landing entry is free: the entry waits for the old value, due T cycles after the
issue, and one request with the bound and the increment enters CMQ.
11 R225: PUT and PUTF complete where the POD pointer passes its checks: one packet with the register's bytes, and for PUTF the flag, its increment and the
position, enters the queue of remote operations. The bits of AUX that hold the position are the model's choice (DESIGN CHOICE, log 18). -/
def Obligations.RemoteOperationsComplete : Prop :=
  (∀ (s : State) (g : Guard) (p : SReg) (v : FOperand) (f : FReg) (vm : FMOperand) (m : SSrc) (blk : BitVec 4), s.on g = true → s.cur.RoomFor 0 →
    let q := s.src.sreg p.toNat
    (windowOf q = some .pod → q.getLsbD 39 = true → field q 17 8 = 0 → field q 59 52 = 0 → field q 31 21 = 0 →
      (∃ t k, exec (.faddRemote g p v) s = .next t ∧ Sent s t [k] ∧ PacketTo s k 0x03 q [] ∧ k.flag.toNat = field q 7 0 ∧ k.val = s.flagV v ∧
        t.cur.inflight = s.cur.inflight) ∧
      (∃ t k, exec (.fsetRemote g p v) s = .next t ∧ Sent s t [k] ∧ PacketTo s k 0x04 q [] ∧ k.flag.toNat = field q 7 0 ∧ k.val = s.flagV v ∧
        t.cur.inflight = s.cur.inflight)) ∧
    (let mask := s.rdS 2 m
     let seats := ((List.range 64).filter (fun b => mask.getLsbD b)).map (fun b => 64 * blk.toNat + b)
     (∀ n ∈ seats, n < s.cur.nseats) →
      (mask = 0 → exec (.fsetM g f vm m blk) s = .next s) ∧
      (mask ≠ 0 → ∃ t ks, exec (.fsetM g f vm m blk) s = .next t ∧ Sent s t ks ∧ ks.length = seats.length ∧
        ∀ i (h : i < ks.length), ks[i].ty.toNat = 0x04 ∧ ks[i].flag = f ∧ ks[i].payload = [] ∧
          ks[i].addr.toNat = field (seatPtr s.cur.width (s.ownModule s.cur.job) (seats.getD i 0) f.toNat) 39 0))) ∧
  (∀ (s : State) (g : Guard) (d p : SReg) (incM1 : BitVec 4) (bound : SReg) (t : BitVec 10) (e : BitVec 6),
    let q := s.src.sreg p.toNat
    s.on g = true → s.cur.rgd = 0 → sget none s.cur.landing e.toNat = none → windowOf q = some .pod → q.getLsbD 39 = true → field q 17 8 = 0 →
    field q 59 52 = 0 → field q 31 21 = 0 →
    ∃ u k, exec (.faddbRemote g d p incM1 bound t e) s = .next u ∧ Sent s u [k] ∧ PacketTo s k 0x05 q [] ∧ k.flag.toNat = field q 7 0 ∧
      k.val = (s.src.sreg bound.toNat).setWidth 32 ∧ k.aux.toNat % 16 = incM1.toNat ∧
      ∃ l, sget none u.cur.landing e.toNat = some l ∧ l.due = s.ctx.cyc + t.toNat ∧ l.dest = .s d.toNat ∧ l.left = 1) ∧
  (∀ (s : State) (g : Guard) (st : Sticky) (sz : Size) (x : XSrc) (a : SSrc) (f : FReg) (incM1 : BitVec 5) (pos : BitVec 3) (bs : List Byte) (pl : Place),
    s.on g = true → s.cur.RoomFor sz.bytes →
    let base := if s.ctx.sticky then s.ctx.sa.getD 0 0 else s.rdS 1 a
    let q := base + BitVec.ofInt 64 (s.ctx.step * st.step.toInt * sz.bytes)
    let r := s.rdS 1 a
    (s.dataX st sz x = .ok bs → checkPtr s.cur s.src.limit podOnly q sz.bytes sz.alignment = .ok pl →
      ∃ t k, exec (.put g st sz x a) s = .next t ∧ Sent s t [k] ∧ PacketTo s k 0x01 q bs ∧ t.cur.inflight = s.cur.inflight) ∧
    (s.dataX noStep sz x = .ok bs → (r.getLsbD 39 = true → pos = 0) → checkPtr s.cur s.src.limit podOnly r sz.bytes sz.alignment = .ok pl →
      ∃ t k, exec (.putf g sz x a f incM1 pos) s = .next t ∧ Sent s t [k] ∧ PacketTo s k 0x02 r bs ∧ k.flag = f ∧
        k.val = BitVec.ofNat 32 (incM1.toNat + 1) ∧ k.aux.toNat = 64 * pos.toNat ∧ t.cur.inflight = s.cur.inflight))

/-- 11 R223, 13 R259 to R265: the producer's instructions complete on a usable entry. WFREE, once its wait is over, changes nothing. SEND sends its bytes into
the slot that COUNT names and adds their residue to the entry's own sum; PUBW publishes n slots: COUNT rises by n and the sum starts anew.
The bits of AUX that hold PCH are the model's choice (DESIGN CHOICE, log 18). -/
def Obligations.ProducerCompletes : Prop :=
  ∀ (s : State) (g : Guard) (ch : ChReg) (nM1 : BitVec 8) (sz : Size) (v : VSrc) (x : Vec) (off : BitVec 10),
    let e := s.chan ch
    let k := s.cur
    let n := nM1.toNat + 1
    s.on g = true →
    (e.usable k s.src.limit false n = true → exec (.wfree g ch nM1) s = .next s) ∧
    (s.rdV 1 noStep v = .ok x → e.usable k s.src.limit false 1 = true → 64 * off.toNat + sz.bytes ≤ e.slot → k.RoomFor sz.bytes →
      ∃ t q, exec (.send g sz ch v off) s = .next t ∧ Sent s t [q] ∧
        PacketTo s q 0x09 (e.slotPtr + BitVec.ofNat 64 (64 * off.toNat)) (vecBytes x sz.bytes) ∧ q.aux.toNat % 64 = e.pch ∧
        (e.cls = 0 → t.cur.rf.chans = k.rf.chans) ∧
        (e.cls ≠ 0 → (sget {} t.cur.rf.chans ch.toNat).ores.toNat =
          ((sget {} k.rf.chans ch.toNat).ores.toNat + wireResidue e.cls (64 * off.toNat) (vecBytes x sz.bytes)) % classMod e.cls) ∧
        (∀ c, c ≠ ch.toNat → sget {} t.cur.rf.chans c = sget {} k.rf.chans c)) ∧
    (e.usable k s.src.limit false n = true → (e.cls ≠ 0 → n = 1) → k.RoomFor 64 →
      ∃ t q, exec (.pubw g ch nM1) s = .next t ∧ Sent s t [q] ∧ q.ty.toNat = 0x0A ∧ q.flag.toNat = e.fflag ∧
        q.val = BitVec.ofNat 32 n ∧ q.payload.length = (if e.cls = 0 then 0 else 64) ∧
        (sget {} t.cur.rf.chans ch.toNat).count = e.count + BitVec.ofNat 32 n ∧ (sget {} t.cur.rf.chans ch.toNat).ores = 0 ∧
        (∀ c, c ≠ ch.toNat → sget {} t.cur.rf.chans c = sget {} k.rf.chans c))

/-- 11 R223, R229, 13 R267: the consumer's instructions complete on a usable entry. RECV gives the slot's address one cycle after the issue; with a vector it
also loads the slot's first 256 bytes. ADVR frees n slots with one FADD to the producer's flag and raises COUNT by n; the hop comparison of a slot of a
reduction class comes once the last RADD has formed its terms. CHSET writes the four words.
11 R224, 05 R103, R111: RADD completes on a usable entry of a reduction class, for a register, a latched and a held source; its results come twenty
cycles after the issue. A MASKED channel adds the 64 words of the chunk to the lanes modulo 2³². FAST adds the chunk's BF16 elements, exactly and
rounded once to FP32. EXACT adds the chunk's first 64 FP32 words so, and writes into the register after D the sum of va + 1, the chunk's other 64
words and the error term, with one rounding; an error term of zero adds nothing (DESIGN CHOICE, log 92). The va + 1 of a held use is a free value
(DESIGN CHOICE, log 71). -/
def Obligations.ConsumerCompletes : Prop :=
  (∀ (s : State) (g : Guard) (ch : ChReg) (nM1 : BitVec 8) (d a : SReg) (v : VReg) (kv : Nat) (bs : List Byte) (po : Word) (lat : Nat),
    let e := s.chan ch
    let k := s.cur
    let n := nM1.toNat + 1
    s.on g = true →
    (e.usable k s.src.limit true n = true →
      exec (.recv g ch d nM1 none) s = .next (s.resultS 1 d.toNat e.slotPtr) ∧
      (s.dstV noStep v = .ok kv → s.slotRead e.slotPtr 256 = .ok (bs, po, lat) →
        exec (.recv g ch d nM1 (some v)) s = .next ((s.resultS 1 d.toNat e.slotPtr).result lat (.v kv) (vecOfBytes bs) (BitVec.allOnes 2048) po)) ∧
      (k.RoomFor 0 → ∃ t q, exec (.advr g ch nM1) s = .next t ∧ Sent s t [q] ∧ q.ty.toNat = 0x03 ∧ q.flag.toNat = e.eflag ∧
        q.val = BitVec.ofNat 32 n ∧ (sget {} t.cur.rf.chans ch.toNat).count = e.count + BitVec.ofNat 32 n ∧
        (e.cls = 0 → t.cur.hops = k.hops) ∧ (e.cls ≠ 0 → ∃ h, t.cur.hops = k.hops ++ [h] ∧ h.ch = ch.toNat ∧
          h.due = max s.ctx.cyc (sget {} k.rf.chans ch.toNat).formed))) ∧
    (∃ t, exec (.chset g ch a) s = .next t ∧
      sget {} t.cur.rf.chans ch.toNat = { w0 := s.src.sreg a.toNat, w1 := s.src.sreg (a.toNat + 1), w2 := s.src.sreg (a.toNat + 2)
                                          w3 := s.src.sreg (a.toNat + 3) } ∧
      (∀ c, c ≠ ch.toNat → sget {} t.cur.rf.chans c = sget {} k.rf.chans c) ∧ t.cur.rf.s = k.rf.s ∧ t.cur.rf.near = k.rf.near ∧
      t.cur.inflight = k.inflight ∧ SameMemory s t ∧ SameOthers s.ctx.core s t)) ∧
  (∀ (s : State) (g : Guard) (ch : ChReg) (d : VReg) (a : VSrc) (off : BitVec 10) (kd kd1 : Nat) (x x1 : Vec) (bs : List Byte) (po : Word) (lat : Nat),
    let e := s.chan ch
    let num (c : W32) : FVal := decodeF .f32 c.toNat
    let b (j : Nat) : W32 := lane (vecOfBytes bs) j
    s.on g = true → s.dstV noStep d = .ok kd → s.rdV 1 noStep a = .ok x → e.usable s.cur s.src.limit true 1 = true → e.cls ≠ 0 →
    e.unit * (off.toNat + 1) ≤ e.slot → s.slotRead (e.slotPtr + BitVec.ofNat 64 (e.unit * off.toNat)) e.unit = .ok (bs, po, lat) →
    (e.cls = 2 → vphys s.src (d.toNat + 1) = .ok kd1 ∧ (match a with
      | .held => x1 = Config.freeVec s.fresh
      | .reg n | .latch n => ∃ j, vphys s.src (n.toNat + 1) = .ok j ∧ x1 = s.src.vreg j)) →
    ∃ t out err, exec (.radd g ch d a off) s = .next t ∧
      t.cur.inflight = s.cur.inflight ++
        ({ due := s.ctx.cyc + 20, slot := s.ctx.slot, iss := s.cur.issued, dest := .v kd, value := out } ::
          if e.cls = 2 then [{ due := s.ctx.cyc + 20, slot := s.ctx.slot, iss := s.cur.issued, dest := .v kd1, value := err }] else []) ∧
      (e.cls = 3 → bs.length = 256 → ∀ j, j < 64 → lane out j = lane x j + b j) ∧
      (e.cls = 1 → bs.length = 128 → ∀ j, j < 64 → lane out j =
        rne32 ((num (lane x j)).add (decodeF .bf16 ((vecOfBytes bs).extractLsb' (16 * j) 16).toNat))) ∧
      (e.cls = 2 → bs.length = 512 → ∀ j, j < 64 →
        let delta := ((num (lane x j)).finitePart.add (num (b j)).finitePart).sub (num (lane out j)).finitePart
        let sum := (num (lane x1 j)).add (num (lane (vecOfBytes (bs.drop 256)) j))
        lane out j = rne32 ((num (lane x j)).add (num (b j))) ∧ lane err j = rne32 (if delta.isZero then sum else sum.add delta)) ∧
      (∀ c, c ≠ ch.toNat → sget {} t.cur.rf.chans c = sget {} s.cur.rf.chans c) ∧
      (sget {} t.cur.rf.chans ch.toNat).w3 = (sget {} s.cur.rf.chans ch.toNat).w3 ∧
      (sget {} t.cur.rf.chans ch.toNat).formed = s.ctx.cyc + 20 ∧
      t.cur.rf.s = s.cur.rf.s ∧ t.cur.rf.near = s.cur.rf.near ∧ SameMemory s t ∧ SameOthers s.ctx.core s t)

/-! B slot. -/

/-- 08 R161, R162, 03 R52: BR, BRI, CALL, CALLI and RET complete where the target is a word of the image: the next bundle stands there after one
empty cycle, and CALL and RET push and pop the return stack. LOOP and LOOP.R go back without an empty cycle while LCNT, as the bundle reads
it, lasts, with the new count, the rotated predicates and RRB as results of the bundle; where it has run out they go on, with LCNT zero.
20 R365: a target that is no word of the image raises TARGET, for a loop taken or not (log 75).
DELAY asks for its empty cycles. -/
def Obligations.ControlTransfersComplete : Prop :=
  ∀ (s : State) (g : Guard) (off : BitVec 16) (a : SSrc) (epi : BitVec 2) (n : BitVec 16) (top : Nat) (rest : List Nat), s.on g = true →
    let k := s.cur
    let to_ : Int := s.ctx.pc + 4 * off.toInt
    let dst : Nat := (s.rdS 1 a).toNat
    let old := s.src.lcnt.toInt
    let legal (t : Int) : Prop := t % 4 = 0 ∧ 0 ≤ t ∧ t < k.textLen
    let jump (u : State) (t gap : Nat) : State := { u with ctx := { u.ctx with npc := some t, gap := gap } }
    let push (u : State) : State := u.modCur (fun k => { k with rstack := (s.ctx.pc + s.ctx.len) % 65536 :: k.rstack })
    let lcnt (v : Int) : State := s.result 1 (.special 0x014) ((BitVec.ofInt 32 v).setWidth 2048)
    let entry (d : Dest) (v m : Vec) : Pend := { due := s.ctx.cyc + 1, slot := s.ctx.slot, iss := k.issued, dest := d, value := v, mask := m }
    let pred (n : Nat) (v : Word) : Pend := entry (.p n) (v.setWidth 2048) ((BitVec.allOnes 64).setWidth 2048)
    (legal to_ → exec (.br g off) s = .next (jump s to_.toNat 1)) ∧
    (legal dst → exec (.bri g a) s = .next (jump s dst 1)) ∧
    (legal to_ → k.rstack.length < 8 → exec (.call g off) s = .next (jump (push s) to_.toNat 1)) ∧
    (legal dst → k.rstack.length < 8 → exec (.calli g a) s = .next (jump (push s) dst 1)) ∧
    (k.rstack = top :: rest → exec (.ret g) s = .next (jump (s.modCur (fun k => { k with rstack := rest })) top 1)) ∧
    (0 < old → legal to_ → exec (.loop g off) s = .next (jump (lcnt (old - 1)) to_.toNat 0)) ∧
    (old ≤ 0 → legal to_ → exec (.loop g off) s = .next (lcnt 0)) ∧
    (-(epi.toNat : Int) < old → legal to_ → ∃ t, exec (.loopR g off epi) s = .next t ∧ t.ctx.npc = some to_.toNat ∧ t.ctx.gap = 0 ∧
      t.cur.inflight = k.inflight ++
        ([entry (.special 0x014) ((BitVec.ofInt 32 (old - 1)).setWidth 2048) (BitVec.allOnes 2048), pred 4 (s.src.preg 3), pred 3 (s.src.preg 2),
          pred 2 (s.src.preg 1), pred 1 (if 0 < old then BitVec.allOnes 64 else 0)] ++
         if s.src.rsize = 0 then []
         else [entry (.special loopRrb) (BitVec.ofNat 2048 ((s.src.rrb + s.src.rsize - 1) % s.src.rsize)) (BitVec.allOnes 2048)]) ∧
      SameRegisters k t.cur ∧ SameMemory s t ∧ SameOthers s.ctx.core s t) ∧
    (old ≤ -(epi.toNat : Int) → legal to_ → exec (.loopR g off epi) s = .next (lcnt 0)) ∧
    (¬ legal to_ → ∀ i ∈ [Instr.br g off, .call g off, .loop g off, .loopR g off epi], ∃ v, exec i s = .next (s.raiseEvent i (.target, v))) ∧
    exec (.delay g n) s = .next { s with ctx := { s.ctx with gap := n.toNat } }

/-- 08 R163, R165, R171, 06 R126 to R131, 02 R37: a bundle with WAIT, WAITANY, FENCE, DRAIN or QFENCE is held, with nothing of it issued, while its
condition does not hold; when it issues, these instructions change nothing. YIELD changes nothing either, or asks for the save that is due and
posts the combining buffers, oldest first, as far as HXQ has room; the rest follow as entries leave (log 70).
The other holds of an L-, M-, A-, C- or B-slot operation, each the same way: 11 R223: WFREE while fewer slots than it asks for are free, RECV
while fewer are published, the counters modulo 2³². 02 R32, 06 R132: TEND while a queue holds an entry or a child with a completion flag has not
ended; TEND, FENCE.SYSTEM, FENCE.HXQ and QFENCE with HXQ empty the combining buffers while they wait. 02 R33: LAUNCH while the pool is full, its
core then waiting for an entry. 06 R121: an operation that enters CMQ while it holds 64 entries, and a store to host memory while HXQ
holds 32. 03 R54: SRWR of ALLOT while a result for a vector register is on its way; 22 R390: RGN.BEGIN while one for a register of its frame is.
10 R200: an M-slot operation that names a busy tile. -/
def Obligations.WaitsAndFencesComplete : Prop :=
  (∀ (s : State) (g : Guard) (fc : FCond) (f : FReg) (nM1 : BitVec 3) (v : FOperand) (sc : Scope) (q : Queue) (qs : BitVec 4),
    let at7 : State := s.enterSlot { slot := 7, ins := .emptyBundle } []
    let e : State := s.modCur Core.flushWc
    let held (i : Instr) : Prop := s.attempt [{ slot := 7, ins := i }] = .idle { s with ctx := {} }
    let flushes (i : Instr) : Prop := s.attempt [{ slot := 7, ins := i }] = .idle { e with ctx := {} }
    exec (.wait g fc f v) s = .next s ∧ exec (.waitany g fc f nM1 v) s = .next s ∧ exec (.fence g sc) s = .next s ∧
    exec (.fenceQueue g q) s = .next s ∧ exec (.drain g sc) s = .next s ∧ exec (.qfence g qs) s = .next s ∧
    (s.saveWanted s.ctx.core = false → exec (.yield g) s = .next s) ∧
    (let n := min (32 - s.cur.hxq.length) s.cur.wc.length
     s.on g = true → s.saveWanted s.ctx.core = true → exec (.yield g) s = .next (s.modCur (fun k =>
      { k with saveAsked := true, hxq := k.hxq ++ k.wc.take n, wc := k.wc.drop n, wcDue := k.wc.length - n }))) ∧
    (s.on g = true → s.cur.weak = [] →
      (flagHolds fc (flagOf s.cur.flags f.toNat) (at7.waitV v) = false → held (.wait g fc f v)) ∧
      ((∀ j, j ≤ nM1.toNat → flagHolds fc (flagOf s.cur.flags (f.toNat + j)) (at7.waitV v) = false) → held (.waitany g fc f nM1 v)) ∧
      (sc ≠ .system → s.fenceWaits s.ctx.core sc = true → held (.fence g sc)) ∧
      (e.fenceWaits s.ctx.core .system = true → flushes (.fence g .system)) ∧
      (q ≠ .hxq → s.queueDone s.ctx.core q = false → held (.fenceQueue g q)) ∧
      (e.queueDone s.ctx.core .hxq = false → flushes (.fenceQueue g .hxq)) ∧
      (s.drainWaits s.ctx.core sc = true → held (.drain g sc)) ∧
      (∀ b, (b, q) ∈ [(0, Queue.mxq), (1, .cpq), (2, .cmq), (3, .hxq)] → qs.getLsbD b = true →
        (qs.getLsbD 3 = false → s.queueDone s.ctx.core q = false → held (.qfence g qs)) ∧
        (qs.getLsbD 3 = true → e.queueDone s.ctx.core q = false → flushes (.qfence g qs))) ∧
      ((e.cur.mxq ≠ [] ∨ e.cur.seq.cpq ≠ [] ∨ e.cur.seq.mode ≠ .idle ∨ e.cur.cmq ≠ [] ∨ e.cur.hxq ≠ [] ∨ e.cur.wc ≠ [] ∨ e.cur.children ≠ []) →
        flushes (.tend g)))) ∧
  (∀ (s : State) (g : Guard) (st : Sticky) (ty : Fmt) (sz : Size) (hk : HostKind) (ch : ChReg) (nM1 : BitVec 8) (d p r x : SReg) (vd : Option VReg)
    (v : VSrc) (w : VReg) (a b : SSrc) (y : XSrc) (off n : BitVec 10) (incM1 : BitVec 4) (incP : BitVec 5) (pos : BitVec 3) (f : FReg) (fo : FOperand)
    (fm : FMOperand) (e6 : BitVec 6) (fr : Option FReg) (limit : BitVec 4) (t t1 : TReg) (o1 o2 : MOperand) (src : TSource) (c : Bool) (va : Nat),
    s.on g = true → s.cur.weak = [] →
    let k := s.cur
    let held (slot : Nat) (i : Instr) : Prop := s.attempt [{ slot := slot, ins := i }] = .idle { s with ctx := {} }
    let at_ (slot : Nat) : State := s.enterSlot { slot := slot, ins := .emptyBundle } []
    let u := s.chan ch
    let m := nM1.toNat + 1
    let ptr := (at_ 5).rdS 1 a + s.src.sreg x.toNat
    (u.usable k s.src.limit false m = true → (BitVec.ofNat 32 u.depth - (u.count - flagOf k.flags u.eflag)).toNat < m → held 6 (.wfree g ch nM1)) ∧
    (u.usable k s.src.limit true m = true → (flagOf k.flags u.fflag - u.count).toNat < m → held 6 (.recv g ch d nM1 vd)) ∧
    (s.poolFree = 0 → (∀ b, (s.ctx.core, b) ∉ s.launches) → s.attempt [{ slot := 7, ins := .launch g a fr }] =
      .idle { s with launches := s.launches ++ [(s.ctx.core, 0)], ctx := {} }) ∧
    (s.poolFree = 0 → (s.ctx.core, 0) ∈ s.launches → (s.ctx.core, 1) ∉ s.launches → held 7 (.launch g a fr)) ∧
    (k.rgd = 0 → 64 ≤ k.cmq.length →
      (∀ i ∈ [Instr.send g sz ch v off, .pubw g ch nM1, .advr g ch nM1, .put g st sz y a, .putf g sz y a f incP pos, .faddRemote g p fo,
        .fsetRemote g p fo, .faddbRemote g d p incM1 r n e6], held 6 i) ∧
      ((at_ 6).rdS 2 b ≠ 0 → held 6 (.fsetM g f fm b limit))) ∧
    (32 ≤ k.hxq.length → hk ≠ .writeCombining → checkPtr k s.src.limit lWindows ptr sz.bytes sz.alignment = .ok (.va va) →
      (∀ e ∈ k.globalPieces va sz.bytes true, ∃ ba key h, e.2 = .hit (.host ba key h)) → held 5 (.stg g sz hk y a x)) ∧
    ((∃ q ∈ k.inflight, ∃ j, q.dest = .v j) → held 0 (.srwr g 0x010 a)) ∧
    ((∃ q ∈ k.inflight, ∃ j, q.dest = .s j ∨ q.dest = .p j ∨ q.dest = .special j) → held 7 (.rgnBegin g limit)) ∧
    (t.toNat ∈ k.tileBusy → ∀ i ∈ [Instr.mma g st t o1 o2, .mmaz g st t o1 o2, .tld g st t src, .tstMemory g st p t, .tstRegister g st w t, .tzero g t,
      .tscale g c t w, .tadd g ty t t1, .tadd g ty t1 t], held 4 i))

/-- 08 R166, R167, 22 R390 to R392: RGN.BEGIN completes below level 4, with the registers of the region frame, a retry count of zero and the next
bundle's address saved in it; RGN.KEEP completes for one to 65,536 bytes within the level's reserve, below 64 records, at a pointer of any window
of an L-slot load whose bytes lie within the limits and whose pages refuse no read: the copy begins, and combining buffers are posted ahead
of it, as far as HXQ has room (log 70). RGN.END completes at every level: the outermost releases the held operations into CMQ, in order, as of its own bundle, an inner
one hands them to the level around it; the level's frame goes with its undo record.
22 R392: inside a region an operation enters the hold buffer with 32 bytes and its payload, or raises REGION where that would pass 32 KiB, whatever
its pointer is (20 R360); a seal request in a region raises REGION. -/
def Obligations.RegionsComplete : Prop :=
  ∀ (s : State) (g : Guard) (limit : BitVec 4) (a b : SSrc) (f : Frame) (fs : List Frame) (pl : Place), s.on g = true →
    let k := s.cur
    let p := s.rdS 1 a
    let n := (s.rdS 2 b).toNat
    (k.rgd < 4 → ∃ t x, exec (.rgnBegin g limit) s = .next t ∧ t.cur.rgd = k.rgd + 1 ∧ t.cur.frames = x :: k.frames ∧
      x.s = s.src.s ∧ x.p = s.src.p ∧ x.lcnt = s.src.lcnt ∧ x.dom = k.dom ∧ x.allot = s.src.allot ∧ x.rbase = s.src.rbase ∧ x.rsize = s.src.rsize ∧
      x.rrb = s.src.rrb ∧ x.phase = k.phase ∧ x.rstack = k.rstack ∧ x.chans = s.src.chans ∧ x.srg = s.ctx.srg ∧ x.dq = s.ctx.dq ∧
      x.restart = s.ctx.pc + s.ctx.len ∧ x.limit = limit.toNat ∧ x.retry = 0 ∧ x.keeps = [] ∧ t.cur.hold = k.hold ∧ Unmoved s t) ∧
    (k.frames = f :: fs → 0 < n → n ≤ 65536 → f.kept + n ≤ k.regions.getD (k.rgd - 1) 0 → f.keeps.length < 64 →
      checkPtr k s.src.limit lWindows p n 1 = .ok pl → (∀ va, pl = .va va → ∀ e ∈ k.globalPieces va n false, ∀ c, e.2 ≠ .bad c) →
      ∃ t, exec (.rgnKeep g a b) s = .next t ∧ t.cur.keep = some (p, n) ∧ t.cur.keepReady = s.clock ∧ t.cur.keepGot = [] ∧
        t.cur.keepWord = s.ctx.word ∧ t.cur.frames = k.frames ∧ t.cur.rgd = k.rgd ∧
        (let j := min (32 - k.hxq.length) k.wc.length
         t.cur.hxq = k.hxq ++ k.wc.take j ∧ t.cur.wc = k.wc.drop j ∧ t.cur.wcDue = k.wc.length - j) ∧ Unmoved s t) ∧
    (k.rgd = 1 → ∃ t, exec (.rgnEnd g) s = .next t ∧ t.cur.rgd = 0 ∧ t.cur.frames = k.frames.drop 1 ∧ t.cur.hold = [] ∧
      t.cur.cmq = k.cmq ++ k.hold.map (fun h => { h.2 with iss := k.issued }) ∧ Unmoved s t) ∧
    (1 < k.rgd → ∃ t, exec (.rgnEnd g) s = .next t ∧ t.cur.rgd = k.rgd - 1 ∧ t.cur.frames = k.frames.drop 1 ∧ t.cur.cmq = k.cmq ∧
      t.cur.hold = k.hold.map (fun h => if h.1 = k.rgd then (k.rgd - 1, h.2) else h) ∧ Unmoved s t) ∧
    (∀ pkts : List Packet, k.rgd ≠ 0 →
      let r : Remote := { pkts := pkts, iss := k.issued, word := s.ctx.word, pc := s.ctx.pc }
      let bytes := 32 + (pkts.map (fun x => x.payload.length)).sum
      let used := (k.hold.map (fun h => 32 + (h.2.pkts.map (fun x => x.payload.length)).sum)).sum
      (used + bytes ≤ 32768 → s.remote pkts = .ok (s.modCur (fun k => { k with hold := k.hold ++ [(k.rgd, r)] }))) ∧
      (32768 < used + bytes → s.remote pkts = .error (.region, BitVec.ofNat 64 bytes))) ∧
    (∀ (st : Sticky) (sz : Size) (x : XSrc) (bs : List Byte), k.rgd ≠ 0 → s.dataX st sz x = .ok bs → 32768 < k.held + 32 + sz.bytes →
      exec (.put g st sz x a) s = .next (s.raiseEvent (.put g st sz x a) (.region, BitVec.ofNat 64 (32 + sz.bytes)))) ∧
    (k.rgd ≠ 0 → ∀ i ∈ [Instr.sealOpen g a, .sealAdd g a, .sealClose g a],
      ∃ v, exec i s = .next (s.raiseEvent i (.region, v)))

/-- 08 R168 to R170, 02 R32 to R35: outside a region LAUNCH completes where the chain is shorter than 8 and the descriptor's address can be read: one
task more, PENDING, a level deeper, with its creator and completion flag; TRIGGER counts once; TEND ends the seat, whose core is released at
the end of the bundle. 18 R333: a descriptor that cannot be used is an event at its LAUNCH; that it is judged with the seat's earlier writes done
is the model's reading (DEDUCED, log 30). -/
def Obligations.LaunchAndEndComplete : Prop :=
  (∀ (s : State) (g : Guard) (a : SSrc) (f : Option FReg) (va : Nat), s.on g = true → s.cur.rgd = 0 →
    let k := s.cur
    let p := s.rdS 1 a
    let depth := ((s.task k.task).map (·.depth)).getD k.depth
    (depth < 8 → checkPtr k s.src.limit launchWindows p 256 256 = .ok (.va va) → firstBad (k.globalPieces va 256 false) = none →
      s.launchFault s.ctx.core va = none →
      ∃ t x, exec (.launch g a f) s = .next t ∧ t.tasks = s.tasks ++ [x] ∧ x.id = s.serial ∧ x.state = .pending ∧ x.job = k.job ∧
        x.world = k.world ∧ x.depth = depth + 1 ∧ x.desc = BitVec.ofNat 64 va ∧
        x.creator = .launch s.ctx.core k.task k.seat (f.map (·.toNat)) ∧ t.serial = s.serial + 1 ∧
        t.cur.children = k.children ++ (f.map (fun n => (s.serial, n.toNat))).toList ∧ Unmoved s t) ∧
    (∀ code v u, depth < 8 → checkPtr k s.src.limit launchWindows p 256 256 = .ok (.va va) → firstBad (k.globalPieces va 256 false) = none →
      s.launchFault s.ctx.core va = some (code, v, u) → code ≠ .hbmue →
      exec (.launch g a f) s = .next (s.raiseEvent (.launch g a f) (code, p))) ∧
    (∃ t, exec (.trigger g) s = .next t ∧ t.cur.triggered = true ∧ (k.triggered = true → t = s) ∧
      (k.triggered = false → t.cur.trigAt = some k.issued) ∧ Unmoved s t) ∧
    (∃ t, exec (.tend g) s = .next t ∧ t.cur.ended = true ∧ t.cur.pc = k.pc ∧ Unmoved s t)) ∧
  (∀ s : State, s.ctx.split = none → s.cur.ended = true → (s.endBundle.core s.ctx.core).placed = false)

/-- 08 R172, 14 R286, 18 R326, R327: TRAP completes by posting its message in the issue stream's slot of the mailbox, with the code, PC, NPC and the
value of its source, and the seat waits; SEAL.OPEN, SEAL.ADD and SEAL.CLOSE do so with codes 0xC0 to 0xC2 outside a region. BKPT does nothing
without a debug level, leaves a trace at level 1 and halts the seat at level 2. -/
def Obligations.TrapsComplete : Prop :=
  ∀ (s : State) (g : Guard) (code : BitVec 8) (a : SSrc) (id : BitVec 8), s.on g = true →
    let k := s.cur
    let traps (i : Instr) (x : BitVec 8) : Prop := ∃ t m, exec i s = .next t ∧ Posted s.ctx.core s t m ∧ m.code = .trap x ∧ m.src = 0 ∧ m.opSlot = 7 ∧
      m.pc = s.ctx.pc ∧ m.npc = s.ctx.pc + s.ctx.len ∧ m.value = s.rdS 1 a ∧ m.word = s.ctx.word ∧
      t.cur.stop = some .trap ∧ t.cur.pc = k.pc ∧ t.cur.flags = k.flags ∧ Unmoved s t
    traps (.trap g code a) code ∧
    (k.rgd = 0 → traps (.sealOpen g a) 0xC0 ∧ traps (.sealAdd g a) 0xC1 ∧ traps (.sealClose g a) 0xC2) ∧
    (k.debug = 0 → exec (.bkpt g id) s = .next s) ∧
    (k.debug = 1 → exec (.bkpt g id) s = .next { s with traces := s.traces ++ [(k.identity, id.toNat, s.ctx.pc, k.cyc)] }) ∧
    (2 ≤ k.debug → exec (.bkpt g id) s = .next (s.modCur (fun k => { k with debugHalt := true })))

/-! The copy sequencer. -/

/-- 11 R222, R230, R233, R234, R236, 03 R62: SEQ.GO, the start of a program, CP.LOOP, CP.ADD, CP.FLAG, CP.WAIT, CP.END and an undefined word complete.
One request with eight captured registers enters CPQ; an idle sequencer takes the oldest; CP.LOOP counts and goes back BACK words; a flag is
counted once every write of the program has performed, or sent; CP.END raises the completion flag by one and leaves the sequencer idle. That MPC
goes from 0xFFFC to 0 is the model's choice (DESIGN CHOICE, log 105). -/
def Obligations.SequencerControlCompletes : Prop :=
  (∀ (s : State) (g : Guard) (addr : BitVec 16) (f : FReg) (n : SReg), s.on g = true → addr.toNat % 4 = 0 → addr.toNat < s.cur.textLen →
    s.cur.seq.cpq.length < 8 → ∃ t, exec (.seqGo g addr f n) s = .next t ∧
      t.cur.seq = { s.cur.seq with cpq := s.cur.seq.cpq ++
        [{ addr := addr.toNat, flag := f.toNat, c := (List.range 8).map (fun i => s.src.sreg (n.toNat + i)), iss := s.cur.issued }] } ∧
      t.cur.flags = s.cur.flags ∧ Unmoved s t) ∧
  (∀ (s : State) (c : Nat) (r : SeqReq) (rest : List SeqReq),
    let q := (s.core c).seq
    q.cpq = r :: rest → q.mode = .idle → s.seqFree c = true → (s.core c).holdsBack s.clock r.iss = false → ∃ t, exec (.seqProgramStart c) s = .next t ∧
      (t.core c).seq = { q with cpq := rest, mpc := r.addr, c := r.c, lc := [0, 0, 0, 0], prog := 0, cflag := r.flag, mode := .running
                                start := r.addr, iss := r.iss } ∧ StillAt c s t) ∧
  (∀ (s : State) (lvl : BitVec 2) (back : BitVec 10) (n : BitVec 16) (ca : BitVec 3) (imm : BitVec 25) (val : BitVec 16) (f : FReg) (port : Nat),
    let c := s.ctx.core
    let q := s.cur.seq
    let after (x : Seq) : Seq := { x with prog := 0, mpc := (q.mpc + 4) % 65536, mode := .running, ready := s.clock + 1 }
    let goes (i : Instr) (x : Seq) : Prop := ∃ t, exec i s = .next t ∧ t.cur.seq = x ∧ t.cur.flagBuf = s.cur.flagBuf ∧ Unmoved s t
    let adds (i : Instr) (x : Seq) (o : Nat × FlagOp) : Prop := ∃ t, exec i s = .next t ∧ t.cur.seq = x ∧
      t.cur.flagBuf = s.cur.flagBuf ++ [o] ∧ Unmoved s t
    let v := (q.lc.getD lvl.toNat 0 + 1) % 65536
    (n ≠ 0 → back ≠ 0 → q.start + 4 * back.toNat ≤ q.mpc →
      (v < n.toNat → goes (.cpLoop lvl back n) { q with lc := q.lc.set lvl.toNat v, mpc := q.mpc - 4 * back.toNat, ready := s.clock + 1 }) ∧
      (n.toNat ≤ v → goes (.cpLoop lvl back n) (after { q with lc := q.lc.set lvl.toNat 0 }))) ∧
    goes (.cpAdd ca imm) (after { q with c := q.c.set ca.toNat (q.c.getD ca.toNat 0 + imm.signExtend 64) }) ∧
    ((flagOf s.cur.flags f.toNat - val.setWidth 32).toNat < 2 ^ 31 → goes (.cpWait val f) (after q)) ∧
    (2 ^ 31 ≤ (flagOf s.cur.flags f.toNat - val.setWidth 32).toNat → goes (.cpWait val f) { q with mode := .waiting }) ∧
    (s.flights c true = [] →
      adds (.cpFlag 0 true val f) (after q) (f.toNat, .add (val.setWidth 32)) ∧
      adds .cpEnd { q with mode := .idle, prog := 0, ready := s.clock + 1 } (q.cflag, .add 1)) ∧
    (s.flights c true ≠ [] → exec (.cpFlag 0 true val f) s = .next s ∧ exec .cpEnd s = .next s) ∧
    (let p := q.c.getD ca.toNat 0
     let m := field p 51 40
     let job := s.cur.job % 65536
     let sends (x : Packet) : Prop := x.ty.toNat = 0x03 ∧ x.addr.toNat = field p 39 0 ∧ x.dmod.toNat = m ∧ x.flag = f ∧ x.val = val.setWidth 32 ∧
       x.sq = true ∧ x.payload = []
     p.getLsbD 39 = true → checkPtr s.cur s.cur.rf.limit podOnly p 1 1 = .ok (.pod true (field p 38 32) (field p 21 0) m) →
     (s.mapEntry job m).getLsbD 0 = true →
      (s.isOwnModule job m = true → ∃ t x, exec (.cpFlag ca false val f) s = .next t ∧ t.cur.seq = after q ∧ t.lateral = s.lateral ++ [x] ∧
        sends x.pkt ∧ t.out = s.out ∧ Unmoved s t) ∧
      (s.isOwnModule job m = false → s.sendPort job m = .port port → ∃ t x, exec (.cpFlag ca false val f) s = .next t ∧ t.cur.seq = after q ∧
        t.out = s.out ++ [x] ∧ sends x ∧ x.port = port ∧ Unmoved s t)) ∧
    (∃ t m, exec .cpUndefopc s = .next t ∧ t.cur.seq = { q with halted := true } ∧ Posted c s t m ∧ m.code = .undefopc ∧ m.src = 1 ∧
      m.mpc = q.mpc ∧ Unmoved s t))

/-- 11 R231, R232, R235: the copies of the sequencer complete by units of 256 bytes. A unit of CP.MOVE between two places of the own scratchpad takes
the bytes at the second register to the first; with any other windows, and for CP.STR, the runs of the unit are read and written; CP.PUT
sends them. PROG counts the units, and after the last MPC goes on. The runs of a unit are the bytes of the rows that lie in it. CP.CHK halts
on a residue that is not the one stored behind the chunk, with the chunk header's words where its class is the one checked (21 R384), and goes
on otherwise. That PROG counts without a bound, where a CP.STR or CP.PUT has more than 65,535 units, is the model's choice (DESIGN CHOICE,
log 93), and so is that MPC goes from 0xFFFC to 0 (log 105). -/
def Obligations.SequencerCopiesComplete : Prop :=
  (∀ (s : State) (ca cb : BitVec 3) (inc : Bool) (len : BitVec 16) (a b : Nat),
    let k := s.cur
    let q := k.seq
    let src := q.c.getD cb.toNat 0 + BitVec.ofNat 64 (256 * q.prog)
    let dst := q.c.getD ca.toNat 0 + BitVec.ofNat 64 (256 * q.prog)
    let whole : Word := BitVec.ofNat 64 (256 * (len.toNat + 1))
    checkPtr k k.rf.limit lWindows src 256 1 = .ok (.near a) → checkPtr k k.rf.limit lWindows dst 256 1 = .ok (.near b) →
    k.rf.nearPoison = [] → k.rf.soft = [] →
    ∃ t, exec (.cpMove ca cb inc len) s = .next t ∧
      (∀ i, t.cur.rf.near.byte i = if b ≤ i ∧ i < b + 256 then k.rf.near.byte (a + (i - b)) else k.rf.near.byte i) ∧
      (q.prog < len.toNat → t.cur.seq.prog = q.prog + 1 ∧ t.cur.seq.mpc = q.mpc ∧ t.cur.seq.c = q.c) ∧
      (len.toNat ≤ q.prog → t.cur.seq.prog = 0 ∧ t.cur.seq.mpc = (q.mpc + 4) % 65536 ∧ (inc = false → t.cur.seq.c = q.c) ∧
        (inc = true → ca ≠ cb →
          t.cur.seq.c = (q.c.set ca.toNat (q.c.getD ca.toNat 0 + whole)).set cb.toNat (q.c.getD cb.toNat 0 + whole)) ∧
        (inc = true → ca = cb → q.c.length = 8 → t.cur.seq.c = q.c.set ca.toNat (q.c.getD ca.toNat 0 + whole + whole))) ∧
      t.cur.rf.s = k.rf.s ∧ t.cur.inflight = k.inflight ∧ SameMemory s t ∧ SameOthers s.ctx.core s t) ∧
  (∀ (s u v w : State) (ca cb pitch : BitVec 3) (inc : Bool) (len : BitVec 16) (rows : BitVec 10) (rowlen : BitVec 9) (bs : List PByte),
    let c := s.ctx.core
    let q := s.cur.seq
    let off : Word := BitVec.ofNat 64 (256 * q.prog)
    let nr := rows.toNat + 1
    let rb := (rowlen.toNat + 1) * 64
    let ps := pitches (q.c.getD pitch.toNat 0)
    let src := unitRows (q.c.getD cb.toNat 0) ps.2 nr rb q.prog
    let dst := unitRows (q.c.getD ca.toNat 0) ps.1 nr rb q.prog
    let moved (i : Instr) (x : State) (total : Nat) : Prop := ∃ t, exec i s = .next t ∧ SameMemory x t ∧ (∀ d, (t.core d).rf = (x.core d).rf) ∧
      t.lateral = x.lateral ∧ t.out = x.out ∧
      ((x.core c).seq.prog + 1 < total → (t.core c).seq.prog = (x.core c).seq.prog + 1 ∧ (t.core c).seq.mpc = (x.core c).seq.mpc) ∧
      (total ≤ (x.core c).seq.prog + 1 → (t.core c).seq.prog = 0 ∧ (t.core c).seq.mpc = ((x.core c).seq.mpc + 4) % 65536)
    (s.readSegs c [⟨q.c.getD cb.toNat 0 + off, 256, 0⟩] = .ok (u, bs) → u.writeSegs c [⟨q.c.getD ca.toNat 0 + off, 256, 0⟩] bs = .ok v →
      moved (.cpMove ca cb inc len) v (len.toNat + 1)) ∧
    (s.readSegs c src = .ok (u, bs) →
      (u.writeSegs c dst bs = .ok v → moved (.cpStr ca cb pitch rows rowlen) v ((nr * rb + 255) / 256)) ∧
      (u.podSegs c dst = .ok () → (∀ x ∈ bs, x.2 = false) →
        u.seqSend c (dst.map (fun g => u.packet c true 0x01 g.ptr (((bs.drop g.pos).take g.n).map (·.1)))) = some w →
        moved (.cpPut ca cb pitch rows rowlen) w ((nr * rb + 255) / 256)))) ∧
  (∀ (base : Word) (pitch : Int) (nr rb u i : Nat), 0 < rb → 256 * u ≤ i → i < min (256 * u + 256) (nr * rb) →
    ∃ g ∈ unitRows base pitch nr rb u, g.pos ≤ i - 256 * u ∧ i - 256 * u < g.pos + g.n ∧
      g.ptr + BitVec.ofNat 64 (i - 256 * u - g.pos) = base + BitVec.ofInt 64 ((i / rb : Nat) * pitch) + BitVec.ofNat 64 (i % rb)) ∧
  (∀ (s u v : State) (ca : BitVec 3) (cls : ChkClass) (len : BitVec 16) (bs hb : List PByte),
    let c := s.ctx.core
    let p := s.cur.seq.c.getD ca.toNat 0
    let n := (len.toNat + 1) * 256
    cpFieldEvent s.cur (.cpChk ca cls len) = none →
    s.readSegs c (runsOf p n ++ [⟨p + BitVec.ofNat 64 n, 8, n⟩]) = .ok (u, bs) → (∀ x ∈ bs, x.2 = false) →
    let stored := bytesToNat ((bs.map (·.1)).drop n)
    (chkResidue cls ((bs.map (·.1)).take n) = stored → ∃ t, exec (.cpChk ca cls len) s = .next t ∧
      (t.core c).seq.mpc = ((u.core c).seq.mpc + 4) % 65536 ∧ (t.core c).seq.halted = (u.core c).seq.halted ∧ t.mail = u.mail ∧ SameMemory u t) ∧
    (chkResidue cls ((bs.map (·.1)).take n) ≠ stored → u.readSegs c [⟨p + BitVec.ofNat 64 (n + 32), 32, 0⟩] = .ok (v, hb) →
      ∃ t m, exec (.cpChk ca cls len) s = .next t ∧ (t.core c).seq.halted = true ∧ Posted c v t m ∧ m.code = .chkfail ∧ m.src = 1 ∧ m.addr = p ∧
        (let h := hb.map (·.1)
         (m.value, m.info) = if bytesToNat ((h.drop 3).take 1) % 4 = chkWire cls then headerOf h else (0, 0)) ∧ SameMemory v t))

/-! Taking an exception. -/

/-- 18 R322, R327, 19 R341, 20 R361, R362: an event of a slot splits its bundle at the slot: RESUME names it, REPLEFT counts the repetitions that remain,
FRZCAUSE is STOP, and the message in the issue stream's slot carries the code, VALUE, the word, PC and NPC; nothing of the slot or above
commits. An undefined opcode and a bad header are such events, the header's at slot 0. An empty bundle does nothing. -/
def Obligations.EventsAreTaken : Prop :=
  (∀ (s : State) (i : Instr) (code : Code) (value : Word),
    let k := s.cur
    let t := s.raiseEvent i (code, value)
    (∃ m, Posted s.ctx.core s t m ∧ m.code = code ∧ m.src = 0 ∧ m.opSlot = s.ctx.slot ∧ m.pc = s.ctx.pc ∧ m.npc = s.ctx.pc + s.ctx.len ∧
      m.value = value ∧ m.word = s.ctx.word ∧ m.cst = t.cur.cst) ∧
    t.cur.resume = s.ctx.slot ∧ t.cur.repleft = s.ctx.count - 1 - s.ctx.rep ∧ t.cur.frzcause = 3 ∧ t.cur.stop = some .split ∧
    t.ctx.split = some s.ctx.slot ∧ t.cur.pc = k.pc ∧ t.cur.flags = k.flags ∧ t.cur.cmq = k.cmq ∧ t.cur.mxq = k.mxq ∧
    t.cur.landing = k.landing ∧ t.cur.pend = k.pend ∧ Unmoved s t) ∧
  (∀ (s : State) (slot : BitVec 3) (w : Word), exec (.undefopc slot w) s = .next (s.raiseEvent (.undefopc slot w) (.undefopc, 0))) ∧
  (∀ (s : State) (code : Code), s.headerCode = some code → ∃ t m, exec .headerEvent s = .next t ∧ Posted s.ctx.core s t m ∧ m.code = code ∧
    m.src = 0 ∧ m.opSlot = 0 ∧ m.pc = s.ctx.pc ∧ t.cur.resume = 0 ∧ t.cur.frzcause = 3 ∧ t.cur.stop = some .split ∧ t.ctx.split = some 0 ∧
    t.cur.pc = s.cur.pc ∧ Unmoved s t) ∧
  (∀ s : State, exec .emptyBundle s = .next s)

/-! Engines of a core and of the memory system. -/

/-- 03 R58 to R60, 19 R340, R347, R349: an entry's response arrives where its bytes are there and its time has come. At its due cycle an entry that has
arrived delivers its value and is free again; one that has not freezes the core with FRZCAUSE LANDING; one that failed stops the seat with
its message. A cycle that nothing freezes applies the flag operations that arrived, in their order; a bounded add of another module takes the value
that it finds then and answers with it (11 R227): that it does so when the seat applies it from the port's buffer is the model's reading (DEDUCED,
log 66). A CORRECT freeze ends when its time is over. -/
def Obligations.LandingsComplete : Prop :=
  (∀ (s : State) (c e : Nat) (l : Landing), sget none (s.core c).landing e = some l → l.arrived = false → l.left = 0 → l.ready ≤ s.clock →
    (s.core c).correct ≤ s.clock → ∃ t, exec (.landingArrival c e) s = .next t ∧
      sget none (t.core c).landing e = some { l with arrived := true } ∧
      (∀ d, d ≠ e → sget none (t.core c).landing d = sget none (s.core c).landing d) ∧ StillAt c s t) ∧
  (∀ (s : State) (c e : Nat) (l : Landing) (n : Nat) (code : Code) (value addr : Word), (s.core c).dueEntries = [(e, l)] →
    let k := s.core c
    (l.arrived = false → ∃ t, exec (.landingDue c) s = .next t ∧ (t.core c).frzcause = 1 ∧ (t.core c).cyc = k.cyc + 1 ∧
      (t.core c).frz = k.frz + 1 ∧ (t.core c).ran = false ∧ (t.core c).landing = k.landing ∧ StillAt c s t) ∧
    (l.arrived = true → l.failed = none → l.dest = .s n → n ≠ 0 → k.inflight = [] → (∀ o ∈ k.flagBuf, ∀ p, o.2 ≠ .bounded p) → ∃ t, exec (.landingDue c) s = .next t ∧
      (t.core c).ran = true ∧ (t.core c).frzcause = 0 ∧
      (t.core c).rf.sreg n = (l.form.value (vecBytes l.data l.form.sz.bytes)).setWidth 64 ∧
      (∀ j, j ≠ n → (t.core c).rf.sreg j = k.rf.sreg j) ∧ sget none (t.core c).landing e = none ∧ SameMemory s t ∧ SameOthers c s t) ∧
    (l.arrived = true → l.failed = some (code, value, addr) → ∃ t m, exec (.landingDue c) s = .next t ∧ Posted c s t m ∧ m.code = code ∧
      m.src = 0 ∧ m.value = value ∧ m.addr = addr ∧ m.opSlot = l.slot ∧ m.pc = l.pc ∧ (t.core c).stop = some (.landing e) ∧
      (t.core c).frzcause = 3 ∧ StillAt c s t)) ∧
  (∀ (s : State) (c : Nat), (s.core c).dueEntries = [] → ∃ t, exec (.landingDue c) s = .next t ∧ (t.core c).ran = true ∧
    (t.core c).frzcause = 0 ∧ (t.core c).flags = (s.core c).flagBuf.foldl flagArrive (s.core c).flags ∧ (t.core c).flagBuf = [] ∧
    SameMemory s t ∧ ((∀ o ∈ (s.core c).flagBuf, ∀ p, o.2 ≠ .bounded p) → SameOthers c s t)) ∧
  (∀ (s : State) (c n f : Nat) (p : Packet), (s.core c).dueEntries = [] → (s.core c).flagBuf = [(f, .bounded p)] → p.port < 36 →
    s.sendPort p.job.toNat p.smod.toNat = .port n →
    let old := flagOf (s.core c).flags f
    let inc := p.aux.toNat % 16 + 1
    ∃ t q, exec (.landingDue c) s = .next t ∧ t.out = s.out ++ [q] ∧ q.ty.toNat = 0x06 ∧ q.dmod = p.smod ∧ q.sseat = p.sseat ∧ q.aux = p.aux ∧
      q.payload = natToBytes 4 old.toNat ∧
      (∀ j, flagOf (t.core c).flags j =
        if j = f ∧ old.toNat + inc ≤ p.val.toNat then old + BitVec.ofNat 32 inc else flagOf (s.core c).flags j)) ∧
  (∀ (s : State) (c : Nat), (s.core c).correct ≠ 0 → (s.core c).correct ≤ s.clock → ∃ t, exec (.correctFreezeEnd c) s = .next t ∧
    t.core c = { s.core c with correct := 0, frzcause := 0 } ∧ SameMemory s t ∧ SameOthers c s t)

/-- 06 R112, R117, R120, R121, R132, 21 R376, R420, 22 R391: an access that may perform takes effect at its home and leaves the list; a write that must
correct its word first waits 12 cycles; a store that its home refuses, or that the host completes with an error, leaves one late event for its
write. The oldest remote operation leaves CMQ packet by packet; a host-port entry leaves HXQ and is visible.
08 R167: the copy of a RGN.KEEP takes the access cost of its path, then goes on by 256 bytes (stated where nothing has to be corrected first, 19
R350); with the last its record joins the frame, and its bytes the level's undo space in the seat's context block, where the seat has one. While
that block's page is under migration the copy waits (04 R83), and where it cannot be written the copy goes on: the model's choice (DESIGN CHOICE,
log 86). Left out: reads at homes other than a scratchpad, and HXQ entries of more than one piece. That a write is visible in the step that performs it is the model's reading
(DEDUCED, log 28); so is one late event for each failing write, and the host's error is an input step, whose index counts on behind the accesses
(DEDUCED and DESIGN CHOICE, log 74). -/
def Obligations.MemoryEnginesComplete : Prop :=
  (∀ (s u : State) (c i d off : Nat) (p : Piece) (h : Home) (l : Landing) (code : Code), s.pieceReady c i = some (p, h) →
    (p.write = true → s.preMerge h p.data = none → writeHome s h p.data p.poison = .ok u → ∃ t, exec (.postedWritePerformed c i) s = .next t ∧
      t.core c = { u.core c with pend := (u.core c).pend.eraseIdx i } ∧ SameMemory u t ∧ SameOthers c u t) ∧
    (p.write = true → h = .near d off → (s.core d).rf.soft = [] → ∃ t, exec (.postedWritePerformed c i) s = .next t ∧
      (t.core c).pend = (s.core c).pend.eraseIdx i ∧ SameMemory s t ∧
      (∀ b, (t.core d).rf.near.byte b = if off ≤ b ∧ b < off + p.data.length then
          mergeByte ((s.core d).rf.near.byte b) (p.data.getD (b - off) (0, 0)).1 (p.data.getD (b - off) (0, 0)).2
        else (s.core d).rf.near.byte b)) ∧
    (p.write = false → h = .near d off → (s.core d).rf.soft = [] → sget none (s.core c).landing p.entry = some l → l.serial = p.serial →
      ∃ t x, exec (.postedWritePerformed c i) s = .next t ∧ (t.core c).pend = (s.core c).pend.eraseIdx i ∧
        sget none (t.core c).landing p.entry = some x ∧
        x.data = l.data ||| vecOfBytes ((s.core d).rf.near.read off p.n) <<< (8 * p.pos) ∧ x.left = l.left - 1 ∧ StillAt c s t) ∧
    (p.write = true → s.preMerge h p.data = some u → ∃ t, exec (.postedWritePerformed c i) s = .next t ∧
      (t.core c).pend = (u.core c).pend.set i { p with ready := s.clock + 12 } ∧ SameMemory u t ∧ SameOthers c u t) ∧
    (p.write = true → c < 1024 → writeHome s h p.data p.poison = .error code → ∃ t, exec (.postedStoreFail c i) s = .next t ∧
      (t.core c).pend.length + 1 = (s.core c).pend.length ∧ (∀ q ∈ (t.core c).pend, q.write = true → q.iss = p.iss → q.told = true ∨ p.told = true) ∧
      (t.core c).late = (s.core c).late ++ (if p.told then [] else
        [{ code := code, src := 2, opSlot := 5, value := p.ptr, addr := failAddr code h, word := p.word }]) ∧ StillAt c s t)) ∧
  (∀ (s u : State) (c i ba key va : Nat) (p : Piece), (s.sited c).hxqReady i s.clock = true → (s.core c).hxq[i]? = some [p] →
    p.home = some (.host ba key va) → writeHome s (.host ba key va) p.data p.poison = .ok u → ∃ t, exec (.hxqEntryLeave c i) s = .next t ∧
      (t.core c).hxq = (s.core c).hxq.eraseIdx i ∧ t.hostMem = u.hostMem ∧ t.hbm = s.hbm ∧ (t.core c).rf = (s.core c).rf ∧ SameOthers c s t) ∧
  (∀ (s : State) (c i ba key va : Nat) (p : Piece), (s.sited c).hxqReady i s.clock = true → (s.core c).hxq[i]? = some [p] →
    p.home = some (.host ba key va) → p.told = false → c < 1024 → ∃ t, exec (.postedStoreFail c ((s.core c).pend.length + i)) s = .next t ∧
      (t.core c).hxq.length + 1 = (s.core c).hxq.length ∧ (t.core c).late = (s.core c).late ++
        [{ code := .hbmue, src := 2, opSlot := 5, value := p.ptr, addr := failAddr .hbmue (.host ba key va), word := p.word }] ∧ StillAt c s t) ∧
  (∀ (s : State) (c port : Nat) (r : Remote) (rest : List Remote) (p : Packet) (ps : List Packet), (s.core c).cmq = r :: rest →
    r.pkts = p :: ps → p.port = 36 → (s.core c).holdsBack s.clock r.iss = false → (s.mapEntry p.job.toNat p.dmod.toNat).getLsbD 0 = true →
    let left : List Remote := if ps = [] then rest else { r with pkts := ps } :: rest
    (s.isOwnModule p.job.toNat p.dmod.toNat = true → ∃ t f, exec (.cmqEntryLeave c) s = .next t ∧ (t.core c).cmq = left ∧
      t.lateral = s.lateral ++ [f] ∧ f.pkt = p ∧ f.own = true ∧ s.clock + 7 ≤ f.ready ∧ t.out = s.out ∧ StillAt c s t) ∧
    (s.isOwnModule p.job.toNat p.dmod.toNat = false → s.sendPort p.job.toNat p.dmod.toNat = .port port → ∃ t x, exec (.cmqEntryLeave c) s = .next t ∧
      (t.core c).cmq = left ∧ t.out = s.out ++ [x] ∧ x.port = port ∧ x.ty = p.ty ∧ x.addr = p.addr ∧ x.payload = p.payload ∧
      (p.paired = true → x.pseq = BitVec.ofNat 16 (seqOf s.sentSeq p.pair)) ∧ StillAt c s t)) ∧
  (∀ (s u : State) (c n : Nat) (p : Word) (got : List PByte) (f : Frame) (fs : List Frame), (s.core c).keep = some (p, n) →
    (s.core c).keepReady ≤ s.clock → s.keepBlocked c p n = false →
    (∀ w ∈ (s.hall (hallOf c)).walks ++ (s.hall (hallOf c)).waiting, w.core ≠ c ∨ w.who ≠ 3) →
    let old := (s.core c).keepGot
    let whole := old ++ got
    let unit : Seg := ⟨p + BitVec.ofNat 64 old.length, min 256 (n - old.length), 0⟩
    ((s.core c).keepCost < s.keepPath c unit → ∃ t, exec (.keepCopyComplete c) s = .next t ∧
      (t.core c).keepReady = s.clock + (s.keepPath c unit - (s.core c).keepCost) ∧ (t.core c).keepCost = s.keepPath c unit ∧
      (t.core c).keep = some (p, n) ∧ (t.core c).keepGot = old ∧ StillAt c s t) ∧
    (s.keepPath c unit ≤ (s.core c).keepCost → s.readSegs c [unit] = .ok (u, got) → u.corrected = s.corrected → (u.core c).keepReady ≤ s.clock →
      (whole.length < n → ∃ t, exec (.keepCopyComplete c) s = .next t ∧ t.core c = { u.core c with keepGot := whole } ∧ SameMemory u t) ∧
      (n ≤ whole.length → (u.core c).frames = f :: fs →
        let g : Frame := { f with keeps := (p, n, whole.map (·.1), ((whole.zip (List.range n)).filter (fun e => e.1.2)).map (·.2)) :: f.keeps }
        let put (b : Nat) : Io State := (u.modCore c (fun k => { k with keep := none, keepGot := [], frames := g :: fs })).areaPut
          (u.core c).job (u.core c).world (b + undoOffset (u.core c).rgd) (g.undo.length - n) g.undo
        ((∀ b, u.seatBlock c = some b → put b ≠ .held) → ∃ t, exec (.keepCopyComplete c) s = .next t ∧ (t.core c).keep = none ∧
          (t.core c).frames = g :: fs ∧ (u.seatBlock c = none → SameMemory u t) ∧
          ∀ b v, u.seatBlock c = some b → put b = .ok v → SameMemory v t) ∧
        (∀ b, u.seatBlock c = some b → put b = .held → exec (.keepCopyComplete c) s = .next s))))

/-- 04 R82, R83, 19 R346, R347, R356, R359, 21 R372, 22 R391: a walk whose time has come ends: a leaf fills the core's translation cache, with A, and D
for a write, set in its entry. The store that waited is replayed; the reads of a timed request on the page get their homes; the sequencer and
the copy of a RGN.KEEP go on as they stand. A fault of a store's walk turns its freeze into a STOP with the code's message; that of a timed
request's walk fails the landing entry; that of the sequencer's walk halts the sequencer, once no CORRECT freeze lasts; that of a RGN.KEEP's stops
the seat at its boundary. A leaf under migration is read again 256 cycles later. Stated where no sector holds an error that the walk would
correct first (21 R377). That a walk reads every level and sets A and D in the step that ends it is the model's reading (DEDUCED, log 29); so are
the boundary at which the fault of a keep stops the seat, with the keep's word (DEDUCED, log 31), and the address in ADDR (DEDUCED, log 60). -/
def Obligations.WalksComplete : Prop :=
  ∀ (s : State) (hall i : Nat) (w : Walk) (a level reads : Nat) (e : Word) (code : Code), (s.hall hall).walks[i]? = some w → w.ready ≤ s.clock →
    (∀ a, (sectorOf s a).soft = 0) → w.who ≤ 3 →
    let c := w.core
    let k := s.core c
    let set : Word := e ||| 0x10 ||| (if w.write then 0x20 else 0)
    let waits (q : Piece) : Bool := q.home.isNone && !q.write && q.va / 0x10000 == w.va / 0x10000
    let tells (m : Msg) : Prop := m.code = code ∧ m.value = w.ptr ∧ m.addr = BitVec.ofNat 64 w.va
    (s.walkResult w = .leaf a level e reads → ∃ t, exec (.walkComplete hall i) s = .next t ∧
      tcOf k.world w.va level set ∈ (t.core c).tcache ∧ t.hbm = (if set = e then s.hbm else s.hbm.write a (wordBytes set)) ∧
      (w.who = 0 → (t.core c).replayNow = true ∧ t.agenda = .replay c :: .hops c :: s.agenda) ∧
      (w.who = 1 → (t.core c).pend = k.pend.map (fun q => match (if waits q then (t.core c).tcLookup q.va false else .miss) with
        | .hit h => { q with home := some h }
        | _ => q)) ∧
      (w.who ≠ 1 → (t.core c).pend = k.pend) ∧ (t.core c).seq = k.seq ∧ (t.core c).keep = k.keep ∧ (t.core c).keepGot = k.keepGot ∧
      ((s.hall hall).waiting = [] → (t.hall hall).walks = (s.hall hall).walks.eraseIdx i) ∧
      (t.core c).rf = k.rf ∧ SameOthers c s t) ∧
    (s.walkResult w = .bad code →
      (w.who = 0 → ∃ t m, exec (.walkComplete hall i) s = .next t ∧ Posted c s t m ∧ tells m ∧ m.src = 0 ∧ m.opSlot = 5 ∧
        (t.core c).stop = some .split ∧ (t.core c).frzcause = 3 ∧ StillAt c s t) ∧
      (w.who = 1 → ∃ t, exec (.walkComplete hall i) s = .next t ∧ (t.core c).pend = k.pend.filter (fun q => !waits q) ∧ StillAt c s t ∧
        ∀ q l, k.pend.filter waits = [q] → sget none k.landing q.entry = some l → l.serial = q.serial → ∃ x,
          sget none (t.core c).landing q.entry = some x ∧ x.failed = some (l.failed.getD (code, q.ptr, BitVec.ofNat 64 q.va)) ∧ x.left = l.left - 1) ∧
      (w.who = 2 → k.correcting s.clock = false → ∃ t m, exec (.walkComplete hall i) s = .next t ∧ Posted c s t m ∧ tells m ∧ m.src = 1 ∧
        m.opSlot = 6 ∧ m.mpc = k.seq.mpc ∧ (t.core c).seq = { k.seq with halted := true } ∧ StillAt c s t) ∧
      (w.who = 2 → k.correcting s.clock = true → ∃ t, exec (.walkComplete hall i) s = .next t ∧
        (t.hall hall).walks = (s.hall hall).walks.set i { w with ready := k.correct } ∧ t.cores = s.cores ∧ t.mail = s.mail) ∧
      (w.who = 3 → ∃ t m, exec (.walkComplete hall i) s = .next t ∧ Posted c s t m ∧ tells m ∧ m.src = 0 ∧ m.opSlot = 7 ∧ m.pc = k.keepPc ∧ m.npc = k.pc ∧
        m.word = k.keepWord ∧ (t.core c).keep = none ∧ (t.core c).stop = some .boundary ∧ (t.core c).frzcause = 3 ∧ StillAt c s t)) ∧
    (s.walkResult w = .migrating → exec (.walkComplete hall i) s = .next s ∧ ∃ t, exec (.migRepoll hall i) s = .next t ∧
      (t.hall hall).walks = (s.hall hall).walks.set i { w with ready := s.clock + 256 } ∧ t.cores = s.cores ∧ SameMemory s t)

/-- 13 R267, 21 R383: the hop comparison that is due compares both sides of its record, with a late RESHOP event where they differ.
19 R354, R355: equal signatures of a LOCK pair change nothing; different ones stop the pair with LOCKSTEP, counted for its unit, and the release
buffer discards what bundles of the last two cycles had put into the queues, and stored to the own vault. One record stands for the pair, the two
signatures are the step's inputs, and the undo bytes stand for the release buffer (DESIGN CHOICE, log 11). -/
def Obligations.ComparisonsComplete : Prop :=
  (∀ (s : State) (c ch : Nat) (h : Hop), (s.core c).hops.find? (fun x => x.ch == ch && decide (x.due ≤ (s.core c).sched)) = some h →
    ∃ t, exec (.hopComparison c ch) s = .next t ∧ (t.core c).hops = (s.core c).hops.erase h ∧
      (t.core c).late = (s.core c).late ++ (if h.left = h.right then []
        else [{ code := .reshop, src := 0, opSlot := 6, value := h.value, info := h.info, addr := h.addr, word := h.word }]) ∧ StillAt c s t) ∧
  (∀ (s : State) (c : Nat) (even odd : Word), even = odd → exec (.lockstepCompare c even odd) s = .next s) ∧
  (∀ (s : State) (c n g a at_ : Nat) (even odd : Word) (b : Byte), even ≠ odd → (s.core c).placed = true → (s.core c).lock = true →
    let k := s.core c
    k.recent = [(n, at_)] → s.clock ≤ at_ + 2 → n < k.issued →
    ∃ t m, exec (.lockstepCompare c even odd) s = .next t ∧ m ∈ t.mail ∧ m.code = .lockstep ∧ m.core = c ∧ m.src = 0 ∧
      (∀ x y, k.recentPcs = [(n, x, y)] → m.pc = x ∧ m.npc = y) ∧
      (t.core c).stop = some .boundary ∧ (t.core c).resume = 8 ∧ (t.core c).frzcause = 3 ∧
      sget 0 t.lockMis (nearUnit c) = sget 0 s.lockMis (nearUnit c) + 1 ∧
      (t.core c).cmq = k.cmq.filter (fun r => r.iss < n) ∧ (t.core c).mxq = k.mxq.filter (fun e => e.iss < n) ∧
      (t.core c).pend = k.pend.filter (fun p => p.iss < n) ∧ (t.core c).hxq = k.hxq.filter (fun l => l.all (fun p => p.iss < n)) ∧
      (t.core c).seq.cpq = k.seq.cpq.filter (fun q => q.iss < n) ∧
      (k.released = [(n, g, [(a, b)])] → (t.gal g).vault.byte a = b ∧ ∀ x, x ≠ a → (t.gal g).vault.byte x = (s.gal g).vault.byte x) ∧
      (k.released = [] → SameMemory s t) ∧ t.hbm = s.hbm ∧ t.hostMem = s.hostMem ∧ (t.core c).rf = k.rf ∧ SameOthers c s t)

/-! The gallery management cores. -/

/-- 18 R324 to R328, 19 R343, R345, R356: a GMC writes a register, flag or scratchpad byte of a stopped seat of the open world. RESUME lets the seat go on
where it stands, a split bundle by its replay; REDIRECT pushes PC, or the PC of the TRAP, and goes on at NPC without the uncommitted slots;
a halted sequencer goes on at its word, or at NPC. Each reply ends its message, whose words keep the reply with VALID 1, and an event leaves a
record of its action. 18 R330, 19 R359: a reply to a seat whose job is aborted is ignored. That REDIRECT after a TRAP pushes the PC of the TRAP
is the model's reading (DEDUCED, log 61); a state write is an input step, one place each (DESIGN CHOICE, log 67). -/
def Obligations.RepliesComplete : Prop :=
  (∀ (s : State) (c : Nat) (n : SReg) (q : PReg) (f : FReg) (v : Word) (x : W32) (off : Nat) (b : Byte), s.awaitsReply c = true →
    (s.core c).world = 0 →
    let k := s.core c
    (∃ t, exec (.gmcStateWrite c (.scalar n v)) s = .next t ∧
      (∀ j, (t.core c).rf.sreg j = if j = n.toNat ∧ j ≠ 0 then v else k.rf.sreg j) ∧ SameMemory s t ∧ SameOthers c s t) ∧
    (∃ t, exec (.gmcStateWrite c (.pred q v)) s = .next t ∧
      (∀ j, (t.core c).rf.preg j = if j = q.toNat ∧ j ≠ 0 then v else k.rf.preg j) ∧ SameMemory s t ∧ SameOthers c s t) ∧
    (∃ t, exec (.gmcStateWrite c (.lcnt x)) s = .next t ∧ (t.core c).rf = { k.rf with lcnt := x } ∧ SameMemory s t ∧ SameOthers c s t) ∧
    (∃ t, exec (.gmcStateWrite c (.flag f x)) s = .next t ∧
      (∀ j, flagOf (t.core c).flags j = if j = f.toNat then x else flagOf k.flags j) ∧ (t.core c).rf = k.rf ∧ SameMemory s t ∧ SameOthers c s t) ∧
    (off < k.rf.limit → ∃ t, exec (.gmcStateWrite c (.scratch off b)) s = .next t ∧
      (∀ j, (t.core c).rf.near.byte j = if j = off then b else k.rf.near.byte j) ∧ (t.core c).rf.s = k.rf.s ∧ SameMemory s t ∧
      SameOthers c s t)) ∧
  (∀ (s : State) (gal slot : Nat) (m : Msg) (npc : BitVec 16), s.mailAt gal slot = some m → sealCode m.code = none → m.code ≠ .lockstep →
    let c := m.core
    let k := s.core c
    let done (t : State) (n : Nat) : Prop := t.mail = s.mail.erase m ∧ StillAt c s t ∧
      (∃ x, (32 * gal + slot, x) ∈ t.box ∧ x.reply.getLsbD 7 = true ∧ x.reply.toNat % 8 = n) ∧
      ((∀ x, m.code ≠ .trap x) → ∃ r ∈ t.log, r.code = m.code ∧ r.action = n ∧ r.sev = 1)
    (m.src ≠ 1 → m.kind = .split → ∃ t, exec (.gmcReplyResume gal slot) s = .next t ∧ done t 0 ∧ (t.core c).replayNow = k.replay.isSome ∧
      (t.core c).replay = k.replay) ∧
    (m.src ≠ 1 → (m.kind = .trap ∨ m.kind = .boundary) → ∃ t, exec (.gmcReplyResume gal slot) s = .next t ∧ done t 0 ∧
      t.core c = { k with stop := none }) ∧
    (m.src = 1 → ∃ t, exec (.gmcReplyResume gal slot) s = .next t ∧ done t 0 ∧ (t.core c).seq = { k.seq with halted := false }) ∧
    (m.src ≠ 1 → k.rstack.length < 8 → ∃ t, exec (.gmcReplyRedirect gal slot npc) s = .next t ∧ done t 1 ∧ (t.core c).pc = npc.toNat ∧
      (t.core c).rstack = (if m.kind = .trap then m.pc else k.pc) :: k.rstack ∧ (t.core c).stop = none ∧ (t.core c).replay = none ∧
      (t.core c).resume = 8) ∧
    (m.src = 1 → ∃ t, exec (.gmcReplyRedirect gal slot npc) s = .next t ∧ done t 1 ∧
      (t.core c).seq = { k.seq with halted := false, mpc := npc.toNat, prog := 0, mode := .running })) ∧
  (∀ (s : State) (gal slot : Nat) (npc : BitVec 16), (∀ m ∈ s.mail, m.gal = gal → m.slot = slot → (s.core m.core).abort ≠ none) →
    ∀ i ∈ [Instr.gmcReplyResume gal slot, .gmcReplyRedirect gal slot npc, .gmcReplyRollback gal slot, .gmcReplyKill gal slot,
      .gmcReplyAbort gal slot], exec i s = .next s)

/-- 18 R325, R329, R335, 19 R357, 22 R394, R405, 02 R29: ROLLBACK discards what is in flight and waits for the engine and the writes, and the frame that is
restored gives the registers and the PC back while near SRAM, flags and tiles stay; KILL makes a restartable task PENDING under its next
tag with its cores released; ABORT, the driver's abort and a deadline abort the job, with every seat of it outside the fenced galleries to be
dumped; the watchdog fences the gallery. KILL is stated for a task of one core without descendants. That no message of a seat stays in the mailbox after its
ROLLBACK (log 35), seats of fenced galleries left without a dump (log 59), a deadline taken at equality (log 54) and the
records of containment (log 85) are the model's readings (DEDUCED). -/
def Obligations.ContainmentCompletes : Prop :=
  (∀ (s : State) (gal slot : Nat) (m : Msg), s.mailAt gal slot = some m →
    let c := m.core
    let k := s.core c
    (∀ f fs, k.frames = f :: fs → f.retry ≠ f.limit → ∃ t, exec (.gmcReplyRollback gal slot) s = .next t ∧ (t.core c).rolling = some .drain ∧
      (t.core c).stop = some .boundary ∧ (t.core c).inflight = [] ∧ (t.core c).landing = [] ∧ (t.core c).replay = none ∧
      (t.core c).rf = k.rf ∧ (t.core c).frames = k.frames ∧ (∀ x ∈ t.mail, x.core ≠ c) ∧ SameMemory s t ∧ SameOthers c s t) ∧
    (∀ x, s.tasks = [x] → x.id = k.task → x.rst = true → x.ancestors = [] → s.seatCores x = [c] → s.sessions = [] → k.correct ≤ s.clock →
      k.keep = none → k.rolling = none → ∃ t y, exec (.gmcReplyKill gal slot) s = .next t ∧ t.tasks = [y] ∧ y.state = .pending ∧
        y.gen = x.gen % 255 + 1 ∧ y.cores = [] ∧ y.ended = [] ∧ (t.core c).placed = false ∧ (x.job, x.taskid, x.gen) ∈ t.retired) ∧
    (∃ t, exec (.gmcReplyAbort gal slot) s = .next t ∧ (∀ j ∈ t.jobs, j.id = k.job → j.aborted = true) ∧
      (∀ d ∈ s.jobCores k.job, (s.gal (galOf d)).fenced = false → ∃ n, (t.core d).abort = some (m.code, n)))) ∧
  (∀ (k : Core) (f : Frame) (rest : List Frame),
    let r := k.restore f rest
    r.rf.s = f.s ∧ r.rf.p = f.p ∧ r.rf.lcnt = f.lcnt ∧ r.dom = f.dom ∧ r.rf.allot = f.allot ∧ r.rf.rbase = f.rbase ∧ r.rf.rsize = f.rsize ∧
    r.rf.rrb = f.rrb ∧ r.phase = f.phase ∧ r.rstack = f.rstack ∧ r.srg = f.srg ∧ r.dq = f.dq ∧ r.pc = f.restart ∧
    r.frames = { f with keeps := [], retry := f.retry + 1 } :: rest ∧ r.rf.near = k.rf.near ∧ r.flags = k.flags ∧ r.tiles = k.tiles ∧
    r.cyc = k.cyc ∧ r.frz = k.frz ∧ r.stop = none) ∧
  (∀ (s : State) (job : Nat) (j : Job), s.job job = some j → j.aborted = false → ∃ t, exec (.jobAbort job) s = .next t ∧
    (∀ x ∈ t.jobs, x.id = job → x.aborted = true) ∧
    ∀ c ∈ s.jobCores job, (s.gal (galOf c)).fenced = false → ((t.core c).abort).isSome = true) ∧
  (∀ (s : State) (j : Job), s.overdue = [j] → ∃ t, exec .deadline s = .next t ∧ (∀ x ∈ t.jobs, x.id = j.id → x.aborted = true) ∧
    (∀ c ∈ s.jobCores j.id, (s.gal (galOf c)).fenced = false → ∃ n, (t.core c).abort = some (.deadline, n)) ∧ ∃ r ∈ t.log, r.code = .deadline ∧ r.sev = 4 ∧ r.action = 4) ∧
  (∀ (s : State) (gal : Nat) (m : Msg), m ∈ s.mail → m.gal = gal → m.posted + 0x100000 ≤ s.clock →
    s.galTasks gal = [] → s.mail.length ≤ 512 → s.sessions = [] → ∃ t, exec (.gmcWatchdog gal) s = .next t ∧ (t.gal gal).fenced = true ∧ ∃ r ∈ t.log, r.code = .gmcwatch ∧ r.sev = 5)

/-! The Concourse. -/

/-- 12 R253 to R255, Tables 12.8 and 12.9: a checkpoint or a drain of a running task that is not being saved yet is noted with its clock. 1,024
cycles after a checkpoint every seat is asked to save; a drain asks each seat once it stands, with its queues empty, in the computation
phase, and is a checkpoint of every seat after 16,384 cycles, which asks the seats at once (log 36). A seat asked to save posts its combining
buffers as far as HXQ has room (log 70). The one victim that pre-emption chooses is left, killed, checkpointed or drained by
the first row of the table that holds. -/
def Obligations.PreemptionCompletes : Prop :=
  (∀ (s : State) (t : Nat) (x : Task), s.task t = some x → x.state = .running → (∀ p ∈ s.preempts, p.task ≠ t) →
    exec (.checkpoint t) s = .next { s with preempts := s.preempts ++ [{ task := t, kind := .checkpoint, since := s.clock }] } ∧
    exec (.preemptDrain t) s = .next { s with preempts := s.preempts ++ [{ task := t, kind := .drain, since := s.clock }] }) ∧
  (∀ (s : State) (t : Nat) (x : Task) (p : Preempt), s.task t = some x → s.preempts = [p] → p.task = t →
    let posts (k l : Core) : Prop :=
      let n := min (32 - k.hxq.length) k.wc.length
      l.hxq = k.hxq ++ k.wc.take n ∧ l.wc = k.wc.drop n ∧ l.wcDue = k.wc.length - n
    (p.kind = .checkpoint → p.since + 1024 ≤ s.clock → ∃ u, exec (.checkpointTimer t) s = .next u ∧
      (∀ c ∈ s.seatCores x, (u.core c).saveAsked = true ∧ (u.core c).rf = (s.core c).rf ∧ posts (s.core c) (u.core c)) ∧
      (∀ c, c ∉ s.seatCores x → u.core c = s.core c) ∧ SameMemory s u) ∧
    (p.kind = .checkpoint → s.clock < p.since + 1024 → exec (.checkpointTimer t) s = .next s) ∧
    (p.kind = .drain → ∃ u, exec (.preemptDrain t) s = .next u ∧
      (∀ c ∈ s.seatCores x, (s.core c).begun = true → (s.core c).betweenBundles = true → (s.core c).drained s.clock = true → (u.core c).saveAsked = true) ∧
      (∀ c, (s.core c).drained s.clock = false → u.core c = s.core c) ∧ SameMemory s u) ∧
    (p.kind = .drain → p.since + 16384 ≤ s.clock → ∃ u, exec (.drainTimeout t) s = .next u ∧ u.preempts = [{ p with kind := .checkpoint }] ∧
      (∀ c ∈ s.seatCores x, (u.core c).saveAsked = true ∧ (u.core c).rf = (s.core c).rf ∧ posts (s.core c) (u.core c)) ∧
      (∀ c, c ∉ s.seatCores x → u.core c = s.core c) ∧ SameMemory s u) ∧
    (p.kind = .drain → s.clock < p.since + 16384 → exec (.drainTimeout t) s = .next s)) ∧
  (∀ (s : State) (h v : Task) (first : Bool), s.contenders = [(h, first)] → s.task v.id = some v → v.state = .running →
    (∀ p ∈ s.preempts, p.task ≠ v.id) →
    s.victimsFor h (fun t => if first then decide (t.prio < h.prio) else decide (t.prio ≤ h.prio)) = [v] →
    let u := if first then h.prio - v.prio else 0
    let left := v.est - s.reached v
    let acts (l : List Preempt) : Prop :=
      exec .preemptDecide s = .next { s with victims := s.victims ++ [(h.id, v.id, s.clock)], preempts := s.preempts ++ l }
    (left < 4096 → acts []) ∧
    (4096 ≤ left → v.rst = true → s.reached v < 16384 → exec .preemptDecide s =
      .next (({ s with victims := s.victims ++ [(h.id, v.id, s.clock)] } : State).askKill v.id).settleKills) ∧
    (4096 ≤ left → (v.rst = false ∨ 16384 ≤ s.reached v) → 8 ≤ u → acts [{ task := v.id, kind := .checkpoint, since := s.clock }]) ∧
    (4096 ≤ left → (v.rst = false ∨ 16384 ≤ s.reached v) → u < 8 → acts [{ task := v.id, kind := .drain, since := s.clock }])) ∧
  (∀ s : State, s.contenders = [] → exec .preemptDecide s = .next s)

/-- 12 R255, R256, 19 R357, R358, 22 R400 to R407: a seat that stands at a boundary with its queues empty, and whose image has been written, has it
in its context block and its core released; with the last one its task is SAVED. Its vault window goes to the gallery block and is freed. A seat to be dumped is written to its MiB of the dump area where it has one,
and released. A saved task that can be placed again has its seat's registers, flags, tiles and PC back on the new core. What of a seat stands in
the record of its save beside the bytes of its block is the model's choice (DESIGN CHOICE, log 15); that the seats of a fenced gallery are released
without a dump is its reading (DEDUCED, log 59). -/
def Obligations.SeatSavesComplete : Prop :=
  (∀ (s u : State) (c : Nat) (x : Task), s.saveDue c = true → (s.core c).rf.soft = [] →
    let k := s.core c
    s.task k.task = some x → s.ioPut k.job k.world (s.blockVa k.job (x.blocks.getD k.seat 0)) (k.image8 1 c) = .ok u →
    ∃ t, exec (.seatSave c) s = .next t ∧ t.saves = u.saves ++ [(x.id, k.seat, k)] ∧
      t.core c = { mseq := (u.core c).mseq } ∧
      t.hbm = u.hbm ∧ t.hostMem = u.hostMem ∧ (∀ y ∈ t.tasks, y.id = x.id → k.seat ∈ y.saved) ∧ SameOthers c u t ∧
      (u.tasks = [x] → k.task = x.id → k.seat ∉ x.saved → x.saved.length + x.ended.length + 1 = x.nseats →
        ∀ y ∈ t.tasks, y.state = .saved)) ∧
  (∀ (s u : State) (n j g base : Nat) (x : Task), s.task n = some x → s.vaultWindow n j = some (g, base) → s.windowDue x j = true →
    (s.gal g).soft = [] → (s.gal g).poison = [] →
    let bs := (s.gal g).vault.read base x.windowBytes
    s.ioPut x.job x.world (s.blockVa x.job (x.galBlocks.getD j 0)) (bs.map (fun b => (b, false))) = .ok u →
    ∃ t, exec (.vaultWindowSave n j) s = .next t ∧ t.saveVaults = u.saveVaults ++ [(n, j, cellsOf 0 bs, [])] ∧ t.hbm = u.hbm ∧
      t.hostMem = u.hostMem ∧ t.cores = u.cores ∧
      (t.gal g).windows = (u.gal g).windows.filter (fun w => !(w.1 == n && w.2.1 == j)) ∧ (t.gal g).vault = (u.gal g).vault) ∧
  (∀ (s u : State) (c n : Nat) (code : Code) (j : Job),
    let k := s.core c
    k.abort = some (code, n) → k.dump = true → s.job k.job = some j →
    ((j.dumpLen ≤ n ∨ (s.gal (galOf c)).fenced = true) → s.sessions = [] → ∃ t, exec (.seatDump c) s = .next t ∧
      (t.core c).placed = false ∧ t.hbm = s.hbm ∧ t.hostMem = s.hostMem ∧ SameOthers c s t) ∧
    (n < j.dumpLen → (s.gal (galOf c)).fenced = false → k.rf.soft = [] → u.sessions = [] →
      s.ioPut k.job k.world (j.dumpBase + n * 2 ^ 20) ((k.dumpHeader code c j.dlc).map (fun b => (b, false)) ++ k.image8 2 c) = .ok u →
      ∃ t, exec (.seatDump c) s = .next t ∧ (t.core c).placed = false ∧ t.hbm = u.hbm ∧ t.hostMem = u.hostMem ∧ SameOthers c u t)) ∧
  (∀ (s s0 s5 : State) (x : Task) (gs : List Nat) (im : Image) (r : State × List Extent) (seat c : Nat) (k : Core), s.powered = true →
    s.nextPlacing = some (x, gs) → x.state = .saved → s.imageOf x = some im → s.blocksRead x = .ok (s0, [(seat, k)], []) →
    s0.extentsOf x im = .ok r → r.1.spillBack x = .ok (s5, []) → x.cores[seat]? = some c → ∃ t, exec (.taskReplace x.id) s = .next t ∧
      (t.core c).placed = true ∧ (t.core c).rf = k.rf ∧ (t.core c).flags = k.flags ∧ (t.core c).tiles = k.tiles ∧ (t.core c).pc = k.pc ∧
      (t.core c).rstack = k.rstack ∧ (t.core c).dom = k.dom ∧ (t.core c).cyc = k.cyc ∧ (t.core c).frames = k.frames ∧
      (t.core c).seq = k.seq ∧ (t.core c).exts = r.2 ∧ (t.core c).tcache = [] ∧ t.saves = s5.saves.filter (fun e => e.1 != x.id) ∧
      ∀ y ∈ t.tasks, y.id = x.id → y.state = .placed ∧ y.saved = [])

/-- 02 R31 to R34, 03 R47, Table 3.3, 12 R249: the task at the head of the placement order is PLACED, each seat's core with the values of Table
3.3: arguments in s1 to s8, no other scalar set, the image's entry as PC, its allotment, domains and channels. The end of a task raises its
parent's completion flag by one and leaves the pool; a free pool entry goes to the LAUNCH of the lowest core that waits. -/
def Obligations.TasksComplete : Prop :=
  (∀ (s : State) (x : Task) (gs : List Nat) (im : Image) (r : State × List Extent), s.powered = true →
    s.begin.nextPlacing = some (x, gs) → x.state = .ready → s.begin.imageOf x = some im → s.begin.extentsOf x im = .ok r → s.spill = [] →
    x.cores.Nodup → ∃ t, exec .taskPlace s = .next t ∧ (∀ y ∈ t.tasks, y.id = x.id → y.state = .placed) ∧
      ∀ i c, x.cores[i]? = some c →
        let k := t.core c
        k.placed = true ∧ k.task = x.id ∧ k.seat = i ∧ k.nseats = x.nseats ∧ k.job = x.job ∧ k.taskid = x.taskid ∧ k.world = x.world ∧
        k.gen = x.gen ∧ k.rf.sreg 0 = 0 ∧ (∀ n, n < 8 → k.rf.sreg (n + 1) = x.args.getD n 0) ∧ (∀ n, 9 ≤ n → k.rf.sreg n = 0) ∧
        (∀ n, n ≠ 0 → k.rf.preg n = 0) ∧ k.rf.preg 0 = BitVec.allOnes 64 ∧ k.rf.allot = x.allot ∧ k.rf.lcnt = 0 ∧ k.rf.rsize = 0 ∧
        k.rf.near = [] ∧ k.dom = x.dom.map word64 ∧ k.phase = 0 ∧ k.cyc = 0 ∧ k.frz = 0 ∧ k.rgd = 0 ∧ k.flags = [] ∧ k.rstack = [] ∧
        k.feat = s.host.featAcc ∧ k.srg = srgStart (x.taskid + x.job * 2 ^ 16) i ∧ k.pc = im.entry ∧ k.exts = r.2) ∧
  (∀ (s : State) (n : Nat) (x : Task), s.task n = some x → x.state = .ended → s.sessions = [] → s.seatCores x = [] →
    ((∀ c p seat f, x.creator ≠ .launch c p seat f) → ∃ t, exec (.taskCompletionEffects n) s = .next t ∧
      t.tasks = s.tasks.filter (fun y => y.id != n) ∧ t.cores = s.cores ∧ t.hbm = s.hbm) ∧
    (∀ (c p seat f d : Nat) (u y : Task), x.creator = .launch c p seat (some f) → s.task p = some u → s.liveTask u.job u.taskid = some y →
      seat ∉ y.saved → y.cores[seat]? = some d → ∃ t, exec (.taskCompletionEffects n) s = .next t ∧
        t.core d = { s.core d with flagBuf := (s.core d).flagBuf ++ [(f, FlagOp.add 1)]
                                   children := (s.core d).children.filter (fun e => e.1 != n) } ∧
        t.tasks = s.tasks.filter (fun y => y.id != n) ∧ SameOthers d s t ∧ t.hbm = s.hbm)) ∧
  (∀ (s : State) (c : Nat), 0 < s.poolFree → (c, 0) ∈ s.launches → (∀ d, (d, 0) ∈ s.launches → c ≤ d) →
    exec .poolEntryFree s = .next { s with launches := s.launches.map (fun e => if e.1 = c then (c, 1) else e) }) ∧
  (∀ s : State, s.poolFree = 0 → exec .poolEntryFree s = .next s)

/-! The Foyer and graphs. -/

/-- 06 R133, 12 R239 to R242, 15 R300, R302, 18 R333: a doorbell waits behind a held access, is kept before RUN, is ignored for a queue with HALT set,
and lets a queue without a slot wait. A free slot takes the waiting queue; the
next packet of a bound queue is admitted, with RIDX one higher: a TASK packet becomes a task from its descriptor, a GRAPH packet an armed
graph. A slice, in I/O-die time, that ends restarts, retires after the packet being admitted, or hands its slot over; a queue without packets and work frees
it; a complete packet adds SVAL to its completion word, with its interrupt, pending where its vector is masked (PRESUMED, log 76). That a doorbell
waits behind a held access is the model's reading (DEDUCED, log 46, with R133). A virtual function's doorbells are left out. -/
def Obligations.FoyerCompletes : Prop :=
  (∀ (s : State) (fn : HostFn) (q : Nat) (e : QEntry), s.host.pstate ≠ 1 → s.host.ptarget ≠ some 1 → s.heldIo = [] →
    (s.host.stage ≠ 6 → exec (.doorbell fn q) s = .next { s with host := { s.host with doorbells := s.host.doorbells ++ [(fn.vf, q % 65536)] } }) ∧
    (s.host.stage = 6 → fn.vf = 0 → s.qUnread (q % 65536) = false → s.qHalted (q % 65536) = true → exec (.doorbell fn q) s = .next s) ∧
    (s.host.stage = 6 → fn.vf = 0 → s.qHalted (q % 65536) = false → s.qEntry (q % 65536) = .ok e → s.slotOf (q % 65536) = none →
      (∀ w ∈ s.waiting, w.1 ≠ q % 65536) → ∃ t, exec (.doorbell fn q) s = .next t ∧ t.waiting = s.waiting ++ [(q % 65536, s.clock)] ∧
        t.foyer = s.foyer ∧ t.tasks = s.tasks ∧ t.cores = s.cores ∧ t.hbm = s.hbm ∧ t.hostMem = s.hostMem)) ∧
  (∀ (s : State) (fn : HostFn) (q : Nat), s.heldIo ≠ [] →
    exec (.doorbell fn q) s = .next { s with heldIo := s.heldIo ++ [.doorbell fn q] }) ∧
  (∀ (s : State) (n q since : Nat) (e : QEntry), n < 128 → (s.slot n).state = .free → s.waiting = [(q, since)] → s.qEntry q = .ok e →
    e.halt = false → ∃ t, exec (.foyerBind n) s = .next t ∧ t.slot n = { state := .bound, queue := q, start := s.wall } ∧ t.waiting = [] ∧
      (∀ m, m ≠ n → t.slot m = s.slot m) ∧ t.cores = s.cores ∧ SameMemory s t) ∧
  (∀ (s s1 s2 : State) (n : Nat) (e : QEntry) (bs d : List Byte) (ns : List Node),
    let q := (s.slot n).queue
    let next (u : Nat) (h : Mem) : Mem := h.write (u + 0x18) (natToBytes 4 ((e.ridx + 1) % 2 ^ 32))
    let noted (a : Admitted) : Prop := a.queue = q ∧ a.index = e.ridx ∧ a.slot = n ∧ a.saddr = bword bs 0x10 ∧ a.due = false
    (s.slot n).state = .bound → s.qEntry q = .ok e → e.halt = false → s.nextPacket q e = .ok (some (s1, bs)) → s2.slot n = s.slot n →
    (bfield bs 0 3 0 = 1 → s1.readDesc e.job e.world (bword bs 8) (some e.prio) 0 = .ok (s2, d) → s2.entryForFoyer = true →
      ∃ t x a, exec (.packetAdmit n) s = .next t ∧ t.tasks = s2.tasks ++ [x] ∧ x.id = s2.serial ∧ x.state = .pending ∧
        x.creator = .packet q e.ridx ∧ x.job = e.job ∧ x.world = e.world ∧ x.prio = e.prio ∧ x.depth = 0 ∧
        x.args = (List.range 8).map (fun i => bword d (8 * i)) ∧ x.image = bfield d 0x40 15 0 ∧ x.nseats = bfield d 0x40 42 32 ∧
        t.hbm = next (s2.qAddr q) s2.hbm ∧ t.admitted = s2.admitted ++ [a] ∧ noted a ∧ t.cores = s2.cores) ∧
    (bfield bs 0 3 0 = 2 → s1.armNodes e (bword bs 8) (bfield bs 0 28 16) = .ok (s2, ns) →
      ∃ t g a, exec (.packetAdmit n) s = .next t ∧ t.graphs = s2.graphs ++ [g] ∧ g.nodes = ns ∧ g.ptr = bword bs 8 ∧ g.queue = q ∧
        g.index = e.ridx ∧ g.job = e.job ∧ g.world = e.world ∧ g.halted = false ∧ t.hbm = next (s2.qAddr q) s2.hbm ∧
        t.admitted = s2.admitted ++ [a] ∧ noted a ∧ t.tasks = s2.tasks ∧ t.cores = s2.cores)) ∧
  (∀ (s : State) (n : Nat) (e : QEntry),
    let x := s.slot n
    s.qEntry x.queue = .ok e →
    ((x.state = .bound ∨ x.state = .active) → x.start + e.slice * wallUnits ≤ s.wall → s.rivalled e.prio = false →
      exec (.foyerSliceExpiry n) s = .next (s.setSlot n { x with start := s.wall })) ∧
    (x.state = .active → x.start + e.slice * wallUnits ≤ s.wall → s.rivalled e.prio = true →
      exec (.foyerSliceExpiry n) s = .next (s.setSlot n { x with state := .retiring })) ∧
    (∀ p since q, x.state = .bound → x.start + e.slice * wallUnits ≤ s.wall → s.ready = [(p, since, q)] → e.prio ≤ p →
      ∃ t, exec (.foyerSliceExpiry n) s = .next t ∧ t.slot n = { state := .bound, queue := q, start := s.wall } ∧
        (e.ridx ≠ e.widx → e.halt = false → ∃ w ∈ t.waiting, w.1 = x.queue) ∧ t.cores = s.cores ∧ SameMemory s t) ∧
    (x.state = .bound → e.ridx = e.widx → s.queueBusy x.queue = false → ∃ t, exec (.foyerSlotFree n) s = .next t ∧ t.slot n = {} ∧
      t.cores = s.cores ∧ SameMemory s t) ∧
    (x.state = .bound → (e.ridx ≠ e.widx ∨ s.queueBusy x.queue = true) → exec (.foyerSlotFree n) s = .next s)) ∧
  (∀ (s u : State) (a : Admitted), s.admitted.find? (·.due) = some a →
    let s0 : State := { s with admitted := s.admitted.erase a
                               graphs := s.graphs.filter (fun g => !(g.queue == a.queue && g.index == a.index)) }
    (a.saddr = 0 → exec .completionWordAdd s = .next s0) ∧
    (a.saddr ≠ 0 → s0.ioAdd a.job a.world a.saddr.toNat a.sval = .ok u → ∃ t, exec .completionWordAdd s = .next t ∧ t.hbm = u.hbm ∧
      t.hostMem = u.hostMem ∧ t.admitted = u.admitted ∧ t.cores = u.cores ∧
      (u.msixMasked 0 (16 + a.slot) = false → (0, 16 + a.slot) ∈ t.msix) ∧
      (u.msixMasked 0 (16 + a.slot) = true → (0, 16 + a.slot) ∈ t.msixPend))) ∧
  (∀ s : State, s.admitted.find? (·.due) = none → exec .completionWordAdd s = .next s)

/-- 12 R245 to R252: the steps of graph nodes complete. A release with RUN starts a PENDING node whose count runs out and counts down any other; a
KERNEL node makes one task and is COMPLETE when it has triggered and ended; COND sends RUN along the list its word chooses and SKIP along the
other; LOOP runs its body again while its word is not zero and ITER is below its bound; WAIT polls every 512 cycles; SIGNAL adds to its word;
a spawn sorts its routing table by expert and makes a task for each tile. That a node's record is read anew in each step in which the node acts is
the model's reading (DEDUCED, log 44). -/
def Obligations.GraphNodesComplete : Prop :=
  (∀ (s : State) (gr n : Nat) (m : Mark) (g : Graph) (x : Node), s.graph gr = some g → g.nodes[n]? = some x → x.state = .pending →
    g.halted = false →
    let run := x.run || m == .run
    let becomes (y : Node) : Prop := ∃ t, exec (.nodeRelease gr n m) s = .next t ∧ t.node gr n = some y ∧ t.tasks = s.tasks ∧
      t.cores = s.cores ∧ SameMemory s t
    (x.count ≤ 1 → run = true → becomes { x with count := 0, run := true, state := .acting, since := s.clock }) ∧
    (1 < x.count → becomes { x with count := x.count - 1, run := run }) ∧
    (∀ g' u, x.count ≤ 1 → run = false → (s.modNode gr n (fun y => { y with count := 0, state := .skipped })).graph gr = some g' →
      (s.modNode gr n (fun y => { y with count := 0, state := .skipped })).passSkip g' n = .ok u → exec (.nodeRelease gr n m) s = .next u)) ∧
  (∀ (s : State) (gr n : Nat) (m : Mark) (g : Graph) (x : Node), s.graph gr = some g → g.nodes[n]? = some x →
    (x.state = .acting ∨ x.state = .complete) → exec (.nodeRelease gr n m) s = .next s) ∧
  (∀ (s u : State) (g : Graph) (x : Nat) (bs : List Byte) (m : Mark) (l : List Nat),
    s.successors g x (bword bs 0x18) (bfield bs 0x28 11 0) = .ok (u, l) →
    s.sendLists g x bs (some m) none = .ok { u with agenda := l.map (fun n => .run (.nodeRelease g.id n m)) ++ u.agenda }) ∧
  (∀ (s u v w : State) (gr n : Nat) (g : Graph) (x : Node) (bs d : List Byte) (word : W32), s.graph gr = some g → g.nodes[n]? = some x →
    x.state = .acting → (x.begun = true ∨ x.sentRun = false) →
    let tail := ((g.nodes[bfield bs 0x28 43 32]?).map (·.state)).getD .pending
    let holds := fcondHolds (fcondOf (bfield bs 0 20 18)) word (BitVec.ofNat 32 (bfield bs 0x10 31 0))
    (x.begun = false → x.waits = false → s.nodeRec g n = .ok (u, bs) → u.readDesc g.job g.world (bword bs 8) (some g.prio) 0 = .ok (v, d) →
      v.entryForNode = true → ∃ t y, exec (.nodeKernel gr n) s = .next t ∧ t.tasks = v.tasks ++ [y] ∧ y.id = v.serial ∧ y.state = .pending ∧
        y.creator = .node gr n ∧ y.job = g.job ∧ y.world = g.world ∧ y.prio = g.prio ∧
        y.args = (List.range 8).map (fun i => bword d (8 * i)) ∧ t.cores = v.cores ∧ t.hbm = v.hbm) ∧
    (x.begun = true → x.tiles = [] → x.sentRun = true → (∀ t ∈ s.tasks, t.madeBy gr n = true → t.allTriggered = true) →
      (∀ t ∈ s.tasks, t.keepsNode gr n = false) → ∃ t, exec (.nodeKernelComplete gr n) s = .next t ∧
        t.node gr n = some { x with state := .complete, waits := false } ∧ t.tasks = s.tasks ∧ t.cores = s.cores ∧ SameMemory s t) ∧
    (x.begun = true → x.tiles = [] → x.sentRun = false → (∀ t ∈ s.tasks, t.madeBy gr n = true → t.allTriggered = true) →
      s.nodeRec g n = .ok (u, bs) → u.sendLists g n bs (some .run) none = .ok v → (∃ t ∈ s.tasks, t.keepsNode gr n = true) →
      exec (.nodeKernelComplete gr n) s = .next (v.modNode gr n (fun y => { y with sentRun := true }))) ∧
    (s.nodeWord g n = .ok (u, bs, word) →
      (word ≠ 0 → u.sendLists g n bs (some .run) (some .skip) = .ok v → exec (.nodeCond gr n) s = .next (v.complete g n)) ∧
      (word = 0 → u.sendLists g n bs (some .skip) (some .run) = .ok v → exec (.nodeCond gr n) s = .next (v.complete g n)) ∧
      (x.begun = false → word ≠ 0 → x.iter < bfield bs 0x10 63 32 →
        u.rearm g (bfield bs 0x30 11 0) (bfield bs 0x30 27 16 + 1 - bfield bs 0x30 11 0) = .ok v →
        v.sendLists g n bs none (some .run) = .ok w → exec (.nodeLoop gr n) s = .next (w.modNode gr n (fun y => { y with begun := true }))) ∧
      (x.begun = false → (word = 0 ∨ bfield bs 0x10 63 32 ≤ x.iter) → u.sendLists g n bs (some .run) none = .ok v →
        exec (.nodeLoop gr n) s = .next (v.complete g n)) ∧
      (x.since ≤ s.clock → holds = true → u.sendLists g n bs (some .run) none = .ok v → exec (.nodeWait gr n) s = .next (v.complete g n)) ∧
      (x.since ≤ s.clock → holds = false →
        exec (.nodeWait gr n) s = .next (u.modNode gr n (fun y => { y with since := s.clock + 512 })))) ∧
    (s.clock < x.since → exec (.nodeWait gr n) s = .next s) ∧
    (s.nodeRec g n = .ok (u, bs) →
      (x.begun = true → (tail = .complete ∨ tail = .skipped) → ∃ t, exec (.nodeLoopIterate gr n) s = .next t ∧
        t.graphs = (u.modNode gr n (fun y => { y with iter := y.iter + 1, begun := false })).graphs ∧
        t.agenda = .run (.nodeLoop gr n) :: u.agenda ∧ t.cores = u.cores ∧ SameMemory u t) ∧
      (x.begun = true → tail ≠ .complete → tail ≠ .skipped → exec (.nodeLoopIterate gr n) s = .next u) ∧
      (u.ioAdd g.job g.world (bword bs 8).toNat (BitVec.ofNat 32 (bfield bs 0x10 31 0)) = .ok v →
        v.sendLists g n bs (some .run) none = .ok w → exec (.nodeSignal gr n) s = .next (w.complete g n))) ∧
    (x.begun = true → x.waits = false → x.tiles = [] → exec (.spawn gr n) s = .next s)) ∧
  (∀ (s u v w : State) (gr n q : Nat) (rest : List Nat) (g : Graph) (x : Node) (bs d b : List Byte), s.graph gr = some g →
    g.nodes[n]? = some x → x.state = .acting → x.begun = true → x.waits = false → x.tiles = q :: rest → s.entryForNode = true →
    s.nodeRec g n = .ok (u, bs) → u.ioStruct g.job g.world (bword bs 8).toNat 64 = .ok (v, d) → v.readTemplate g (bword d 0) = .ok (w, b) →
    ∃ t y, s.spawnNext g n x false = .ok t ∧ t.tasks = w.tasks ++ [y] ∧ y.creator = .tile gr n x.tile ∧ y.job = g.job ∧ y.world = g.world ∧
      y.args.getD 6 0 = word64 (q / 2 ^ 64) ∧ y.args.getD 7 0 = word64 q ∧
      (∀ z, t.spawnTiles gr n poolSize = .ok z → exec (.spawn gr n) s = .next z)) ∧
  (∀ l : List Route, (sortRoutes l).Perm l ∧ (sortRoutes l).Pairwise (fun a b => a.le b = true)) ∧
  (∀ (s u v : State) (gr n : Nat) (g : Graph) (x : Node), s.graph gr = some g → g.nodes[n]? = some x → x.state = .acting → x.begun = false →
    x.waits = false → x.sentRun = false → s.spawnStart g n = .ok u → u.spawnTiles gr n (poolSize + 1) = .ok v →
    exec (.spawn gr n) s = .next v)

/-! The host. -/

/-- 04 R84, 14 R276, 15 R291, R298 to R302, 23 R414: writes of the host's registers complete. A cap of 2,000 to 6,000 W applies, in P2 at its exit;
a clock step is 100 MHz, and one up never leads above the cap; DIAGINJ is closed while a sealed world is loaded; VAPERTURE is its own world's; MMAP and SEGTAB entries keep their
defined bits; an offset of PF BAR0 reaches its register from HOSTLINK on. The invalidate command drops the cached translations of its range
and is over when the accesses that had one have performed. When DIAGINJ counts as closed is the model's choice (log 49), and so is that a step of
the clock outside the range, an entry of MMAP from 4,096 and one of SEGTAB from 16 have no effect (log 7), and a step above the cap (log 76). That
writes wait behind a held access is its reading (DEDUCED, log 46, with 06 R133). -/
def Obligations.HostRegistersComplete : Prop :=
  (∀ (s : State) (v : Word) (mhz m k w : Nat) (fn : HostFn),
    let cap := field v 12 0
    let legal := 800 ≤ mhz ∧ mhz ≤ 1600 ∧ mhz % 100 = 0 ∧ ((mhz = s.host.freq + 100 ∧ s.overCap mhz = false) ∨ mhz + 100 = s.host.freq)
    let opens := ∀ j ∈ s.jobs, ∀ x ∈ j.worlds, x.num = 0 ∨ x.worldKey = 0
    let host (f : HostRegs) : State := { s with host := f }
    (2000 ≤ cap → cap ≤ 6000 →
      (s.host.pstate ≠ 2 → exec (.pcap v) s = .next (host { s.host with pcap := cap })) ∧
      (s.host.pstate = 2 → exec (.pcap v) s = .next (host { s.host with pcapNext := some cap }))) ∧
    ((cap < 2000 ∨ 6000 < cap) → exec (.pcap v) s = .next s) ∧
    (legal → exec (.clockStep mhz) s = .next (host { s.host with freq := mhz, wallBase := s.wall, wallClock := s.clock })) ∧ (¬ legal → exec (.clockStep mhz) s = .next s) ∧
    (opens → exec (.diaginj v) s = .next (host { s.host with diaginj := v &&& 0xFFFF1F7F })) ∧
    (¬ opens → exec (.diaginj v) s = .next s) ∧
    (s.heldIo = [] → fn.vf ≠ 0 → fn.ideMatch = true → s.tdiOf fn.vf = .run → (s.ownerOf fn.vf).map (·.id) = some (field v 15 0) →
      exec (.vaperture fn v) s =
        .next (host { s.host with vaperture := sset 0 fn.vf (v &&& 0x3FFFFE00000FFFF) s.host.vaperture })) ∧
    (s.heldIo = [] → (fn.vf = 0 ∨ fn.ideMatch = false ∨ s.tdiOf fn.vf ≠ .run) → exec (.vaperture fn v) s = .next s) ∧
    (s.heldIo ≠ [] → exec (.vaperture fn v) s = .next { s with heldIo := s.heldIo ++ [.vaperture fn v] }) ∧
    (m < 4096 → exec (.mmap m v) s =
      .next (host { s.host with mmap := sset 0 (s.host.jobSel * 4096 + m) (v &&& 0x7FFFF) s.host.mmap })) ∧
    (4096 ≤ m → exec (.mmap m v) s = .next s) ∧
    (k < 16 → w < 2 → ∃ t, exec (.segtab k w v) s = .next t ∧ t.cores = s.cores ∧ SameMemory s t ∧
      sget 0 t.host.segtab (segAddr s.host.jobSel s.host.worldSel k w) = (v &&& (if w = 0 then 0x7FFFF else 0x3FFFFF003FFFFF))) ∧
    (∀ x, k < 16 → w < 2 → s.worldOf s.host.jobSel s.host.worldSel = some x → ∃ t, exec (.segtab k w v) s = .next t ∧
      t.worldOf s.host.jobSel s.host.worldSel =
        some { x with segs := sset 0 (2 * k + w) (v &&& (if w = 0 then 0x7FFFF else 0x3FFFFF003FFFFF)) x.segs }) ∧
    ((16 ≤ k ∨ 2 ≤ w) → exec (.segtab k w v) s = .next s)) ∧
  (∀ (s : State) (off : Nat) (v : Word), s.heldIo ≠ [] →
    exec (.registerWrite off v) s = .next { s with heldIo := s.heldIo ++ [.registerWrite off v] }) ∧
  (∀ (s : State) (off : Nat) (v : Word), s.heldIo = [] → (s.host.stage < 3 → exec (.registerWrite off v) s = .next s) ∧
    (3 ≤ s.host.stage →
      let host (f : HostRegs) : Out := .next { s with host := f }
      (s.host.stage ≤ 4 →
        exec (.registerWrite 0x20 v) s =
          host { s.host with featDrv := 0x7FF &&& ((s.host.featDrv.extractLsb' 64 64 : BitVec 64) ++ v) } ∧
        exec (.registerWrite 0x28 v) s = host { s.host with featDrv := 0x7FF &&& (v ++ (s.host.featDrv.setWidth 64 : BitVec 64)) }) ∧
      (4 < s.host.stage → exec (.registerWrite 0x20 v) s = .next s ∧ exec (.registerWrite 0x28 v) s = .next s) ∧
      exec (.registerWrite 0x48 1) s = exec .ctlNeg s ∧ exec (.registerWrite 0x48 2) s = exec .ctlGo s ∧
      exec (.registerWrite 0x50 v) s = host { s.host with qtBase := v &&& 0x1FFFFFFFFC0 } ∧
      exec (.registerWrite 0x60 v) s = host { s.host with jobSel := field v 15 0, worldSel := field v 20 16 } ∧
      exec (.registerWrite 0x88 v) s = host { s.host with inv := sset 0 0x88 (v &&& 0x1FFFFFFFFFFFFFF) s.host.inv } ∧
      exec (.registerWrite 0xA0 v) s = host { s.host with aperture := v &&& 0x3FFFFE00000FFFF } ∧
      exec (.registerWrite 0x98 1) s = exec .invalidateCommand s ∧ exec (.registerWrite 0xC8 v) s = exec (.pcap v) s ∧
      exec (.registerWrite 0x100 v) s = exec (.diaginj v) s ∧
      exec (.registerWrite 0x1000 v) s = exec (.doorbell {} (field v 15 0)) s ∧
      (∀ m, m < 4096 → exec (.registerWrite (0x10000 + 8 * m) v) s = exec (.mmap m v) s) ∧
      (∀ k w, k < 16 → w < 2 → exec (.registerWrite (0x18000 + 16 * k + 8 * w) v) s = exec (.segtab k w v) s))) ∧
  (∀ s : State,
    (s.host.invBusy = true → exec .invalidateCommand s = .next s) ∧
    (s.host.invBusy = false → ∃ t, exec .invalidateCommand s = .next t ∧ t.host.invBusy = true ∧
      t.host.invNow = (s.invJob.1, s.invJob.2, (sget 0 s.host.inv 0x88).toNat, (sget 0 s.host.inv 0x90).toNat) ∧
      (∀ c, (s.core c).placed = true → (s.core c).job = s.invJob.1 → (s.core c).world = s.invJob.2 →
        (t.core c).tcache = (s.core c).tcache.filter (fun e => !t.inRange e.vbase e.len)) ∧
      (∀ c, (t.core c).rf = (s.core c).rf ∧ (t.core c).pend = (s.core c).pend) ∧ SameMemory s t) ∧
    (s.host.invBusy = true → (∀ m ∈ s.host.invMarks, s.oldAccess m = false) →
      exec .invalidateComplete s = .next { s with host := { s.host with invBusy := false, invMarks := [] } }) ∧
    ((s.host.invBusy = false ∨ ∃ m ∈ s.host.invMarks, s.oldAccess m = true) → exec .invalidateComplete s = .next s))

/-- 04 R85, 15 R291, R292, 21 R374: accesses by the memory aperture complete: a read answers its bytes or a Completer Abort, a write is performed or
discarded, an AtomicOp answers the old value; outside the aperture, and for a world whose TDI does not run, the answer is an Unsupported Request. A copy of ciphertext moves the
bytes of its sectors and gives those placed in HBM the generation of the slot it names. -/
def Obligations.HostAccessesComplete : Prop :=
  (∀ (s u t w : State) (fn : HostFn) (off n job world va a unit : Nat) (code : Code) (bs data : List Byte) (wide : Bool) (x y : Word),
    let size := if wide then 8 else 4
    let old := word64 (bytesToNat bs)
    s.heldIo = [] →
    (s.aperture fn off n 1 = .ok (job, world, va) →
      (s.ioRead job world va n = .ok (u, bs) → exec (.bar2Read fn off n) s = .next { u with hostOut := u.hostOut ++ [.data bs] }) ∧
      (s.ioRead job world va n = .bad w code a unit → ∃ t, exec (.bar2Read fn off n) s = .next t ∧ t.hostOut = w.hostOut ++ [.completerAbort] ∧
        (∃ r ∈ t.log, r.code = code ∧ r.sev = 0 ∧ r.src = 2 ∧ r.unit = unit) ∧ t.cores = w.cores ∧ SameMemory w t) ∧
      (data.length = n → s.ioWrite job world va data = .ok u → exec (.bar2Write fn off data) s = .next u)) ∧
    (s.aperture fn off size size = .ok (job, world, va) →
      (n = size → s.ioRead job world va n = .ok (u, bs) →
        (u.ioWrite job world va (natToBytes n (if old = operand wide x then y else old).toNat) = .ok t →
          exec (.bar2AtomicCas fn off wide x y) s = .next { t with hostOut := t.hostOut ++ [.data bs] }) ∧
        (u.ioWrite job world va (natToBytes n (old + x).toNat) = .ok t →
          exec (.bar2AtomicFetchadd fn off wide x) s = .next { t with hostOut := t.hostOut ++ [.data bs] }))) ∧
    (∀ r, s.aperture fn off n 1 = .error (some r) → ∃ t, exec (.bar2Read fn off n) s = .next t ∧ t.hostOut = s.hostOut ++ [.unsupported] ∧
      (∃ x ∈ t.log, x.code = r.code) ∧ t.cores = s.cores ∧ SameMemory s t) ∧
    (s.aperture fn off n 1 = .error none → exec (.bar2Read fn off n) s = .next { s with hostOut := s.hostOut ++ [.unsupported] } ∧
      (data.length = n → exec (.bar2Write fn off data) s = .next s))) ∧
  (∀ (s : State) (fn : HostFn) (off n align : Nat),
    let reg := s.host.aperture
    fn.vf = 0 →
    (field reg 15 0 ≠ 0 → off + n ≤ 2 ^ 36 → off % align = 0 →
      s.aperture fn off n align = .ok (field reg 15 0, 0, (field reg 57 37 * 2 ^ 36 + off) % 2 ^ 57)) ∧
    ((field reg 15 0 = 0 ∨ 2 ^ 36 < off + n ∨ off % align ≠ 0) → s.aperture fn off n align = .error none)) ∧
  (∀ (s : State) (fn : HostFn) (off n align : Nat), fn.vf ≠ 0 → (fn.ideMatch = false ∨ s.tdiOf fn.vf ≠ .run) →
    ∃ r, s.aperture fn off n align = .error (some r) ∧ r.code = .tdierror ∧ r.src = 2) ∧
  (∀ (s : State) (src dst n slot : Nat), src % 32 = 0 → dst % 32 = 0 →
    let out (m old from_ : Mem) : Prop :=
      ∀ a, m.byte a = if dst ≤ a ∧ a < dst + 32 * n then from_.byte (src + (a - dst)) else old.byte a
    (∃ t, exec (.hostTransferEngineCopy src dst n slot false true) s = .next t ∧ out t.hbm s.hbm s.hostMem ∧ t.hostMem = s.hostMem ∧
      (∀ j, j < n → (sget {} t.sectors (dst / 32 + j)).gen = (sget {} s.keys slot).gen) ∧ t.cores = s.cores ∧ t.keys = s.keys) ∧
    ((∀ j, j < n → (sget {} s.sectors (src / 32 + j)).poison = false ∧ (sget {} s.sectors (src / 32 + j)).soft = 0) →
      ∃ t, exec (.hostTransferEngineCopy src dst n slot true false) s = .next t ∧ out t.hostMem s.hostMem s.hbm ∧ t.hbm = s.hbm ∧
      t.sectors = s.sectors ∧ t.cores = s.cores ∧ t.keys = s.keys))

/-- 14 R285, Table 14.7, 15 R299 to R302, Table 15.6: power states, boot stages and resets complete. A request is kept while a transition goes on,
else it begins one, which from P1 or P2 leads to P0 first; the transition is done when what it waits for is so, and P3 loses seats, keys, jobs and HBM. POWER_ON and HOT_RESET leave
no seat; a hot reset keeps HBM with every key slot empty. A boot stage that is done goes to the next; CTL.NEG accepts the features offered and
asked for; CTL.GO enters RUN. That HBM reads as empty after P3 and after POWER_ON is log 2, that a hot reset keeps the generations of the key slots
log 48, when a power state is entered log 58, that a request of P1 or P2 made in P3 has no effect logs 7 and 58, and which interrupts are masked and
pending log 76 (PRESUMED). -/
def Obligations.PowerAndBootComplete : Prop :=
  (∀ s : State,
    let asks (i : Instr) (goal : Nat) : Prop :=
      (s.host.ptarget ≠ none → exec i s = .next { s with host := { s.host with pnext := some goal } }) ∧
      (s.host.ptarget = none → s.host.pstate = goal → exec i s = .next s) ∧
      (s.host.ptarget = none → s.host.pstate ≠ goal → s.host.pstate ≠ 3 → ∃ t, exec i s = .next t ∧
        t.host.ptarget = some (if s.host.pstate = 0 ∨ goal = 3 then goal else 0) ∧
        t.host.pnext = (if s.host.pstate = 0 ∨ goal = 3 ∨ goal = 0 then none else some goal) ∧ t.host.pstate = s.host.pstate ∧ t.cores = s.cores ∧ t.tasks = s.tasks ∧ SameMemory s t ∧
        (goal = 2 → s.host.pstate = 0 → ∀ x ∈ s.tasks, x.state = .running → s.task x.id = some x → ∃ p ∈ t.preempts, p.task = x.id)) ∧
      (s.host.ptarget = none → s.host.pstate = 3 → goal ≠ 3 → goal ≠ 0 → exec i s = .next s)
    asks .pstateP0Run 0 ∧ asks .pstateP1Gated 1 ∧ asks .pstateP2Retention 2 ∧ asks .pstateP3Off 3 ∧
    (s.host.ptarget = none → s.host.pstate = 3 → ∃ t, exec .pstateP0Run s = .next t ∧ t.host.stage = 1 ∧ t.host.pstate = 0 ∧ t.cores = []) ∧
    (∀ goal, s.host.ptarget = some goal →
      (s.powerReady goal = false → exec .pstateTransitionDone s = .next s) ∧
      (s.powerReady goal = true → s.host.pnext = none → goal ≠ 3 → let u := if goal = 2 then s.flushTraces.darkenCores else s
        exec .pstateTransitionDone s = .next { u with host := { s.host with
        pstate := goal, ptarget := none, pcap := if s.host.pstate = 2 then s.host.pcapNext.getD s.host.pcap else s.host.pcap
        pcapNext := if s.host.pstate = 2 then none else s.host.pcapNext } }) ∧
      (s.powerReady goal = true → s.host.pnext = none → goal = 3 → ∃ t, exec .pstateTransitionDone s = .next t ∧ t.host.pstate = 3 ∧
        t.host.ptarget = none ∧ t.cores = [] ∧ t.keys = [] ∧ t.jobs = [] ∧ t.hbm = [] ∧ t.hostMem = s.hostMem)) ∧
    (s.host.ptarget = none → exec .pstateTransitionDone s = .next s)) ∧
  (∀ s : State,
    let gone (t : State) : Prop := t.cores = [] ∧ t.tasks = [] ∧ t.jobs = [] ∧ t.sessions = [] ∧ t.host.stage = 0 ∧ t.hostMem = s.hostMem ∧
      t.host.replace = s.host.replace ∧ (∀ g, (t.gal g).vault = []) ∧
      ∀ g, ((s.gal g).fenced = true ∨ (s.gal g).retired ≠ []) → (t.gal g).fenced = (s.gal g).fenced ∧ (t.gal g).retired = (s.gal g).retired
    (∃ t, exec .powerOn s = .next t ∧ gone t ∧ t.hbm = [] ∧ t.keys = []) ∧
    (∃ t, exec .hotReset s = .next t ∧ gone t ∧ t.hbm = s.hbm ∧ t.sectors = s.sectors ∧ ∀ k, (sget {} t.keys k).live = false)) ∧
  (∀ s : State,
    let goes (i : Instr) (n : Nat) : Prop := ∃ t, exec i s = .next t ∧ t.host.stage = n ∧ t.cores = s.cores ∧ SameMemory s t ∧
      (s.msixMasked 0 3 = false → (0, 3) ∈ t.msix) ∧ (s.msixMasked 0 3 = true → (0, 3) ∈ t.msixPend)
    (s.host.stage < 4 → s.host.stageAt ≤ s.clock → goes .bootStageComplete (s.host.stage + 1)) ∧
    ((4 ≤ s.host.stage ∨ s.clock < s.host.stageAt) → exec .bootStageComplete s = .next s) ∧
    (s.host.stage = 4 → s.host.featDrv.getLsbD 0 = true → goes .ctlNeg 5) ∧
    (s.host.stage = 4 → ∃ t, exec .ctlNeg s = .next t ∧ t.host.featAcc = 0x7FF &&& s.host.featDrv) ∧
    (s.host.stage = 4 → s.host.featDrv.getLsbD 0 = false → exec .ctlNeg s = .next { s with host := { s.host with
      featAcc := 0x7FF &&& s.host.featDrv } }) ∧
    (s.host.stage ≠ 4 → exec .ctlNeg s = .next s) ∧
    (s.host.stage = 5 → goes .ctlGo 6) ∧ (s.host.stage ≠ 5 → exec .ctlGo s = .next s))

/-- 02 R28, 14 R275 to R289, 18 R329: the commands of the root of trust and of the driver complete. A pair is loaded into an EMPTY slot of its owner,
whose generation rises by one modulo 32, and destroyed to EMPTY; an image that passes its checks is placed, measured and given a fresh world
key; a TDI moves as TDISP allows; hashes and policies are the owner's; a job is created with what its specification says; a debugger of
invasive level halts and releases a seat, and reads and writes its registers, in P0; outside it the access is held. Measurements and keys themselves are uninterpreted (log 6); the form of relocations (log 47), what GET_MEASUREMENTS
answers (log 55), and that a debugger's reads are answered at the host's port (log 77) are the model's choices. -/
def Obligations.KeysAndImagesComplete : Prop :=
  (∀ (s : State) (slot job world wrapped : Nat) (owner : Nat × Nat), s.sessionsUp = true →
    let k : KeySlot := sget {} s.keys slot
    (1 ≤ slot → slot ≤ 65535 → (s.worldOf job world).isSome = true →
      let loaded (i : Instr) : Prop := ∃ t, exec i s = .next t ∧ sget {} t.keys slot =
          { live := true, gen := (k.gen + 1) % 32, job := job, world := world, owner := (job, world), serial := s.serial } ∧
        (∀ n, n ≠ slot → sget {} t.keys n = sget {} s.keys n) ∧ t.serial = s.serial + 1 ∧ t.hbm = s.hbm ∧ t.cores = s.cores
      (k.live = false → loaded (.keyNew (job, world) slot job world) ∧
        ((∀ e ∈ s.imports, ¬(e.1 = (job, world) ∧ e.2.1 = wrapped)) → loaded (.keyImport (job, world) slot job world wrapped)) ∧
        (∀ n, s.imports.find? (fun e => e.1 == (job, world) && e.2.1 == wrapped) = some ((job, world), wrapped, n) → ∃ t, exec (.keyImport (job, world) slot job world wrapped) s = .next t ∧
          sget {} t.keys slot = { live := true, gen := (k.gen + 1) % 32, job := job, world := world, owner := (job, world), serial := n } ∧
          t.hbm = s.hbm ∧ t.cores = s.cores)) ∧
      (k.live = true → exec (.keyNew owner slot job world) s = .next s)) ∧
    (slot ≠ 0 → k.live = true → k.owner = owner → ∃ t, exec (.keyDestroy owner slot) s = .next t ∧ sget {} t.keys slot = { gen := k.gen } ∧
      (∀ n, n ≠ slot → sget {} t.keys n = sget {} s.keys n) ∧ t.hbm = s.hbm ∧ t.cores = s.cores) ∧
    (k.owner ≠ owner → exec (.keyDestroy owner slot) s = .next s)) ∧
  (∀ (s : State) (world : Nat) (w : World), s.sessionsUp = true →
    s.jobs.findSome? (fun j => j.worlds.find? (fun w => w.num == world && w.worldKey != 0)) = some w →
    exec (.getMeasurements world) s = .next { s with hostOut := s.hostOut ++ [.data (natToBytes 48 w.measurement)] }) ∧
  (∀ (s s1 s2 s3 : State) (x : ImageSpec) (w : World) (j : Job) (h body : List Byte), s.sessionsUp = true → x.world = 0 →
    s.worldOf x.job x.world = some w → s.ioRead x.job x.world x.va 256 = .ok (s1, h) → s1.badHeader h x = false →
    let tl := hfield h 0x14 16 0
    let cl := hfield h 0x14 31 17
    let dl := (bword h 0x18).toNat
    let data := relocate x.dataVa ((body.drop (padded tl + padded cl)).take dl) x.relocs
    s1.ioRead x.job x.world (x.va + 256) (padded tl + padded cl + padded dl) = .ok (s2, body) →
    ((data = [] ∧ s3 = s2) ∨ (data ≠ [] ∧ s2.ioWrite x.job x.world x.dataVa data = .ok s3)) → s3.job x.job = some j →
    ∃ t u, exec (.imageLoad x) s = .next t ∧ t.job x.job = some u ∧ t.serial = s.serial + 1 ∧ t.hbm = s3.hbm ∧ t.cores = s3.cores ∧
      (∃ i ∈ u.images, i.id = x.image ∧ i.world = 0 ∧ i.text = body.take tl ∧ i.const = (body.drop (padded tl)).take cl ∧
        i.entry = x.entry ∧ i.nseats = x.nseats ∧ i.debug = x.debug ∧ i.channels = x.channels.map (fun e => (e.1, Machine.ChanDecl.words e.2 e.1)) ∧ i.extents = x.extents ∧
        i.regions = x.regions) ∧ ∀ v ∈ u.worlds, v.num = 0 → v.worldKey = s.serial ∧ v.debug = x.debug) ∧
  (∀ (s : State) (x : ImageSpec) (w : World), s.worldOf x.job x.world = some w → x.world ≠ 0 → w.tdi ≠ .locked →
    exec (.imageLoad x) s = .next s) ∧
  (∀ (s : State) (world : Nat) (j : Job) (t : Tdi), s.ownerOf world = some j →
    (world ≠ 0 → s.accepted 6 = true → tdiMove (s.tdiOf world) t = true → (t = .locked ∨ t = .run) → ∃ u, exec (.tdiStateChange world t) s = .next u ∧
      (∀ x ∈ u.jobs, x.id = j.id → ∀ w ∈ x.worlds, w.num = world → w.tdi = t) ∧ u.cores = s.cores ∧ SameMemory s u) ∧
    ((world = 0 ∨ s.accepted 6 = false ∨ tdiMove (s.tdiOf world) t = false) → exec (.tdiStateChange world t) s = .next s)) ∧
  (∀ (s : State) (job world hash : Nat) (table : Sparse W32), s.sessionsUp = true → world ≠ 0 →
    (∃ t, exec (.signerHashSet job world hash) s = .next t ∧
      (∀ x ∈ t.jobs, x.id = job → ∀ w ∈ x.worlds, w.num = world → w.hash = some hash) ∧ t.cores = s.cores ∧ SameMemory s t) ∧
    (∃ t, exec (.faultPolicySet job world table) s = .next t ∧
      (∀ x ∈ t.jobs, x.id = job → ∀ w ∈ x.worlds, w.num = world → w.policy = some (table.filter (fun e => decide (e.1 < 512)))) ∧
      t.cores = s.cores ∧ SameMemory s t)) ∧
  (∀ (s : State) (x : JobSpec), s.sessionsUp = true → s.job x.job = none → 1 ≤ x.job → x.job ≤ 65535 → s.worldsOk x.worlds = true →
    x.dumpBase % 2 ^ 20 = 0 → x.ctxBase % 2 ^ 20 = 0 → x.limit < 2 ^ 48 → ∃ t j, exec (.jobCreate x) s = .next t ∧
      t.job x.job = some j ∧ j.limit = x.limit ∧ j.dlc = 0 ∧ j.dumpBase = x.dumpBase ∧ j.dumpLen = x.dumpLen ∧ j.ctxBase = x.ctxBase ∧
      j.ctxLen = x.ctxLen ∧ j.images = [] ∧ j.aborted = false ∧
      j.worlds = x.worlds.map (fun w => { num := w.1, troot := w.2, segs := s.segsOf x.job w.1, policy := if w.1 = 0 then x.policy else none }) ∧
      t.cores = s.cores ∧ SameMemory s t) ∧
  (∀ (s : State) (c : Nat) (act : DebugAct) (n : SReg) (q : PReg) (v : Word) (f : FReg) (x : W32) (h : TReg) (row : BitVec 6)
      (vec : Vec) (ch : ChReg) (sp : BitVec 10) (cp : BitVec 3),
    let k := s.core c
    (s.host.pstate ≠ 0 → exec (.debuggerRelease c act) s = .next { s with heldDebug := s.heldDebug ++ [.debuggerRelease c act] }) ∧
    (s.host.pstate = 0 → (k.placed = false ∨ k.debug ≠ 2) → exec (.debuggerRelease c act) s = .next s) ∧
    (s.host.pstate = 0 → k.placed = true → k.debug = 2 →
      let does (a : DebugAct) (x : Core) : Prop := ∃ t, exec (.debuggerRelease c a) s = .next t ∧ t.core c = x ∧ SameMemory s t ∧ SameOthers c s t
      let answers (a : DebugAct) (bs : List Byte) : Prop := exec (.debuggerRelease c a) s = .next { s with hostOut := s.hostOut ++ [.data bs] }
      does .halt { k with debugHalt := true } ∧ does .go { k with debugHalt := false } ∧
      does (.writeS n v) { k with rf := k.rf.setS n.toNat v false } ∧ does (.writeP q v) { k with rf := k.rf.setP q.toNat v } ∧
      does (.writeF f x) { k with flags := sset 0 f.toNat x k.flags } ∧
      does (.writeT h row vec) (k.setTile h.toNat (· == row.toNat) ((k.tile h.toNat).set row.toNat vec)) ∧
      (∀ i, does (.writeV i vec) { k with rf := k.rf.setV i vec (BitVec.allOnes 2048) 0 }) ∧
      (∀ w, does (.writeCh ch w v) { k with rf := { k.rf with
        chans := sset {} ch.toNat ((sget {} k.rf.chans ch.toNat).setWord w v) k.rf.chans } }) ∧
      (specialWritable sp.toNat = true → does (.writeX sp v) (k.writeSpecial sp.toNat (k.rf.srwrValue sp.toNat v))) ∧
      (specialWritable sp.toNat = false → exec (.debuggerRelease c (.writeX sp v)) s = .next s) ∧
      does (.writeC cp v) { k with seq := { k.seq with c := k.seq.c.set cp.toNat v } } ∧
      answers (.readS n) (natToBytes 8 (k.rf.sreg n.toNat).toNat) ∧ answers (.readP q) (natToBytes 8 (k.rf.preg q.toNat).toNat) ∧
      (∀ i, answers (.readV i) (vecBytes (k.rf.vreg i))) ∧ answers (.readF f) (natToBytes 4 (flagOf k.flags f.toNat).toNat) ∧
      answers (.readT h row) (vecBytes ((k.tile h.toNat).getD row.toNat 0)) ∧
      (∀ w, answers (.readCh ch w) (natToBytes 8 ((sget {} k.rf.chans ch.toNat).word w).toNat)) ∧
      answers (.readX sp) (natToBytes 8 ((k.special k.rf sp.toNat).getD 0).toNat) ∧
      answers (.readC cp) (natToBytes 8 (k.seq.c.getD cp.toNat 0).toNat)))

/-! The fabric. -/

/-- 14 R283, 18 R335, 21 R385, R386, R422: the steps of links complete: keys of both directions and a salt derived at RUN for a port in service,
fresh ones after 2^32 records or at the other end's asking, a bad flit counts as corrected, a link that goes down loses its keys and sends
what was not acknowledged elsewhere, or later, or loses it, and a link that does not train within 100 ms takes its port out of service.
Keys as the numbers that come next, and the salt derived from one, are the model's choice (DESIGN CHOICE, log 6). -/
def Obligations.LinksComplete : Prop :=
  ∀ (s : State) (n m : Nat) (p q : Packet) (b : Bool),
    let x : Port := sget {} s.ports n
    let keeps (t : State) : Prop := t.cores = s.cores ∧ SameMemory s t ∧ ∀ j, j ≠ n → sget {} t.ports j = sget {} s.ports j
    let fresh : Port := { x with keyOut := s.serial, keyIn := s.serial + 1, salt := Config.linkSalt s.serial, sent := 0, recvd := 0 }
    let down : Port := { x with linkUp := false, keyed := false, downSince := s.wall }
    let quiet : Prop := ∀ e ∈ s.unacked, e.1.port ≠ n ∧ e.2 = false
    (x.inService = true → s.host.stage = 6 → ∃ t, exec (.linkKeyDerive n) s = .next t ∧
      (sget {} t.ports n).keyed = true ∧ (sget {} t.ports n).linkUp = true ∧ (sget {} t.ports n).keyOut = s.serial ∧
      (sget {} t.ports n).keyIn = s.serial + 1 ∧ (sget {} t.ports n).salt = Config.linkSalt s.serial ∧
      ((∀ e ∈ s.unacked, e.2 = false) → s.replies = [] → keeps t ∧
        sget {} t.ports n = { fresh with keyed := true, linkUp := true })) ∧
    ((x.inService = false ∨ s.host.stage ≠ 6) → exec (.linkKeyDerive n) s = .next s) ∧
    (x.keyed = true → (2 ^ 32 ≤ x.sent ∨ 2 ^ 32 ≤ x.recvd) → ∃ t, exec (.linkRekey n) s = .next t ∧ keeps t ∧ sget {} t.ports n = fresh) ∧
    ((x.keyed = false ∨ (x.sent < 2 ^ 32 ∧ x.recvd < 2 ^ 32)) → exec (.linkRekey n) s = .next s) ∧
    (∃ t, exec (.flitCrcFail n) s = .next t ∧ keeps t ∧ sget {} t.ports n = { x with crcFails := x.crcFails + 1 } ∧
      sget 0 t.corrected (portUnit n) = sget 0 s.corrected (portUnit n) + 1) ∧
    (∃ t, exec (.linkdown n) s = .next t ∧ (sget {} t.ports n).linkUp = false ∧ (sget {} t.ports n).keyed = false ∧
      (quiet → keeps t ∧ sget {} t.ports n = down ∧ ∃ r ∈ t.log, r.code = .linkdown ∧ r.unit = portUnit n) ∧
      (s.unacked = [(q, b)] → q.port = n →
        let u := s.modPort n (fun _ => down)
        (u.sendPort q.job.toNat q.dmod.toNat = .port m → { q with port := m } ∈ t.out ∧ t.unacked = [({ q with port := m }, false)] ∧ t.cores = s.cores ∧ SameMemory s t) ∧
        (u.sendPort q.job.toNat q.dmod.toNat = .notYet → t.unacked = [(q, true)] ∧ keeps t) ∧
        (u.sendPort q.job.toNat q.dmod.toNat = .unreachable → t.unacked = [] ∧ SameMemory s t ∧ ∃ r ∈ t.log, r.code = .linkdown ∧ r.identity = q.identity))) ∧
    (x.linkUp = false → x.inService = true → x.downSince + 100000 * wallUnits ≤ s.wall → quiet →
      ∃ t, exec (.linkRetrainTimeout n) s = .next t ∧ keeps t ∧ sget {} t.ports n = { x with inService := false }) ∧
    ((x.linkUp = true ∨ x.inService = false ∨ s.wall < x.downSince + 100000 * wallUnits) → exec (.linkRetrainTimeout n) s = .next s) ∧
    (p.port = n → p.ty.toNat = 0x1F → x.inService = true → p.tagOk = true → x.keyed = true → ∃ t, exec (.flightLinkArrival p) s = .next t ∧
      keeps t ∧ sget {} t.ports n = fresh)

/-- 06 R125, 11 R225 to R227, 13 R266, 15 R297, 21 R379 to R382, 22 R404: arrivals complete. An operation of the own module, or a packet next in its
pair's order that passes its checks, performs: data at the destination's near SRAM, the flag's addition, value or bounded addition to the
seat's flag port, FETCH with the bytes back to the requester; a published slot whose residue agrees raises its flag, another leaves
RESARRIVE. One for a task not placed yet is held; one whose target is wrong is rejected with PODTARGET, one that no
segment entry admits with SEGMENT. That a packet of the own module whose tag is retired has no effect is the model's reading (DEDUCED, log 35; R379
gives the rows that are checked). The places of PCH and of the request tag in AUX are the model's choice (DESIGN CHOICE, log 18); when a tag is
live is its reading (DEDUCED, log 19). -/
def Obligations.ArrivalsComplete : Prop :=
  (∀ (s : State) (p : Packet),
    let r := s.received p.port
    let performs (ty : Nat) (i : Instr) : Prop := p.ty.toNat = ty →
      (36 ≤ p.port → s.tagRetired p = false → s.worldOk p = true → exec i s = .next (s.settle p)) ∧
      (36 ≤ p.port → s.tagRetired p = false → s.worldOk p = false → exec i s = .next (s.rejectPacket p .segment)) ∧
      (36 ≤ p.port → s.tagRetired p = true → exec i s = .next s) ∧
      (p.port < 36 → (sget {} s.ports p.port).inService = true → p.tagOk = true → s.tagLive p = true → s.worldOk p = true →
        s.host.diaginj.getLsbD 0 = false →
        (p.paired = false → s.seenRequest p = false → s.spillFull p = false → exec i s = .next (r.settle p)) ∧
        (p.paired = true → s.early = [] → p.pseq.toNat = seqOf s.recvSeq p.pair → s.spillFull p = false →
          exec i s = .next ({ r with recvSeq := seqPut s.recvSeq p.pair ((p.pseq.toNat + 1) % 65536) }.settle p)))
    performs 0x01 (.flightWriteArrival p) ∧ performs 0x02 (.flightWritefArrival p) ∧ performs 0x03 (.flightFaddArrival p) ∧
    performs 0x04 (.flightFsetArrival p) ∧ performs 0x05 (.flightFaddbArrival p) ∧ performs 0x07 (.flightFetchArrival p) ∧
    performs 0x09 (.flightSendArrival p) ∧ performs 0x0A (.flightPubwArrival p)) ∧
  (∀ (s : State) (p : Packet) (t : Task), p.ty ≠ 0 → s.liveTask p.job.toNat p.taskid.toNat = some t →
    (s.mustHold p t = true → (spillSeat p t, p) ∈ (s.settle p).spill ∧
      (t.blocks = [] → s.settle p = { s with spill := s.spill ++ [(spillSeat p t, p)] })) ∧
    (s.mustHold p t = false → s.worldOk p = false → s.settle p = s.rejectPacket p .segment) ∧
    (s.mustHold p t = false → s.worldOk p = true → s.targetOk p t = false → s.settle p = s.rejectPacket p .podtarget) ∧
    (s.mustHold p t = false → s.worldOk p = true → s.targetOk p t = true → ∀ c, p.kind = true → s.seatCore t (packetSeat p t) = some c → (s.core c).rf.soft = [] →
      let k := s.core c
      let off := p.off % 2 ^ 18
      let u := s.settle p
      let e : Chan := sget {} k.rf.chans (p.aux.toNat % 64)
      let placed : Prop := ∀ b, (u.core c).rf.near.byte b =
        if off ≤ b ∧ b < off + p.payload.length then p.payload.getD (b - off) 0 else k.rf.near.byte b
      let flags (l : List (Nat × FlagOp)) : Prop := (u.core c).flagBuf = k.flagBuf ++ l
      let still : Prop := SameMemory s u ∧ SameOthers c s u ∧ (u.core c).rf.s = k.rf.s ∧ (u.core c).rf.p = k.rf.p ∧ (u.core c).pc = k.pc
      let answers (ty : Nat) (bs : List Byte) : Prop := ∃ x, u.out = s.out ++ [x] ∧ x.ty.toNat = ty ∧ x.payload = bs ∧ x.gen = p.gen ∧
        x.job = p.job ∧ x.taskid = p.taskid ∧ x.dmod = p.smod ∧ x.sseat = p.sseat ∧ x.aux = p.aux
      (p.ty.toNat = 0x01 → placed ∧ flags [] ∧ still) ∧
      (p.ty.toNat = 0x02 → placed ∧ flags [(p.flag.toNat, .add p.val)] ∧ still) ∧
      (p.ty.toNat = 0x03 → u = s.flagAt c p.flag.toNat (.add p.val)) ∧
      (p.ty.toNat = 0x04 → u = s.flagAt c p.flag.toNat (.set p.val)) ∧
      (p.ty.toNat = 0x05 → u = s.flagAt c p.flag.toNat (.bounded p)) ∧
      (p.ty.toNat = 0x07 → p.port < 36 → (∃ n, s.sendPort p.job.toNat p.smod.toNat = .port n) → k.rf.nearPoison = [] →
        answers 0x08 (k.rf.near.read off (p.len.toNat + 1)) ∧ still) ∧
      (p.ty.toNat = 0x09 → e.cls = 0 → placed ∧ flags [] ∧ still) ∧
      (p.ty.toNat = 0x0A → e.cls = 0 → p.payload = [] → u = s.flagAt c p.flag.toNat (.add p.val)) ∧
      (p.ty.toNat = 0x0A → e.valid = true → e.consumer = true → e.cls ≠ 0 → e.rejected = false →
        (e.ares.toNat = bytesToNat (p.payload.take 8) → placed ∧ flags [(p.flag.toNat, .add p.val)] ∧
          (sget {} (u.core c).rf.chans (p.aux.toNat % 64)).ares = 0) ∧
        (e.ares.toNat ≠ bytesToNat (p.payload.take 8) → placed ∧ flags [] ∧ (∃ l, (u.core c).late = l :: k.late ∧ l.code = .resarrive) ∧
          (sget {} (u.core c).rf.chans (p.aux.toNat % 64)).rejected = true))))

/-- 15 R295 to R297, 21 R381, R385, 22 R397: a response fills the landing entry whose request holds its tag, once, and one whose tag no request
holds is discarded. A reject counts as the end of its operation: of a request, the landing entry fails; of another, its event, with the
operation's pointer, is with the seat, or with the sequencer, that sent it, unless that seat is of another generation. -/
def Obligations.ResponsesComplete : Prop :=
  (∀ (s : State) (p : Packet), (sget {} s.ports p.port).inService = true → p.tagOk = true → s.tagLive p = true →
    s.host.diaginj.getLsbD 0 = false →
    (s.askedBy p = none → (p.ty.toNat = 0x06 → p.gen ≠ 0 → exec (.flightFaddbRspArrival p) s = .next (s.received p.port)) ∧
      (p.ty.toNat = 0x08 → exec (.flightFetchRspArrival p) s = .next (s.received p.port))) ∧
    (∀ (a : Asked) (t : Task) (c e : Nat) (l : Landing), s.askedBy p = some a → s.liveTask a.job a.taskid = some t → a.seat ∉ t.saved →
      t.cores[a.seat]? = some c → (s.core c).gen = a.gen → sget none (s.core c).landing e = some l → l.req.remote = true → l.tag = p.tag →
      l.left ≠ 0 → l.arrived = false →
      let fills (i : Instr) : Prop := ∃ u, exec i s = .next u ∧ SameMemory s u ∧ SameOthers c s u ∧ (u.core c).rf = (s.core c).rf ∧
        u.asked = s.asked.erase a ∧ sget none (u.core c).landing e = some { l with data := vecOfBytes p.payload, left := 0, ready := s.clock }
      (p.ty.toNat = 0x06 → p.gen ≠ 0 → fills (.flightFaddbRspArrival p)) ∧ (p.ty.toNat = 0x08 → fills (.flightFetchRspArrival p)))) ∧
  (∀ (s : State) (p : Packet) (ty : Nat) (code : Code), p.ty.toNat = 0x06 → p.gen = 0 → (sget {} s.ports p.port).inService = true →
    p.tagOk = true → code ∈ [Code.segment, Code.poison, Code.podtarget] → ty < 32 → ty ≠ 0 → p.payload = natToBytes 4 (ty + 256 * code.num) →
    let q : Packet := { p with ty := BitVec.ofNat 5 ty, dmod := p.smod }
    let event (src : Nat) : LateEvent := { code := code, src := src, opSlot := 6, value := q.ptr, word := q.word10 }
    (∀ (a : Asked) (t : Task) (c e : Nat) (l : Landing), (ty = 0x05 ∨ ty = 0x07) → s.askedBy p = some a →
      s.liveTask a.job a.taskid = some t → a.seat ∉ t.saved → t.cores[a.seat]? = some c → (s.core c).gen = a.gen →
      sget none (s.core c).landing e = some l → l.req.remote = true → l.tag = p.tag → l.left ≠ 0 → l.arrived = false →
      ∃ u, exec (.rejectArrival p) s = .next u ∧ SameMemory s u ∧ SameOthers c s u ∧ (u.core c).rf = (s.core c).rf ∧
        u.lateral = s.lateral.filter (fun x => x.own || !rejects p x.pkt) ∧
        sget none (u.core c).landing e = some { l with failed := some (code, l.req.ptr, q.ptr), left := 0, arrived := true }) ∧
    (∀ (q0 : Packet) (t : Task) (c : Nat), ty ≠ 0x05 → ty ≠ 0x07 → s.out.reverse.find? (rejects p) = some q0 →
      s.liveTask p.job.toNat p.taskid.toNat = some t → p.sseat.toNat ∉ t.saved → t.cores[p.sseat.toNat]? = some c →
      ∃ u, exec (.rejectArrival p) s = .next u ∧ u.lateral = s.lateral.filter (fun x => x.own || !rejects p x.pkt) ∧
        u.unacked = s.unacked.filter (fun x => !rejects p x.1) ∧ SameMemory s u ∧ SameOthers c s u ∧ (u.core c).rf = (s.core c).rf ∧
        ((s.core c).gen = q0.gen.toNat → p.sq = false → (u.core c).late = (s.core c).late ++ [event 2]) ∧
        ((s.core c).gen = q0.gen.toNat → p.sq = true →
          (u.core c).seq = { (s.core c).seq with faults := (s.core c).seq.faults ++ [event 1] } ∧ (u.core c).late = (s.core c).late) ∧
        ((s.core c).gen ≠ q0.gen.toNat → u.core c = s.core c)))

/-! The step, the encoding, and the whole machine. -/

/-- 02 R36, R37, 03 R44, 07 R136 to R148, 20 R360: a step is the turn of the next agent, else the outside step that waits, else a clock. An
instruction whose turn it is runs as exec gives it. A bundle that issues is its decoded slot operations in ascending slots, each by exec,
up to the one that splits it, and then the bundle's end; an operation whose word decodes to i is i, and one that breaks its encoding splits
the bundle with its code. The copy sequencer runs the instruction that the word at MPC decodes to. One agent at a time, in an order of the
model's own within a clock, then what comes from outside, then the next clock, is the model's choice (DESIGN CHOICE, logs 3, 13, 16). -/
def Obligations.StepRunsDecodedInstruction : Prop :=
  (∀ (s : State) (i : Instr) (rest : List Agent), s.agenda = .run i :: rest → step s = exec i { s with agenda := rest }) ∧
  (∀ (s : State) (i : Instr) (rest : List Instr), s.agenda = [] → s.inputs = i :: rest → step s = exec i { s with inputs := rest }) ∧
  (∀ s : State, s.agenda = [] → s.inputs = [] → step s = .next s.tick) ∧
  (∀ (s u v : State) (c : Nat) (l : List SlotOp) (rest : List Agent),
    let s0 : State := { s with agenda := rest }
    (s.agenda = .issue c :: rest → s0.issueTurn c = .idle u → step s = .next u) ∧
    (s.agenda = .issue c :: rest → s0.issueTurn c = .ops u l → runOps exec l u = .next v → step s = .next v.endBundle) ∧
    (s.agenda = .replay c :: rest → s0.replayTurn c = .ops u l → runOps exec l u = .next v → step s = .next v.endBundle)) ∧
  (∀ (s u : State) (op : SlotOp) (rest : List SlotOp), runOps exec [] s = .next s ∧
    (op.event = none → exec op.ins (s.enterSlot op rest) = .next u →
      (u.ctx.split = none → runOps exec (op :: rest) s = runOps exec rest (u.leaveSlot op)) ∧
      (u.ctx.split ≠ none → runOps exec (op :: rest) s = .next u)) ∧
    (∀ e, op.event = some e →
      runOps exec (op :: rest) s = .next ((s.enterSlot op rest).splitAt op.slot (op :: rest) e.1 e.2 op.word))) ∧
  (∀ (s v : State) (c : Nat) (l : List SlotOp),
    let k := s.core c
    let h := Header.ofWord k.headerWord
    let n := k.repeatCount h
    let u := (s.modCore c (fun k => { k with count := some n, rep := 0 })).openCtx c 0 n
    k.mayIssue = true → k.count = none → k.headerCode = none → 0 < n →
    (∀ op ∈ u.checkOps h (k.opsAt h 0 n true), op.event = none) → u.attempt (k.opsAt h 0 n false) = .ops v l →
    s.issueTurn c = .ops v l ∧ l = k.opsAt h 0 n false) ∧
  (∀ (k : Core) (h : Header) (rep n slot : Nat) (all : Bool) (i : Instr) (e : EncFail),
    let w := k.slotWord h slot
    let a0 := if h.present.getLsbD 0 then some (k.slotWord h 0) else none
    h.present.getLsbD slot = true → (slot ≠ 7 ∨ rep + 1 = n ∨ all = true) →
    (decodeSlot slot a0 w = .ok i → wellFormed i = true ∧
      ((rep = 0 ∨ (stickyOf i).k = false) → k.slotOp h rep n all slot = some { slot := slot, ins := i, word := w }) ∧
      (0 < rep → (stickyOf i).k = true → k.slotOp h rep n all slot = some ((sget {} k.sticky slot).next slot))) ∧
    (decodeSlot slot a0 w = .error e → ∃ op, k.slotOp h rep n all slot = some op ∧ op.event = some (EncFail.code e, 0))) ∧
  (∀ (s t : State) (c : Nat) (i : Instr) (w : W32) (rest : List Agent),
    let s0 : State := { s with agenda := rest }
    let q := (s.core c).seq
    s.agenda = .seq c :: rest → s0.seqFree c = true → q.faults = [] → (s.core c).weak = [] →
    (q.mode = .idle → step s = exec (.seqProgramStart c) s0) ∧
    (q.mode ≠ .idle → (s.core c).cpFetch = .ins i w →
      decodeCp w = .ok i ∧ w = BitVec.ofNat 32 ((s.core c).imem.nat q.mpc 4) ∧
      (exec i { s0 with ctx := { core := c, word := w.setWidth 64 } } = .next t → step s = .next { t with ctx := {} })))

/-- 07 R136 to R142, R150, Tables 7.4 to 7.13: words written out from the spec's encodings, and the instructions that they are. -/
def Obligations.DecodedWords : Prop :=
  decodeSlot 0 none 0x0000018060200000 = .ok (.add ⟨0, false⟩ 3 (.reg 3) (.reg 4)) ∧
  decodeSlot 0 none 0x00800280A0000008 = .ok (.addi ⟨0, false⟩ 5 (.reg 5) 8) ∧
  decodeSlot 2 none 0x0000040120500000 = .ok (.vadd ⟨0, false⟩ ⟨false, 0⟩ .f32 8 (.reg 9) (.reg 10)) ∧
  decodeSlot 2 none 0x00D4040120520000 = .ok (.vfma ⟨5, false⟩ ⟨false, 0⟩ .f32 8 (.latch 9) (.reg 10)) ∧
  decodeSlot 5 none 0x0000140060008180 = .ok (.ld ⟨0, false⟩ ⟨true, 1⟩ .b256 false (.v 40) (.reg 3) 0) ∧
  decodeSlot 5 none 0x0040060060000080 = .ok (.st ⟨0, false⟩ ⟨false, 0⟩ .b256 (.v (.reg 12)) (.reg 3) 0) ∧
  decodeSlot 5 none 0x0100048094280A05 = .ok (.ldg ⟨0, false⟩ .b4 true (.s 9) (.reg 4) 5 40 5) ∧
  decodeSlot 6 none 0x02E07D8280C00000 = .ok (.fsetM ⟨8, false⟩ 251 (.reg (.reg 20)) (.reg 24) 0) ∧
  decodeSlot 7 none 0x014000804000FFF4 = .ok (.loopR ⟨0, false⟩ 0xFFF4 2) ∧
  decodeSlot 7 none 0x0340000280A80000 = .ok (.rgnKeep ⟨0, false⟩ (.reg 20) (.reg 21)) ∧
  decodeSlot 7 none 0x04C00001800000C1 = .ok (.sealAdd ⟨0, false⟩ (.reg 12)) ∧
  decodeCp 0x3298060F = .ok (.cpPut 1 2 3 3 15) ∧
  decodeCp 0x40040004 = .ok (.cpLoop 0 4 4) ∧
  decodeCp 0xF0000000 = .ok .cpEnd

/-- 14 R285, 15 R299 to R302, Table 15.6: after reset the module is in stage RESET and power state P0, no seat is placed, no task, job, graph,
message or record stands, every key slot is EMPTY, and its registers have values that the spec names. Values that the spec does not state
(memory reads as zero, log 2; the clock stands at its highest step, log 1) are the model's choice. -/
def Obligations.ResetState : Prop :=
  (∀ c, (State.reset.core c).placed = false) ∧ (∀ k, (sget {} State.reset.keys k : KeySlot).live = false) ∧
  State.reset.tasks = [] ∧ State.reset.jobs = [] ∧ State.reset.graphs = [] ∧ State.reset.mail = [] ∧ State.reset.sessions = [] ∧
  State.reset.log = [] ∧ State.reset.agenda = [] ∧ State.reset.host.stage = 0 ∧ State.reset.host.pstate = 0 ∧
  State.reset.host.featAcc = 0 ∧ State.reset.host.invBusy = false ∧ (∀ g, (State.reset.gal g).fenced = false) ∧
  (∀ a, State.reset.hbm.byte a = 0) ∧ Mem.wf State.reset.hbm = true ∧ HostLegal State.reset.host

/-- 07 R136 to R142, R150: decoding and encoding agree. Every well-formed slot instruction is what its own word decodes to, an A-slot one in A0 and
in A1, LIH in A1 beside an LI of its register; every micro-instruction of the copy sequencer is what its word decodes to. -/
def Obligations.EncodingRoundTrip : Prop :=
  (∀ (i : Instr) (k : Nat), wellFormed i = true → slotOf i = some k → decodeSlot k (partner i) (encode i) = .ok i ∧
    (k = 0 → decodeSlot 1 (partner i) (encode i) = .ok i)) ∧
  (∀ (i : Instr) (w : W32), encodeCp i = some w → decodeCp w = .ok i)

/-- 14 Table 14.7, 15 R299 to R302: every step keeps the host's registers legal: STAGE is one of the seven stages, FEATACC holds offered features
only and feature 0 from READY on, the power state and those asked for are P0 to P3, the clock is a step of 100 MHz between 800 and 1,600, and
the cap lies between 2,000 and 6,000 W. -/
def Obligations.HostLegalKept : Prop :=
  ∀ s t : State, HostLegal s.host → step s = .next t → HostLegal t.host

/-- 19 R340, 20 R360 to R367: no instruction and no step ends the machine: what an instruction cannot do is an event that the spec describes.
03 R51, 08 R154, 11 R211, R219: an operation of the L, C or B slot whose guard is false changes nothing and raises nothing. -/
def Obligations.NothingStops : Prop :=
  (∀ (i : Instr) (s : State), ∃ t, exec i s = .next t) ∧ (∀ s : State, ∃ t, step s = .next t) ∧
  (∀ (s : State) (g : Guard) (st : Sticky) (ty : Fmt) (sz : Size) (hk : HostKind) (sx : Bool) (d : XReg) (v : VReg) (y : XSrc) (x z : VSrc) (a b : SSrc)
    (disp t : BitVec 10) (e : BitVec 6) (r r1 : SReg) (q : PReg) (grp pos nM1 : BitVec 3) (ch : ChReg) (n id : BitVec 8) (vd : Option VReg) (f : FReg)
    (fo : FOperand) (fm : FMOperand) (incM1 blk : BitVec 4) (incP : BitVec 5) (off : BitVec 16) (epi : BitVec 2) (fc : FCond) (sc : Scope)
    (qu : Queue) (fr : Option FReg), s.on g = false →
    ∀ i ∈ [Instr.ld g st sz sx d a disp, .st g st sz y a disp, .ldv g st sz sx d a disp, .stv g st sz y a disp, .ldg g sz sx d a r t e,
        .stg g sz hk y a r, .stNb g ty x a r grp q, .gath g v a x t e, .scat g x a z q, .fetch g sz sx d a r t e, .ldc g sz sx d a disp] ++
      [.wfree g ch n, .send g sz ch x disp, .pubw g ch n, .recv g ch r n vd, .radd g ch v x disp, .advr g ch n, .put g st sz y a,
        .putf g sz y a f incP pos, .fadd g f fo, .faddRemote g r fo, .faddb g r f incM1 r1, .faddbRemote g r r1 incM1 r t e, .fset g f fo,
        .fsetRemote g r fo, .fsetM g f fm a blk, .seqGo g off f r, .chset g ch r] ++
      [.br g off, .bri g a, .call g off, .calli g a, .ret g, .loop g off, .loopR g off epi, .wait g fc f fo, .waitany g fc f nM1 fo, .delay g off,
        .fence g sc, .fenceQueue g qu, .drain g sc, .qfence g blk, .rgnBegin g blk, .rgnKeep g a b, .rgnEnd g, .launch g a fr, .trigger g,
        .tend g, .yield g, .trap g id a, .sealOpen g a, .sealAdd g a, .sealClose g a, .bkpt g id],
      exec i s = .next s)

/-- 19 R348, 20 R364 to R367, Table 20.4: operands out of range raise their event, with the value that Table 20.4 names: VREGRANGE with the name of
a vector register outside the allotment, WINLIMIT and ALIGN of LD, ST, LDV and STV with the offset, LIMIT and REPCOUNT with the value,
RETSTACK with the depth, TARGET with the address, REGION with the level, LANDBUSY, CPQFULL, LAUNCHDEPTH and DEFERFULL. That VREGRANGE names the
destination where a source is out of range too is the model's reading (DEDUCED, log 17). -/
def Obligations.RangeEventsRaise : Prop :=
  ∀ (s : State) (g : Guard) (st : Sticky) (sz : Size) (sx : Bool) (a : SSrc) (x y : VSrc) (d : VReg) (r : SReg) (e : BitVec 6) (t : BitVec 10)
    (disp n : BitVec 10) (off : BitVec 16) (f : FReg) (limit : BitVec 4) (ch : ChReg) (m : BitVec 8) (cnt : BitVec 3),
    let k := s.cur
    let raises (i : Instr) (code : Code) (v : Word) : Prop := exec i s = .next (s.raiseEvent i (code, v))
    let name := s.stepped st d
    let o := s.rawOff st a disp sz.bytes
    let at_ : Int := s.ctx.pc + 4 * off.toInt
    let v := s.rdS 1 a
    ((name < 0 ∨ 1023 < name ∨ 64 * s.src.allot ≤ s.src.rename name.toNat) →
      raises (.vadd g st .f32 d x y) .vregrange (BitVec.ofInt 64 name) ∧ raises (.vmov g st d x) .vregrange (BitVec.ofInt 64 name)) ∧
    (s.on g = true →
      (s.src.limit < o + sz.bytes → raises (.ld g st sz sx (.s r) a disp) .winlimit (word64 o) ∧
        raises (.st g st sz (.s a) a disp) .winlimit (word64 o)) ∧
      (o + sz.bytes ≤ s.src.limit → o % sz.alignment ≠ 0 → raises (.ld g st sz sx (.s r) a disp) .align (word64 o) ∧
        raises (.st g st sz (.s a) a disp) .align (word64 o)) ∧
      (k.vaultLimit < o + sz.bytes → raises (.ldv g st sz sx (.s r) a disp) .winlimit (word64 o) ∧
        raises (.stv g st sz (.s a) a disp) .winlimit (word64 o)) ∧
      (o + sz.bytes ≤ k.vaultLimit → o % sz.alignment ≠ 0 → raises (.ldv g st sz sx (.s r) a disp) .align (word64 o) ∧
        raises (.stv g st sz (.s a) a disp) .align (word64 o)) ∧
      (specialWritable n.toNat = true → specialRefuses n.toNat v = true → raises (.srwr g n a) .limit v) ∧
      (256 < v.toNat → raises (.reps g a) .repcount v) ∧
      (k.rstack = [] → raises (.ret g) .retstack 0) ∧
      ((at_ % 4 ≠ 0 ∨ at_ < 0 ∨ k.textLen ≤ at_) → raises (.br g off) .target (BitVec.ofInt 64 at_)) ∧
      (at_ % 4 = 0 → 0 ≤ at_ → at_ < k.textLen → 8 ≤ k.rstack.length → raises (.call g off) .retstack (word64 k.rstack.length)) ∧
      (4 ≤ k.rgd → raises (.rgnBegin g limit) .region (word64 k.rgd)) ∧ (k.rgd = 0 → raises (.rgnEnd g) .region 0) ∧
      (k.rgd ≠ 0 → raises (.launch g a (some f)) .region (word64 k.rgd) ∧ raises (.trigger g) .region (word64 k.rgd) ∧
        raises (.tend g) .region (word64 k.rgd)) ∧
      (k.rgd = 0 → 8 ≤ ((s.task k.task).map (·.depth)).getD k.depth → raises (.launch g a (some f)) .launchdepth 8) ∧
      (∀ l, sget none k.landing e.toNat = some l → raises (.ldg g sz sx (.s r) a r t e) .landbusy (e.setWidth 64)) ∧
      (off.toNat % 4 = 0 → off.toNat < k.textLen → 8 ≤ k.seq.cpq.length → raises (.seqGo g off f r) .cpqfull 8) ∧
      ((s.chan ch).usable k s.src.limit true (m.toNat + 1) = false → raises (.advr g ch m) .channel (ch.setWidth 64))) ∧
    (s.guard g ≠ 0 → 2048 < k.occupancy + onesIn (s.guard g) → cnt = 0 → raises (.defer g d cnt) .deferfull (word64 k.occupancy))
end

