-- ==== Sys2Proof/Laws/Sparse.lean ====
section
/-! SUPPORT. Laws of sparse tables and byte memories: read after write, other places untouched, and the canonical form kept by every write. -/

namespace Sys2Proof.Machine
open Sys2Proof

/-! Sparse tables. -/

@[simp] theorem sget_nil {α : Type} (d : α) (k : Nat) : sget d [] k = d := rfl

theorem sget_cons {α : Type} (d v : α) (a k : Nat) (t : Sparse α) : sget d ((a, v) :: t) k = if a = k then v else sget d t k := rfl

/-- Reading the key that was put. -/
@[simp] theorem sget_sput_same {α : Type} (d v : α) (k : Nat) (m : Sparse α) : sget d (sput k v m) k = v := by
  induction m with
  | nil => simp [sput, sget]
  | cons e t ih =>
    obtain ⟨a, w⟩ := e
    unfold sput
    split
    · simp [sget]
    · split
      · simp [sget]
      · rename_i h
        simp [sget, ih, Ne.symm h]

/-- Reading another key. -/
theorem sget_sput_ne {α : Type} (d v : α) {k j : Nat} (m : Sparse α) (h : j ≠ k) : sget d (sput k v m) j = sget d m j := by
  induction m with
  | nil => simp [sput, sget, Ne.symm h]
  | cons e t ih =>
    obtain ⟨a, w⟩ := e
    unfold sput
    split
    · simp [sget, Ne.symm h]
    · split
      · rename_i h1; subst h1; simp [sget, Ne.symm h]
      · simp [sget, ih]

theorem sget_sput {α : Type} (d v : α) (k j : Nat) (m : Sparse α) : sget d (sput k v m) j = if j = k then v else sget d m j := by
  split
  · rename_i h; subst h; simp
  · rename_i h; exact sget_sput_ne d v m h

theorem sget_filter_ne {α : Type} (d : α) {k j : Nat} (m : Sparse α) (h : j ≠ k) :
    sget d (m.filter (fun e => e.1 != k)) j = sget d m j := by
  induction m with
  | nil => rfl
  | cons e t ih =>
    obtain ⟨a, w⟩ := e
    by_cases ha : a = k
    · subst ha; simp [sget, ih, Ne.symm h]
    · simp [sget, ih, ha]

theorem sget_filter_same {α : Type} (d : α) (k : Nat) (m : Sparse α) : sget d (m.filter (fun e => e.1 != k)) k = d := by
  induction m with
  | nil => rfl
  | cons e t ih =>
    obtain ⟨a, w⟩ := e
    by_cases ha : a = k
    · subst ha; simpa using ih
    · simp [sget, ih, ha]

/-- sset reads as sput does, whatever the value. -/
theorem sget_sset {α : Type} [DecidableEq α] (d v : α) (k j : Nat) (m : Sparse α) :
    sget d (sset d k v m) j = if j = k then v else sget d m j := by
  unfold sset
  by_cases h : j = k
  · subst h
    by_cases hv : v = d
    · simp [hv, sget_filter_same]
    · simp [hv]
  · by_cases hv : v = d
    · simp [hv, h, sget_filter_ne d m h]
    · simp [hv, h, sget_sput_ne, sget_filter_ne]

@[simp] theorem sget_sset_same {α : Type} [DecidableEq α] (d v : α) (k : Nat) (m : Sparse α) : sget d (sset d k v m) k = v := by
  simp [sget_sset]

theorem mem_ninsert (k a : Nat) (m : List Nat) : a ∈ ninsert k m ↔ a = k ∨ a ∈ m := by
  induction m with
  | nil => simp [ninsert]
  | cons b t ih =>
    unfold ninsert
    split
    · simp
    · split
      · rename_i h; subst h; simp
      · simp [ih]; tauto

theorem mem_nerase (k a : Nat) (m : List Nat) : a ∈ nerase k m ↔ a ∈ m ∧ a ≠ k := by
  simp [nerase]

/-! Byte memories: reading. -/

theorem sget_append {α : Type} (d : α) (k : Nat) (m n : Sparse α) (h : ∀ e ∈ m, e.1 ≠ k) : sget d (m ++ n) k = sget d n k := by
  induction m with
  | nil => rfl
  | cons e t ih =>
    obtain ⟨a, w⟩ := e
    have ha : a ≠ k := h (a, w) (by simp)
    simp only [List.cons_append, sget, ha, if_false]
    exact ih (fun e he => h e (by simp [he]))

theorem sget_append_left {α : Type} (d : α) (k : Nat) (m n : Sparse α) (h : ∀ e ∈ n, e.1 ≠ k) : sget d (m ++ n) k = sget d m k := by
  induction m with
  | nil =>
    rw [List.nil_append]
    induction n with
    | nil => rfl
    | cons e t ih =>
      obtain ⟨a, w⟩ := e
      have ha : a ≠ k := h (a, w) (by simp)
      simp only [sget, ha, if_false]
      exact ih (fun e he => h e (by simp [he]))
  | cons e t ih =>
    obtain ⟨a, w⟩ := e
    simp only [List.cons_append, sget]
    rw [ih]

/-- A filter that keeps a key's entries keeps what the key reads as. -/
theorem sget_filter_keep {α : Type} (d : α) (k : Nat) (p : Nat → Bool) (m : Sparse α) (h : p k = true) :
    sget d (m.filter (fun e => p e.1)) k = sget d m k := by
  induction m with
  | nil => rfl
  | cons e t ih =>
    obtain ⟨a, w⟩ := e
    by_cases ha : a = k
    · subst ha; simp [h, sget]
    · by_cases hp : p a = true
      · simp [hp, sget, ha, ih]
      · simp [hp, sget, ha, ih]

theorem cellsOf_range (a : Nat) (bs : List Byte) : ∀ e ∈ cellsOf a bs, a ≤ e.1 ∧ e.1 < a + bs.length := by
  induction bs generalizing a with
  | nil => simp [cellsOf]
  | cons b t ih =>
    intro e he
    unfold cellsOf at he
    split at he
    · have := ih (a + 1) e he; simp; omega
    · rcases List.mem_cons.mp he with rfl | h
      · simp
      · have := ih (a + 1) e h; simp; omega

theorem byte_cellsOf (a : Nat) (bs : List Byte) (k : Nat) (h : a ≤ k) (h' : k < a + bs.length) :
    sget 0 (cellsOf a bs) k = bs.getD (k - a) 0 := by
  induction bs generalizing a with
  | nil => simp at h'; omega
  | cons b t ih =>
    simp only [List.length_cons] at h'
    by_cases hk : a = k
    · subst hk
      rw [Nat.sub_self, List.getD_cons_zero]
      by_cases hb : b = 0
      · rw [cellsOf, if_pos hb, hb]
        have hn : ∀ e ∈ cellsOf (a + 1) t, e.1 ≠ a := fun e he => by have := cellsOf_range (a + 1) t e he; omega
        exact sget_append_left (0 : Byte) a [] (cellsOf (a + 1) t) hn
      · rw [cellsOf, if_neg hb, sget_cons, if_pos rfl]
    · have h1 : k - a = (k - (a + 1)) + 1 := by omega
      have h2 := ih (a + 1) (by omega) (by omega)
      rw [h1, List.getD_cons_succ]
      by_cases hb : b = 0
      · rw [cellsOf, if_pos hb, h2]
      · rw [cellsOf, if_neg hb, sget_cons, if_neg hk, h2]

/-- A byte after a write: the byte written inside the run, the old byte outside it. -/
theorem Mem.byte_write (m : Mem) (a : Nat) (bs : List Byte) (k : Nat) :
    (m.write a bs).byte k = if a ≤ k ∧ k < a + bs.length then bs.getD (k - a) 0 else m.byte k := by
  unfold Mem.byte Mem.write
  have hc := cellsOf_range a bs
  split
  · rename_i h
    rw [sget_append_left _ _ _ _ (fun e he => by simp at he; omega), sget_append _ _ _ _ (fun e he => by simp at he; omega)]
    exact byte_cellsOf a bs k h.1 h.2
  · rename_i h
    by_cases hk : k < a
    · rw [sget_append_left _ _ _ _ (fun e he => by simp at he; omega),
        sget_append_left _ _ _ _ (fun e he => by have := hc e he; omega)]
      exact sget_filter_keep 0 k (fun x => decide (x < a)) m (by simp [hk])
    · rw [sget_append _ _ _ _ (fun e he => by
        rcases List.mem_append.mp he with h1 | h1
        · simp at h1; omega
        · have := hc e h1; omega)]
      exact sget_filter_keep 0 k (fun x => decide (a + bs.length ≤ x)) m (by simp; omega)

@[simp] theorem Mem.length_read (m : Mem) (a n : Nat) : (m.read a n).length = n := by simp [Mem.read]

/-- Each byte of a read. -/
theorem Mem.getD_read (m : Mem) (a n i : Nat) (h : i < n) : (m.read a n).getD i 0 = m.byte (a + i) := by
  unfold Mem.read Mem.byte
  rw [List.getD_eq_getElem?_getD, List.getElem?_map, List.getElem?_range h]
  exact sget_filter_keep 0 (a + i) (fun x => a ≤ x && decide (x < a + n)) m (by simp [h])

theorem Mem.read_eq_map (m : Mem) (a n : Nat) : m.read a n = (List.range n).map (fun i => m.byte (a + i)) := by
  apply List.map_congr_left
  intro i hi
  have hi' : i < n := List.mem_range.mp hi
  exact sget_filter_keep 0 (a + i) (fun x => a ≤ x && decide (x < a + n)) m (by simp [hi'])

theorem Mem.getElem?_read (m : Mem) (a n i : Nat) : (m.read a n)[i]? = if i < n then some (m.byte (a + i)) else none := by
  rw [Mem.read_eq_map]
  by_cases h : i < n
  · simp [h]
  · simp [h]

/-- Reading back a run just written. -/
theorem Mem.read_write_same (m : Mem) (a : Nat) (bs : List Byte) : (m.write a bs).read a bs.length = bs := by
  apply List.ext_getElem (by simp)
  intro i h1 h2
  have h : i < bs.length := h2
  have hr := Mem.getElem?_read (m.write a bs) a bs.length i
  rw [if_pos h, Mem.byte_write] at hr
  have : a ≤ a + i ∧ a + i < a + bs.length := ⟨by omega, by omega⟩
  rw [if_pos this] at hr
  simp only [Nat.add_sub_cancel_left] at hr
  rw [List.getElem?_eq_getElem h1] at hr
  simpa [List.getD_eq_getElem?_getD, List.getElem?_eq_getElem h] using hr

/-- Reading a run that a write does not touch. -/
theorem Mem.read_write_disjoint (m : Mem) (a : Nat) (bs : List Byte) (b n : Nat) (h : b + n ≤ a ∨ a + bs.length ≤ b) :
    (m.write a bs).read b n = m.read b n := by
  rw [Mem.read_eq_map, Mem.read_eq_map]
  apply List.map_congr_left
  intro i hi
  have hi' : i < n := List.mem_range.mp hi
  rw [Mem.byte_write, if_neg (by omega)]

/-- A byte after a merge: the enabled bits of the data, the other bits as they were. -/
theorem Mem.byte_merge (m : Mem) (a : Nat) (ds : List (Byte × Byte)) (k : Nat) :
    (m.merge a ds).byte k = if a ≤ k ∧ k < a + ds.length then mergeByte (m.byte k) (ds.getD (k - a) (0, 0)).1 (ds.getD (k - a) (0, 0)).2
      else m.byte k := by
  unfold Mem.merge
  rw [Mem.byte_write]
  have hl : (List.zipWith (fun o (d : Byte × Byte) => mergeByte o d.1 d.2) (m.read a ds.length) ds).length = ds.length := by simp
  rw [hl]
  split
  · rename_i h
    have hk : k - a < ds.length := by omega
    have hr := Mem.getElem?_read m a ds.length (k - a)
    rw [if_pos hk, Nat.add_sub_cancel' h.1] at hr
    simp [List.getD_eq_getElem?_getD, List.getElem?_zipWith, hr, List.getElem?_eq_getElem hk]
  · rfl

/-! Byte memories: the canonical form. -/

theorem Mem.wf_nil : Mem.wf [] = true := rfl

/-- The canonical form said by rising addresses and bytes that are not zero. -/
theorem Mem.wf_iff (m : Mem) : m.wf = true ↔ m.Pairwise (fun x y => x.1 < y.1) ∧ ∀ e ∈ m, e.2 ≠ 0 := by
  induction m with
  | nil => simp [Mem.wf]
  | cons e t ih =>
    obtain ⟨a, b⟩ := e
    cases t with
    | nil => simp [Mem.wf]
    | cons f u =>
      obtain ⟨a', b'⟩ := f
      rw [Mem.wf, Bool.and_eq_true, Bool.and_eq_true, ih]
      simp only [List.pairwise_cons, List.mem_cons, decide_eq_true_eq, bne_iff_ne]
      constructor
      · rintro ⟨⟨hb, hlt⟩, ⟨hp, hq⟩, hz⟩
        refine ⟨⟨?_, hp, hq⟩, ?_⟩
        · rintro x (rfl | hx)
          · exact hlt
          · exact lt_trans hlt (hp x hx)
        · rintro x (rfl | hx)
          · exact hb
          · exact hz x hx
      · rintro ⟨⟨h1, h2⟩, hz⟩
        exact ⟨⟨hz _ (Or.inl rfl), h1 _ (Or.inl rfl)⟩, h2, fun x hx => hz x (Or.inr hx)⟩

theorem cellsOf_wf (a : Nat) (bs : List Byte) : Mem.wf (cellsOf a bs) = true := by
  rw [Mem.wf_iff]
  induction bs generalizing a with
  | nil => simp [cellsOf]
  | cons b t ih =>
    unfold cellsOf
    split
    · exact ih (a + 1)
    · rename_i hb
      refine ⟨List.pairwise_cons.mpr ⟨fun e he => ?_, (ih (a + 1)).1⟩, ?_⟩
      · have := cellsOf_range (a + 1) t e he
        show a < e.1
        omega
      · intro e he
        rcases List.mem_cons.mp he with rfl | h
        · exact hb
        · exact (ih (a + 1)).2 e h

/-- A write keeps the canonical form. -/
theorem Mem.wf_write (m : Mem) (a : Nat) (bs : List Byte) (h : m.wf = true) : (m.write a bs).wf = true := by
  have hc := cellsOf_range a bs
  have hw := (Mem.wf_iff _).mp (cellsOf_wf a bs)
  rw [Mem.wf_iff] at h ⊢
  unfold Mem.write
  refine ⟨?_, ?_⟩
  · rw [List.pairwise_append, List.pairwise_append]
    refine ⟨⟨h.1.filter _, hw.1, ?_⟩, h.1.filter _, ?_⟩
    · intro x hx y hy
      have := hc y hy
      simp at hx
      omega
    · intro x hx y hy
      simp at hy
      rcases List.mem_append.mp hx with h1 | h1
      · simp at h1; omega
      · have := hc x h1; omega
  · intro e he
    rcases List.mem_append.mp he with h1 | h1
    · rcases List.mem_append.mp h1 with h2 | h2
      · exact h.2 e (List.mem_filter.mp h2).1
      · exact hw.2 e h2
    · exact h.2 e (List.mem_filter.mp h1).1

/-- So does a merge. -/
theorem Mem.wf_merge (m : Mem) (a : Nat) (ds : List (Byte × Byte)) (h : m.wf = true) : (m.merge a ds).wf = true := Mem.wf_write _ _ _ h

theorem RegFile.near_wf_mergeNear (r : RegFile) (a : Nat) (ds : List (Byte × Byte)) (p : Bool) (h : r.near.wf = true) :
    (r.mergeNear a ds p).near.wf = true := Mem.wf_merge _ _ _ h

theorem RegFile.near_wf_setV (r : RegFile) (i : Nat) (v mask : Vec) (poison : Word) (h : r.near.wf = true) :
    (r.setV i v mask poison).near.wf = true := by
  unfold RegFile.setV
  split <;> exact RegFile.near_wf_mergeNear r (vbase i) _ false h

/-- Reset memory has the canonical form. -/
theorem State.reset_wf : State.reset.hbm.wf = true ∧ State.reset.hostMem.wf = true := ⟨rfl, rfl⟩

end Sys2Proof.Machine
end

