-- ==== Sys2Proof/Laws/State.lean ====
section
/-! SUPPORT. One law per field and update of State, of a core and of a register file; reading a core, gallery or hall that was written. -/

namespace Sys2Proof.Machine
open Sys2Proof

/-! Reading what an update put in place. -/

theorem State.core_setCore (s : State) (c d : Nat) (k : Core) : (s.setCore c k).core d = if d = c then k else s.core d := sget_sput _ _ _ _ _
@[simp] theorem State.core_setCore_same (s : State) (c : Nat) (k : Core) : (s.setCore c k).core c = k := sget_sput_same _ _ _ _
theorem State.core_setCore_ne (s : State) {c d : Nat} (k : Core) (h : d ≠ c) : (s.setCore c k).core d = s.core d := sget_sput_ne _ _ _ h
theorem State.core_modCore (s : State) (c d : Nat) (f : Core → Core) : (s.modCore c f).core d = if d = c then f (s.core c) else s.core d :=
  State.core_setCore s c d _
@[simp] theorem State.core_modCore_same (s : State) (c : Nat) (f : Core → Core) : (s.modCore c f).core c = f (s.core c) := sget_sput_same _ _ _ _
theorem State.core_modCore_ne (s : State) {c d : Nat} (f : Core → Core) (h : d ≠ c) : (s.modCore c f).core d = s.core d := sget_sput_ne _ _ _ h
@[simp] theorem State.cur_modCur (s : State) (f : Core → Core) : (s.modCur f).cur = f s.cur := sget_sput_same _ _ _ _
@[simp] theorem State.cur_setCur (s : State) (k : Core) : (s.setCur k).cur = k := sget_sput_same _ _ _ _
theorem State.core_modCur_ne (s : State) {d : Nat} (f : Core → Core) (h : d ≠ s.ctx.core) : (s.modCur f).core d = s.core d := sget_sput_ne _ _ _ h
theorem State.gal_setGal (s : State) (g h : Nat) (x : Gallery) : (s.setGal g x).gal h = if h = g then x else s.gal h := sget_sput _ _ _ _ _
@[simp] theorem State.gal_setGal_same (s : State) (g : Nat) (x : Gallery) : (s.setGal g x).gal g = x := sget_sput_same _ _ _ _
@[simp] theorem State.gal_modGal_same (s : State) (g : Nat) (f : Gallery → Gallery) : (s.modGal g f).gal g = f (s.gal g) := sget_sput_same _ _ _ _
theorem State.gal_modGal_ne (s : State) {g h : Nat} (f : Gallery → Gallery) (n : h ≠ g) : (s.modGal g f).gal h = s.gal h := sget_sput_ne _ _ _ n
@[simp] theorem State.hall_modHall_same (s : State) (h : Nat) (f : Hall → Hall) : (s.modHall h f).hall h = f (s.hall h) := sget_sput_same _ _ _ _
theorem State.hall_modHall_ne (s : State) {h j : Nat} (f : Hall → Hall) (n : j ≠ h) : (s.modHall h f).hall j = s.hall j := sget_sput_ne _ _ _ n

/-! The core, gallery and hall tables under updates of the others. -/

@[simp] theorem State.setCore_gal (s : State) (c : Nat) (k : Core) (at_ : Nat) : (s.setCore c k).gal at_ = s.gal at_ := rfl
@[simp] theorem State.setCore_hall (s : State) (c : Nat) (k : Core) (at_ : Nat) : (s.setCore c k).hall at_ = s.hall at_ := rfl
@[simp] theorem State.modCore_gal (s : State) (c : Nat) (f : Core → Core) (at_ : Nat) : (s.modCore c f).gal at_ = s.gal at_ := rfl
@[simp] theorem State.modCore_hall (s : State) (c : Nat) (f : Core → Core) (at_ : Nat) : (s.modCore c f).hall at_ = s.hall at_ := rfl
@[simp] theorem State.setCur_gal (s : State) (k : Core) (at_ : Nat) : (s.setCur k).gal at_ = s.gal at_ := rfl
@[simp] theorem State.setCur_hall (s : State) (k : Core) (at_ : Nat) : (s.setCur k).hall at_ = s.hall at_ := rfl
@[simp] theorem State.modCur_gal (s : State) (f : Core → Core) (at_ : Nat) : (s.modCur f).gal at_ = s.gal at_ := rfl
@[simp] theorem State.modCur_hall (s : State) (f : Core → Core) (at_ : Nat) : (s.modCur f).hall at_ = s.hall at_ := rfl
@[simp] theorem State.setGal_core (s : State) (g : Nat) (x : Gallery) (at_ : Nat) : (s.setGal g x).core at_ = s.core at_ := rfl
@[simp] theorem State.setGal_hall (s : State) (g : Nat) (x : Gallery) (at_ : Nat) : (s.setGal g x).hall at_ = s.hall at_ := rfl
@[simp] theorem State.modGal_core (s : State) (g : Nat) (f : Gallery → Gallery) (at_ : Nat) : (s.modGal g f).core at_ = s.core at_ := rfl
@[simp] theorem State.modGal_hall (s : State) (g : Nat) (f : Gallery → Gallery) (at_ : Nat) : (s.modGal g f).hall at_ = s.hall at_ := rfl
@[simp] theorem State.modHall_core (s : State) (h : Nat) (f : Hall → Hall) (at_ : Nat) : (s.modHall h f).core at_ = s.core at_ := rfl
@[simp] theorem State.modHall_gal (s : State) (h : Nat) (f : Hall → Hall) (at_ : Nat) : (s.modHall h f).gal at_ = s.gal at_ := rfl
@[simp] theorem State.modJob_core (s : State) (j : Nat) (f : Job → Job) (at_ : Nat) : (s.modJob j f).core at_ = s.core at_ := rfl
@[simp] theorem State.modJob_gal (s : State) (j : Nat) (f : Job → Job) (at_ : Nat) : (s.modJob j f).gal at_ = s.gal at_ := rfl
@[simp] theorem State.modJob_hall (s : State) (j : Nat) (f : Job → Job) (at_ : Nat) : (s.modJob j f).hall at_ = s.hall at_ := rfl
@[simp] theorem State.modTask_core (s : State) (t : Nat) (f : Task → Task) (at_ : Nat) : (s.modTask t f).core at_ = s.core at_ := rfl
@[simp] theorem State.modTask_gal (s : State) (t : Nat) (f : Task → Task) (at_ : Nat) : (s.modTask t f).gal at_ = s.gal at_ := rfl
@[simp] theorem State.modTask_hall (s : State) (t : Nat) (f : Task → Task) (at_ : Nat) : (s.modTask t f).hall at_ = s.hall at_ := rfl
@[simp] theorem State.raiseMsix_core (s : State) (fn vec : Nat) (at_ : Nat) : (s.raiseMsix fn vec).core at_ = s.core at_ := rfl
@[simp] theorem State.raiseMsix_gal (s : State) (fn vec : Nat) (at_ : Nat) : (s.raiseMsix fn vec).gal at_ = s.gal at_ := rfl
@[simp] theorem State.raiseMsix_hall (s : State) (fn vec : Nat) (at_ : Nat) : (s.raiseMsix fn vec).hall at_ = s.hall at_ := rfl
@[simp] theorem State.result_gal (s : State) (lat : Nat) (d : Dest) (v m : Vec) (po : Word) (at_ : Nat) : (s.result lat d v m po).gal at_ = s.gal at_ := rfl
@[simp] theorem State.result_hall (s : State) (lat : Nat) (d : Dest) (v m : Vec) (po : Word) (at_ : Nat) : (s.result lat d v m po).hall at_ = s.hall at_ := rfl
@[simp] theorem State.lateEvent_gal (s : State) (c : Nat) (e : LateEvent) (at_ : Nat) : (s.lateEvent c e).gal at_ = s.gal at_ := rfl
@[simp] theorem State.lateEvent_hall (s : State) (c : Nat) (e : LateEvent) (at_ : Nat) : (s.lateEvent c e).hall at_ = s.hall at_ := rfl
@[simp] theorem State.post_gal (s : State) (c : Nat) (m : Msg) (n : Nat) (at_ : Nat) : (s.post c m n).gal at_ = s.gal at_ := rfl
@[simp] theorem State.post_hall (s : State) (c : Nat) (m : Msg) (n : Nat) (at_ : Nat) : (s.post c m n).hall at_ = s.hall at_ := rfl
@[simp] theorem State.splitBare_gal (s : State) (n : Nat) (ops : List SlotOp) (kind : StopKind) (cause : Nat) (at_ : Nat) : (s.splitBare n ops kind cause).gal at_ = s.gal at_ := rfl
@[simp] theorem State.splitBare_hall (s : State) (n : Nat) (ops : List SlotOp) (kind : StopKind) (cause : Nat) (at_ : Nat) : (s.splitBare n ops kind cause).hall at_ = s.hall at_ := rfl
@[simp] theorem State.splitAt_gal (s : State) (n : Nat) (ops : List SlotOp) (code : Code) (v w : Word) (at_ : Nat) : (s.splitAt n ops code v w).gal at_ = s.gal at_ := rfl
@[simp] theorem State.splitAt_hall (s : State) (n : Nat) (ops : List SlotOp) (code : Code) (v w : Word) (at_ : Nat) : (s.splitAt n ops code v w).hall at_ = s.hall at_ := rfl
@[simp] theorem State.raiseEvent_gal (s : State) (i : Instr) (e : Code × Word) (at_ : Nat) : (s.raiseEvent i e).gal at_ = s.gal at_ := rfl
@[simp] theorem State.raiseEvent_hall (s : State) (i : Instr) (e : Code × Word) (at_ : Nat) : (s.raiseEvent i e).hall at_ = s.hall at_ := rfl
@[simp] theorem State.seqHalt_gal (s : State) (c : Nat) (code : Code) (v w : Word) (at_ : Nat) : (s.seqHalt c code v w).gal at_ = s.gal at_ := rfl
@[simp] theorem State.seqHalt_hall (s : State) (c : Nat) (code : Code) (v w : Word) (at_ : Nat) : (s.seqHalt c code v w).hall at_ = s.hall at_ := rfl
@[simp] theorem State.draw_core (s : State)  (at_ : Nat) : (s.draw.2).core at_ = s.core at_ := rfl
@[simp] theorem State.draw_gal (s : State)  (at_ : Nat) : (s.draw.2).gal at_ = s.gal at_ := rfl
@[simp] theorem State.draw_hall (s : State)  (at_ : Nat) : (s.draw.2).hall at_ = s.hall at_ := rfl
@[simp] theorem State.nextSerial_core (s : State)  (at_ : Nat) : (s.nextSerial.2).core at_ = s.core at_ := rfl
@[simp] theorem State.nextSerial_gal (s : State)  (at_ : Nat) : (s.nextSerial.2).gal at_ = s.gal at_ := rfl
@[simp] theorem State.nextSerial_hall (s : State)  (at_ : Nat) : (s.nextSerial.2).hall at_ = s.hall at_ := rfl

/-! setCore. -/

@[simp] theorem State.setCore_gals (s : State) (c : Nat) (k : Core) : (s.setCore c k).gals = s.gals := rfl
@[simp] theorem State.setCore_halls (s : State) (c : Nat) (k : Core) : (s.setCore c k).halls = s.halls := rfl
@[simp] theorem State.setCore_hbm (s : State) (c : Nat) (k : Core) : (s.setCore c k).hbm = s.hbm := rfl
@[simp] theorem State.setCore_sectors (s : State) (c : Nat) (k : Core) : (s.setCore c k).sectors = s.sectors := rfl
@[simp] theorem State.setCore_hostMem (s : State) (c : Nat) (k : Core) : (s.setCore c k).hostMem = s.hostMem := rfl
@[simp] theorem State.setCore_hostTags (s : State) (c : Nat) (k : Core) : (s.setCore c k).hostTags = s.hostTags := rfl
@[simp] theorem State.setCore_keys (s : State) (c : Nat) (k : Core) : (s.setCore c k).keys = s.keys := rfl
@[simp] theorem State.setCore_jobs (s : State) (c : Nat) (k : Core) : (s.setCore c k).jobs = s.jobs := rfl
@[simp] theorem State.setCore_tasks (s : State) (c : Nat) (k : Core) : (s.setCore c k).tasks = s.tasks := rfl
@[simp] theorem State.setCore_graphs (s : State) (c : Nat) (k : Core) : (s.setCore c k).graphs = s.graphs := rfl
@[simp] theorem State.setCore_foyer (s : State) (c : Nat) (k : Core) : (s.setCore c k).foyer = s.foyer := rfl
@[simp] theorem State.setCore_waiting (s : State) (c : Nat) (k : Core) : (s.setCore c k).waiting = s.waiting := rfl
@[simp] theorem State.setCore_admitted (s : State) (c : Nat) (k : Core) : (s.setCore c k).admitted = s.admitted := rfl
@[simp] theorem State.setCore_launches (s : State) (c : Nat) (k : Core) : (s.setCore c k).launches = s.launches := rfl
@[simp] theorem State.setCore_preempts (s : State) (c : Nat) (k : Core) : (s.setCore c k).preempts = s.preempts := rfl
@[simp] theorem State.setCore_mail (s : State) (c : Nat) (k : Core) : (s.setCore c k).mail = s.mail := rfl
@[simp] theorem State.setCore_box (s : State) (c : Nat) (k : Core) : (s.setCore c k).box = s.box := rfl
@[simp] theorem State.setCore_sessions (s : State) (c : Nat) (k : Core) : (s.setCore c k).sessions = s.sessions := rfl
@[simp] theorem State.setCore_log (s : State) (c : Nat) (k : Core) : (s.setCore c k).log = s.log := rfl
@[simp] theorem State.setCore_ownerLog (s : State) (c : Nat) (k : Core) : (s.setCore c k).ownerLog = s.ownerLog := rfl
@[simp] theorem State.setCore_seq (s : State) (c : Nat) (k : Core) : (s.setCore c k).seq = s.seq := rfl
@[simp] theorem State.setCore_corrected (s : State) (c : Nat) (k : Core) : (s.setCore c k).corrected = s.corrected := rfl
@[simp] theorem State.setCore_sramue (s : State) (c : Nat) (k : Core) : (s.setCore c k).sramue = s.sramue := rfl
@[simp] theorem State.setCore_lockMis (s : State) (c : Nat) (k : Core) : (s.setCore c k).lockMis = s.lockMis := rfl
@[simp] theorem State.setCore_msix (s : State) (c : Nat) (k : Core) : (s.setCore c k).msix = s.msix := rfl
@[simp] theorem State.setCore_msixPend (s : State) (c : Nat) (k : Core) : (s.setCore c k).msixPend = s.msixPend := rfl
@[simp] theorem State.setCore_host (s : State) (c : Nat) (k : Core) : (s.setCore c k).host = s.host := rfl
@[simp] theorem State.setCore_ports (s : State) (c : Nat) (k : Core) : (s.setCore c k).ports = s.ports := rfl
@[simp] theorem State.setCore_sentSeq (s : State) (c : Nat) (k : Core) : (s.setCore c k).sentSeq = s.sentSeq := rfl
@[simp] theorem State.setCore_recvSeq (s : State) (c : Nat) (k : Core) : (s.setCore c k).recvSeq = s.recvSeq := rfl
@[simp] theorem State.setCore_early (s : State) (c : Nat) (k : Core) : (s.setCore c k).early = s.early := rfl
@[simp] theorem State.setCore_out (s : State) (c : Nat) (k : Core) : (s.setCore c k).out = s.out := rfl
@[simp] theorem State.setCore_lateral (s : State) (c : Nat) (k : Core) : (s.setCore c k).lateral = s.lateral := rfl
@[simp] theorem State.setCore_queued (s : State) (c : Nat) (k : Core) : (s.setCore c k).queued = s.queued := rfl
@[simp] theorem State.setCore_spill (s : State) (c : Nat) (k : Core) : (s.setCore c k).spill = s.spill := rfl
@[simp] theorem State.setCore_unacked (s : State) (c : Nat) (k : Core) : (s.setCore c k).unacked = s.unacked := rfl
@[simp] theorem State.setCore_replies (s : State) (c : Nat) (k : Core) : (s.setCore c k).replies = s.replies := rfl
@[simp] theorem State.setCore_asked (s : State) (c : Nat) (k : Core) : (s.setCore c k).asked = s.asked := rfl
@[simp] theorem State.setCore_retired (s : State) (c : Nat) (k : Core) : (s.setCore c k).retired = s.retired := rfl
@[simp] theorem State.setCore_saves (s : State) (c : Nat) (k : Core) : (s.setCore c k).saves = s.saves := rfl
@[simp] theorem State.setCore_saveVaults (s : State) (c : Nat) (k : Core) : (s.setCore c k).saveVaults = s.saveVaults := rfl
@[simp] theorem State.setCore_hostOut (s : State) (c : Nat) (k : Core) : (s.setCore c k).hostOut = s.hostOut := rfl
@[simp] theorem State.setCore_hostFails (s : State) (c : Nat) (k : Core) : (s.setCore c k).hostFails = s.hostFails := rfl
@[simp] theorem State.setCore_heldIo (s : State) (c : Nat) (k : Core) : (s.setCore c k).heldIo = s.heldIo := rfl
@[simp] theorem State.setCore_traces (s : State) (c : Nat) (k : Core) : (s.setCore c k).traces = s.traces := rfl
@[simp] theorem State.setCore_driverTraces (s : State) (c : Nat) (k : Core) : (s.setCore c k).driverTraces = s.driverTraces := rfl
@[simp] theorem State.setCore_ownerTraces (s : State) (c : Nat) (k : Core) : (s.setCore c k).ownerTraces = s.ownerTraces := rfl
@[simp] theorem State.setCore_heldDebug (s : State) (c : Nat) (k : Core) : (s.setCore c k).heldDebug = s.heldDebug := rfl
@[simp] theorem State.setCore_imports (s : State) (c : Nat) (k : Core) : (s.setCore c k).imports = s.imports := rfl
@[simp] theorem State.setCore_sealOut (s : State) (c : Nat) (k : Core) : (s.setCore c k).sealOut = s.sealOut := rfl
@[simp] theorem State.setCore_discarded (s : State) (c : Nat) (k : Core) : (s.setCore c k).discarded = s.discarded := rfl
@[simp] theorem State.setCore_victims (s : State) (c : Nat) (k : Core) : (s.setCore c k).victims = s.victims := rfl
@[simp] theorem State.setCore_incoming (s : State) (c : Nat) (k : Core) : (s.setCore c k).incoming = s.incoming := rfl
@[simp] theorem State.setCore_inputs (s : State) (c : Nat) (k : Core) : (s.setCore c k).inputs = s.inputs := rfl
@[simp] theorem State.setCore_agenda (s : State) (c : Nat) (k : Core) : (s.setCore c k).agenda = s.agenda := rfl
@[simp] theorem State.setCore_ctx (s : State) (c : Nat) (k : Core) : (s.setCore c k).ctx = s.ctx := rfl
@[simp] theorem State.setCore_clock (s : State) (c : Nat) (k : Core) : (s.setCore c k).clock = s.clock := rfl
@[simp] theorem State.setCore_fresh (s : State) (c : Nat) (k : Core) : (s.setCore c k).fresh = s.fresh := rfl
@[simp] theorem State.setCore_serial (s : State) (c : Nat) (k : Core) : (s.setCore c k).serial = s.serial := rfl

/-! modCore. -/

@[simp] theorem State.modCore_gals (s : State) (c : Nat) (f : Core → Core) : (s.modCore c f).gals = s.gals := rfl
@[simp] theorem State.modCore_halls (s : State) (c : Nat) (f : Core → Core) : (s.modCore c f).halls = s.halls := rfl
@[simp] theorem State.modCore_hbm (s : State) (c : Nat) (f : Core → Core) : (s.modCore c f).hbm = s.hbm := rfl
@[simp] theorem State.modCore_sectors (s : State) (c : Nat) (f : Core → Core) : (s.modCore c f).sectors = s.sectors := rfl
@[simp] theorem State.modCore_hostMem (s : State) (c : Nat) (f : Core → Core) : (s.modCore c f).hostMem = s.hostMem := rfl
@[simp] theorem State.modCore_hostTags (s : State) (c : Nat) (f : Core → Core) : (s.modCore c f).hostTags = s.hostTags := rfl
@[simp] theorem State.modCore_keys (s : State) (c : Nat) (f : Core → Core) : (s.modCore c f).keys = s.keys := rfl
@[simp] theorem State.modCore_jobs (s : State) (c : Nat) (f : Core → Core) : (s.modCore c f).jobs = s.jobs := rfl
@[simp] theorem State.modCore_tasks (s : State) (c : Nat) (f : Core → Core) : (s.modCore c f).tasks = s.tasks := rfl
@[simp] theorem State.modCore_graphs (s : State) (c : Nat) (f : Core → Core) : (s.modCore c f).graphs = s.graphs := rfl
@[simp] theorem State.modCore_foyer (s : State) (c : Nat) (f : Core → Core) : (s.modCore c f).foyer = s.foyer := rfl
@[simp] theorem State.modCore_waiting (s : State) (c : Nat) (f : Core → Core) : (s.modCore c f).waiting = s.waiting := rfl
@[simp] theorem State.modCore_admitted (s : State) (c : Nat) (f : Core → Core) : (s.modCore c f).admitted = s.admitted := rfl
@[simp] theorem State.modCore_launches (s : State) (c : Nat) (f : Core → Core) : (s.modCore c f).launches = s.launches := rfl
@[simp] theorem State.modCore_preempts (s : State) (c : Nat) (f : Core → Core) : (s.modCore c f).preempts = s.preempts := rfl
@[simp] theorem State.modCore_mail (s : State) (c : Nat) (f : Core → Core) : (s.modCore c f).mail = s.mail := rfl
@[simp] theorem State.modCore_box (s : State) (c : Nat) (f : Core → Core) : (s.modCore c f).box = s.box := rfl
@[simp] theorem State.modCore_sessions (s : State) (c : Nat) (f : Core → Core) : (s.modCore c f).sessions = s.sessions := rfl
@[simp] theorem State.modCore_log (s : State) (c : Nat) (f : Core → Core) : (s.modCore c f).log = s.log := rfl
@[simp] theorem State.modCore_ownerLog (s : State) (c : Nat) (f : Core → Core) : (s.modCore c f).ownerLog = s.ownerLog := rfl
@[simp] theorem State.modCore_seq (s : State) (c : Nat) (f : Core → Core) : (s.modCore c f).seq = s.seq := rfl
@[simp] theorem State.modCore_corrected (s : State) (c : Nat) (f : Core → Core) : (s.modCore c f).corrected = s.corrected := rfl
@[simp] theorem State.modCore_sramue (s : State) (c : Nat) (f : Core → Core) : (s.modCore c f).sramue = s.sramue := rfl
@[simp] theorem State.modCore_lockMis (s : State) (c : Nat) (f : Core → Core) : (s.modCore c f).lockMis = s.lockMis := rfl
@[simp] theorem State.modCore_msix (s : State) (c : Nat) (f : Core → Core) : (s.modCore c f).msix = s.msix := rfl
@[simp] theorem State.modCore_msixPend (s : State) (c : Nat) (f : Core → Core) : (s.modCore c f).msixPend = s.msixPend := rfl
@[simp] theorem State.modCore_host (s : State) (c : Nat) (f : Core → Core) : (s.modCore c f).host = s.host := rfl
@[simp] theorem State.modCore_ports (s : State) (c : Nat) (f : Core → Core) : (s.modCore c f).ports = s.ports := rfl
@[simp] theorem State.modCore_sentSeq (s : State) (c : Nat) (f : Core → Core) : (s.modCore c f).sentSeq = s.sentSeq := rfl
@[simp] theorem State.modCore_recvSeq (s : State) (c : Nat) (f : Core → Core) : (s.modCore c f).recvSeq = s.recvSeq := rfl
@[simp] theorem State.modCore_early (s : State) (c : Nat) (f : Core → Core) : (s.modCore c f).early = s.early := rfl
@[simp] theorem State.modCore_out (s : State) (c : Nat) (f : Core → Core) : (s.modCore c f).out = s.out := rfl
@[simp] theorem State.modCore_lateral (s : State) (c : Nat) (f : Core → Core) : (s.modCore c f).lateral = s.lateral := rfl
@[simp] theorem State.modCore_queued (s : State) (c : Nat) (f : Core → Core) : (s.modCore c f).queued = s.queued := rfl
@[simp] theorem State.modCore_spill (s : State) (c : Nat) (f : Core → Core) : (s.modCore c f).spill = s.spill := rfl
@[simp] theorem State.modCore_unacked (s : State) (c : Nat) (f : Core → Core) : (s.modCore c f).unacked = s.unacked := rfl
@[simp] theorem State.modCore_replies (s : State) (c : Nat) (f : Core → Core) : (s.modCore c f).replies = s.replies := rfl
@[simp] theorem State.modCore_asked (s : State) (c : Nat) (f : Core → Core) : (s.modCore c f).asked = s.asked := rfl
@[simp] theorem State.modCore_retired (s : State) (c : Nat) (f : Core → Core) : (s.modCore c f).retired = s.retired := rfl
@[simp] theorem State.modCore_saves (s : State) (c : Nat) (f : Core → Core) : (s.modCore c f).saves = s.saves := rfl
@[simp] theorem State.modCore_saveVaults (s : State) (c : Nat) (f : Core → Core) : (s.modCore c f).saveVaults = s.saveVaults := rfl
@[simp] theorem State.modCore_hostOut (s : State) (c : Nat) (f : Core → Core) : (s.modCore c f).hostOut = s.hostOut := rfl
@[simp] theorem State.modCore_hostFails (s : State) (c : Nat) (f : Core → Core) : (s.modCore c f).hostFails = s.hostFails := rfl
@[simp] theorem State.modCore_heldIo (s : State) (c : Nat) (f : Core → Core) : (s.modCore c f).heldIo = s.heldIo := rfl
@[simp] theorem State.modCore_traces (s : State) (c : Nat) (f : Core → Core) : (s.modCore c f).traces = s.traces := rfl
@[simp] theorem State.modCore_driverTraces (s : State) (c : Nat) (f : Core → Core) : (s.modCore c f).driverTraces = s.driverTraces := rfl
@[simp] theorem State.modCore_ownerTraces (s : State) (c : Nat) (f : Core → Core) : (s.modCore c f).ownerTraces = s.ownerTraces := rfl
@[simp] theorem State.modCore_heldDebug (s : State) (c : Nat) (f : Core → Core) : (s.modCore c f).heldDebug = s.heldDebug := rfl
@[simp] theorem State.modCore_imports (s : State) (c : Nat) (f : Core → Core) : (s.modCore c f).imports = s.imports := rfl
@[simp] theorem State.modCore_sealOut (s : State) (c : Nat) (f : Core → Core) : (s.modCore c f).sealOut = s.sealOut := rfl
@[simp] theorem State.modCore_discarded (s : State) (c : Nat) (f : Core → Core) : (s.modCore c f).discarded = s.discarded := rfl
@[simp] theorem State.modCore_victims (s : State) (c : Nat) (f : Core → Core) : (s.modCore c f).victims = s.victims := rfl
@[simp] theorem State.modCore_incoming (s : State) (c : Nat) (f : Core → Core) : (s.modCore c f).incoming = s.incoming := rfl
@[simp] theorem State.modCore_inputs (s : State) (c : Nat) (f : Core → Core) : (s.modCore c f).inputs = s.inputs := rfl
@[simp] theorem State.modCore_agenda (s : State) (c : Nat) (f : Core → Core) : (s.modCore c f).agenda = s.agenda := rfl
@[simp] theorem State.modCore_ctx (s : State) (c : Nat) (f : Core → Core) : (s.modCore c f).ctx = s.ctx := rfl
@[simp] theorem State.modCore_clock (s : State) (c : Nat) (f : Core → Core) : (s.modCore c f).clock = s.clock := rfl
@[simp] theorem State.modCore_fresh (s : State) (c : Nat) (f : Core → Core) : (s.modCore c f).fresh = s.fresh := rfl
@[simp] theorem State.modCore_serial (s : State) (c : Nat) (f : Core → Core) : (s.modCore c f).serial = s.serial := rfl

/-! setCur. -/

@[simp] theorem State.setCur_gals (s : State) (k : Core) : (s.setCur k).gals = s.gals := rfl
@[simp] theorem State.setCur_halls (s : State) (k : Core) : (s.setCur k).halls = s.halls := rfl
@[simp] theorem State.setCur_hbm (s : State) (k : Core) : (s.setCur k).hbm = s.hbm := rfl
@[simp] theorem State.setCur_sectors (s : State) (k : Core) : (s.setCur k).sectors = s.sectors := rfl
@[simp] theorem State.setCur_hostMem (s : State) (k : Core) : (s.setCur k).hostMem = s.hostMem := rfl
@[simp] theorem State.setCur_hostTags (s : State) (k : Core) : (s.setCur k).hostTags = s.hostTags := rfl
@[simp] theorem State.setCur_keys (s : State) (k : Core) : (s.setCur k).keys = s.keys := rfl
@[simp] theorem State.setCur_jobs (s : State) (k : Core) : (s.setCur k).jobs = s.jobs := rfl
@[simp] theorem State.setCur_tasks (s : State) (k : Core) : (s.setCur k).tasks = s.tasks := rfl
@[simp] theorem State.setCur_graphs (s : State) (k : Core) : (s.setCur k).graphs = s.graphs := rfl
@[simp] theorem State.setCur_foyer (s : State) (k : Core) : (s.setCur k).foyer = s.foyer := rfl
@[simp] theorem State.setCur_waiting (s : State) (k : Core) : (s.setCur k).waiting = s.waiting := rfl
@[simp] theorem State.setCur_admitted (s : State) (k : Core) : (s.setCur k).admitted = s.admitted := rfl
@[simp] theorem State.setCur_launches (s : State) (k : Core) : (s.setCur k).launches = s.launches := rfl
@[simp] theorem State.setCur_preempts (s : State) (k : Core) : (s.setCur k).preempts = s.preempts := rfl
@[simp] theorem State.setCur_mail (s : State) (k : Core) : (s.setCur k).mail = s.mail := rfl
@[simp] theorem State.setCur_box (s : State) (k : Core) : (s.setCur k).box = s.box := rfl
@[simp] theorem State.setCur_sessions (s : State) (k : Core) : (s.setCur k).sessions = s.sessions := rfl
@[simp] theorem State.setCur_log (s : State) (k : Core) : (s.setCur k).log = s.log := rfl
@[simp] theorem State.setCur_ownerLog (s : State) (k : Core) : (s.setCur k).ownerLog = s.ownerLog := rfl
@[simp] theorem State.setCur_seq (s : State) (k : Core) : (s.setCur k).seq = s.seq := rfl
@[simp] theorem State.setCur_corrected (s : State) (k : Core) : (s.setCur k).corrected = s.corrected := rfl
@[simp] theorem State.setCur_sramue (s : State) (k : Core) : (s.setCur k).sramue = s.sramue := rfl
@[simp] theorem State.setCur_lockMis (s : State) (k : Core) : (s.setCur k).lockMis = s.lockMis := rfl
@[simp] theorem State.setCur_msix (s : State) (k : Core) : (s.setCur k).msix = s.msix := rfl
@[simp] theorem State.setCur_msixPend (s : State) (k : Core) : (s.setCur k).msixPend = s.msixPend := rfl
@[simp] theorem State.setCur_host (s : State) (k : Core) : (s.setCur k).host = s.host := rfl
@[simp] theorem State.setCur_ports (s : State) (k : Core) : (s.setCur k).ports = s.ports := rfl
@[simp] theorem State.setCur_sentSeq (s : State) (k : Core) : (s.setCur k).sentSeq = s.sentSeq := rfl
@[simp] theorem State.setCur_recvSeq (s : State) (k : Core) : (s.setCur k).recvSeq = s.recvSeq := rfl
@[simp] theorem State.setCur_early (s : State) (k : Core) : (s.setCur k).early = s.early := rfl
@[simp] theorem State.setCur_out (s : State) (k : Core) : (s.setCur k).out = s.out := rfl
@[simp] theorem State.setCur_lateral (s : State) (k : Core) : (s.setCur k).lateral = s.lateral := rfl
@[simp] theorem State.setCur_queued (s : State) (k : Core) : (s.setCur k).queued = s.queued := rfl
@[simp] theorem State.setCur_spill (s : State) (k : Core) : (s.setCur k).spill = s.spill := rfl
@[simp] theorem State.setCur_unacked (s : State) (k : Core) : (s.setCur k).unacked = s.unacked := rfl
@[simp] theorem State.setCur_replies (s : State) (k : Core) : (s.setCur k).replies = s.replies := rfl
@[simp] theorem State.setCur_asked (s : State) (k : Core) : (s.setCur k).asked = s.asked := rfl
@[simp] theorem State.setCur_retired (s : State) (k : Core) : (s.setCur k).retired = s.retired := rfl
@[simp] theorem State.setCur_saves (s : State) (k : Core) : (s.setCur k).saves = s.saves := rfl
@[simp] theorem State.setCur_saveVaults (s : State) (k : Core) : (s.setCur k).saveVaults = s.saveVaults := rfl
@[simp] theorem State.setCur_hostOut (s : State) (k : Core) : (s.setCur k).hostOut = s.hostOut := rfl
@[simp] theorem State.setCur_hostFails (s : State) (k : Core) : (s.setCur k).hostFails = s.hostFails := rfl
@[simp] theorem State.setCur_heldIo (s : State) (k : Core) : (s.setCur k).heldIo = s.heldIo := rfl
@[simp] theorem State.setCur_traces (s : State) (k : Core) : (s.setCur k).traces = s.traces := rfl
@[simp] theorem State.setCur_driverTraces (s : State) (k : Core) : (s.setCur k).driverTraces = s.driverTraces := rfl
@[simp] theorem State.setCur_ownerTraces (s : State) (k : Core) : (s.setCur k).ownerTraces = s.ownerTraces := rfl
@[simp] theorem State.setCur_heldDebug (s : State) (k : Core) : (s.setCur k).heldDebug = s.heldDebug := rfl
@[simp] theorem State.setCur_imports (s : State) (k : Core) : (s.setCur k).imports = s.imports := rfl
@[simp] theorem State.setCur_sealOut (s : State) (k : Core) : (s.setCur k).sealOut = s.sealOut := rfl
@[simp] theorem State.setCur_discarded (s : State) (k : Core) : (s.setCur k).discarded = s.discarded := rfl
@[simp] theorem State.setCur_victims (s : State) (k : Core) : (s.setCur k).victims = s.victims := rfl
@[simp] theorem State.setCur_incoming (s : State) (k : Core) : (s.setCur k).incoming = s.incoming := rfl
@[simp] theorem State.setCur_inputs (s : State) (k : Core) : (s.setCur k).inputs = s.inputs := rfl
@[simp] theorem State.setCur_agenda (s : State) (k : Core) : (s.setCur k).agenda = s.agenda := rfl
@[simp] theorem State.setCur_ctx (s : State) (k : Core) : (s.setCur k).ctx = s.ctx := rfl
@[simp] theorem State.setCur_clock (s : State) (k : Core) : (s.setCur k).clock = s.clock := rfl
@[simp] theorem State.setCur_fresh (s : State) (k : Core) : (s.setCur k).fresh = s.fresh := rfl
@[simp] theorem State.setCur_serial (s : State) (k : Core) : (s.setCur k).serial = s.serial := rfl

/-! modCur. -/

@[simp] theorem State.modCur_gals (s : State) (f : Core → Core) : (s.modCur f).gals = s.gals := rfl
@[simp] theorem State.modCur_halls (s : State) (f : Core → Core) : (s.modCur f).halls = s.halls := rfl
@[simp] theorem State.modCur_hbm (s : State) (f : Core → Core) : (s.modCur f).hbm = s.hbm := rfl
@[simp] theorem State.modCur_sectors (s : State) (f : Core → Core) : (s.modCur f).sectors = s.sectors := rfl
@[simp] theorem State.modCur_hostMem (s : State) (f : Core → Core) : (s.modCur f).hostMem = s.hostMem := rfl
@[simp] theorem State.modCur_hostTags (s : State) (f : Core → Core) : (s.modCur f).hostTags = s.hostTags := rfl
@[simp] theorem State.modCur_keys (s : State) (f : Core → Core) : (s.modCur f).keys = s.keys := rfl
@[simp] theorem State.modCur_jobs (s : State) (f : Core → Core) : (s.modCur f).jobs = s.jobs := rfl
@[simp] theorem State.modCur_tasks (s : State) (f : Core → Core) : (s.modCur f).tasks = s.tasks := rfl
@[simp] theorem State.modCur_graphs (s : State) (f : Core → Core) : (s.modCur f).graphs = s.graphs := rfl
@[simp] theorem State.modCur_foyer (s : State) (f : Core → Core) : (s.modCur f).foyer = s.foyer := rfl
@[simp] theorem State.modCur_waiting (s : State) (f : Core → Core) : (s.modCur f).waiting = s.waiting := rfl
@[simp] theorem State.modCur_admitted (s : State) (f : Core → Core) : (s.modCur f).admitted = s.admitted := rfl
@[simp] theorem State.modCur_launches (s : State) (f : Core → Core) : (s.modCur f).launches = s.launches := rfl
@[simp] theorem State.modCur_preempts (s : State) (f : Core → Core) : (s.modCur f).preempts = s.preempts := rfl
@[simp] theorem State.modCur_mail (s : State) (f : Core → Core) : (s.modCur f).mail = s.mail := rfl
@[simp] theorem State.modCur_box (s : State) (f : Core → Core) : (s.modCur f).box = s.box := rfl
@[simp] theorem State.modCur_sessions (s : State) (f : Core → Core) : (s.modCur f).sessions = s.sessions := rfl
@[simp] theorem State.modCur_log (s : State) (f : Core → Core) : (s.modCur f).log = s.log := rfl
@[simp] theorem State.modCur_ownerLog (s : State) (f : Core → Core) : (s.modCur f).ownerLog = s.ownerLog := rfl
@[simp] theorem State.modCur_seq (s : State) (f : Core → Core) : (s.modCur f).seq = s.seq := rfl
@[simp] theorem State.modCur_corrected (s : State) (f : Core → Core) : (s.modCur f).corrected = s.corrected := rfl
@[simp] theorem State.modCur_sramue (s : State) (f : Core → Core) : (s.modCur f).sramue = s.sramue := rfl
@[simp] theorem State.modCur_lockMis (s : State) (f : Core → Core) : (s.modCur f).lockMis = s.lockMis := rfl
@[simp] theorem State.modCur_msix (s : State) (f : Core → Core) : (s.modCur f).msix = s.msix := rfl
@[simp] theorem State.modCur_msixPend (s : State) (f : Core → Core) : (s.modCur f).msixPend = s.msixPend := rfl
@[simp] theorem State.modCur_host (s : State) (f : Core → Core) : (s.modCur f).host = s.host := rfl
@[simp] theorem State.modCur_ports (s : State) (f : Core → Core) : (s.modCur f).ports = s.ports := rfl
@[simp] theorem State.modCur_sentSeq (s : State) (f : Core → Core) : (s.modCur f).sentSeq = s.sentSeq := rfl
@[simp] theorem State.modCur_recvSeq (s : State) (f : Core → Core) : (s.modCur f).recvSeq = s.recvSeq := rfl
@[simp] theorem State.modCur_early (s : State) (f : Core → Core) : (s.modCur f).early = s.early := rfl
@[simp] theorem State.modCur_out (s : State) (f : Core → Core) : (s.modCur f).out = s.out := rfl
@[simp] theorem State.modCur_lateral (s : State) (f : Core → Core) : (s.modCur f).lateral = s.lateral := rfl
@[simp] theorem State.modCur_queued (s : State) (f : Core → Core) : (s.modCur f).queued = s.queued := rfl
@[simp] theorem State.modCur_spill (s : State) (f : Core → Core) : (s.modCur f).spill = s.spill := rfl
@[simp] theorem State.modCur_unacked (s : State) (f : Core → Core) : (s.modCur f).unacked = s.unacked := rfl
@[simp] theorem State.modCur_replies (s : State) (f : Core → Core) : (s.modCur f).replies = s.replies := rfl
@[simp] theorem State.modCur_asked (s : State) (f : Core → Core) : (s.modCur f).asked = s.asked := rfl
@[simp] theorem State.modCur_retired (s : State) (f : Core → Core) : (s.modCur f).retired = s.retired := rfl
@[simp] theorem State.modCur_saves (s : State) (f : Core → Core) : (s.modCur f).saves = s.saves := rfl
@[simp] theorem State.modCur_saveVaults (s : State) (f : Core → Core) : (s.modCur f).saveVaults = s.saveVaults := rfl
@[simp] theorem State.modCur_hostOut (s : State) (f : Core → Core) : (s.modCur f).hostOut = s.hostOut := rfl
@[simp] theorem State.modCur_hostFails (s : State) (f : Core → Core) : (s.modCur f).hostFails = s.hostFails := rfl
@[simp] theorem State.modCur_heldIo (s : State) (f : Core → Core) : (s.modCur f).heldIo = s.heldIo := rfl
@[simp] theorem State.modCur_traces (s : State) (f : Core → Core) : (s.modCur f).traces = s.traces := rfl
@[simp] theorem State.modCur_driverTraces (s : State) (f : Core → Core) : (s.modCur f).driverTraces = s.driverTraces := rfl
@[simp] theorem State.modCur_ownerTraces (s : State) (f : Core → Core) : (s.modCur f).ownerTraces = s.ownerTraces := rfl
@[simp] theorem State.modCur_heldDebug (s : State) (f : Core → Core) : (s.modCur f).heldDebug = s.heldDebug := rfl
@[simp] theorem State.modCur_imports (s : State) (f : Core → Core) : (s.modCur f).imports = s.imports := rfl
@[simp] theorem State.modCur_sealOut (s : State) (f : Core → Core) : (s.modCur f).sealOut = s.sealOut := rfl
@[simp] theorem State.modCur_discarded (s : State) (f : Core → Core) : (s.modCur f).discarded = s.discarded := rfl
@[simp] theorem State.modCur_victims (s : State) (f : Core → Core) : (s.modCur f).victims = s.victims := rfl
@[simp] theorem State.modCur_incoming (s : State) (f : Core → Core) : (s.modCur f).incoming = s.incoming := rfl
@[simp] theorem State.modCur_inputs (s : State) (f : Core → Core) : (s.modCur f).inputs = s.inputs := rfl
@[simp] theorem State.modCur_agenda (s : State) (f : Core → Core) : (s.modCur f).agenda = s.agenda := rfl
@[simp] theorem State.modCur_ctx (s : State) (f : Core → Core) : (s.modCur f).ctx = s.ctx := rfl
@[simp] theorem State.modCur_clock (s : State) (f : Core → Core) : (s.modCur f).clock = s.clock := rfl
@[simp] theorem State.modCur_fresh (s : State) (f : Core → Core) : (s.modCur f).fresh = s.fresh := rfl
@[simp] theorem State.modCur_serial (s : State) (f : Core → Core) : (s.modCur f).serial = s.serial := rfl

/-! setGal. -/

@[simp] theorem State.setGal_cores (s : State) (g : Nat) (x : Gallery) : (s.setGal g x).cores = s.cores := rfl
@[simp] theorem State.setGal_halls (s : State) (g : Nat) (x : Gallery) : (s.setGal g x).halls = s.halls := rfl
@[simp] theorem State.setGal_hbm (s : State) (g : Nat) (x : Gallery) : (s.setGal g x).hbm = s.hbm := rfl
@[simp] theorem State.setGal_sectors (s : State) (g : Nat) (x : Gallery) : (s.setGal g x).sectors = s.sectors := rfl
@[simp] theorem State.setGal_hostMem (s : State) (g : Nat) (x : Gallery) : (s.setGal g x).hostMem = s.hostMem := rfl
@[simp] theorem State.setGal_hostTags (s : State) (g : Nat) (x : Gallery) : (s.setGal g x).hostTags = s.hostTags := rfl
@[simp] theorem State.setGal_keys (s : State) (g : Nat) (x : Gallery) : (s.setGal g x).keys = s.keys := rfl
@[simp] theorem State.setGal_jobs (s : State) (g : Nat) (x : Gallery) : (s.setGal g x).jobs = s.jobs := rfl
@[simp] theorem State.setGal_tasks (s : State) (g : Nat) (x : Gallery) : (s.setGal g x).tasks = s.tasks := rfl
@[simp] theorem State.setGal_graphs (s : State) (g : Nat) (x : Gallery) : (s.setGal g x).graphs = s.graphs := rfl
@[simp] theorem State.setGal_foyer (s : State) (g : Nat) (x : Gallery) : (s.setGal g x).foyer = s.foyer := rfl
@[simp] theorem State.setGal_waiting (s : State) (g : Nat) (x : Gallery) : (s.setGal g x).waiting = s.waiting := rfl
@[simp] theorem State.setGal_admitted (s : State) (g : Nat) (x : Gallery) : (s.setGal g x).admitted = s.admitted := rfl
@[simp] theorem State.setGal_launches (s : State) (g : Nat) (x : Gallery) : (s.setGal g x).launches = s.launches := rfl
@[simp] theorem State.setGal_preempts (s : State) (g : Nat) (x : Gallery) : (s.setGal g x).preempts = s.preempts := rfl
@[simp] theorem State.setGal_mail (s : State) (g : Nat) (x : Gallery) : (s.setGal g x).mail = s.mail := rfl
@[simp] theorem State.setGal_box (s : State) (g : Nat) (x : Gallery) : (s.setGal g x).box = s.box := rfl
@[simp] theorem State.setGal_sessions (s : State) (g : Nat) (x : Gallery) : (s.setGal g x).sessions = s.sessions := rfl
@[simp] theorem State.setGal_log (s : State) (g : Nat) (x : Gallery) : (s.setGal g x).log = s.log := rfl
@[simp] theorem State.setGal_ownerLog (s : State) (g : Nat) (x : Gallery) : (s.setGal g x).ownerLog = s.ownerLog := rfl
@[simp] theorem State.setGal_seq (s : State) (g : Nat) (x : Gallery) : (s.setGal g x).seq = s.seq := rfl
@[simp] theorem State.setGal_corrected (s : State) (g : Nat) (x : Gallery) : (s.setGal g x).corrected = s.corrected := rfl
@[simp] theorem State.setGal_sramue (s : State) (g : Nat) (x : Gallery) : (s.setGal g x).sramue = s.sramue := rfl
@[simp] theorem State.setGal_lockMis (s : State) (g : Nat) (x : Gallery) : (s.setGal g x).lockMis = s.lockMis := rfl
@[simp] theorem State.setGal_msix (s : State) (g : Nat) (x : Gallery) : (s.setGal g x).msix = s.msix := rfl
@[simp] theorem State.setGal_msixPend (s : State) (g : Nat) (x : Gallery) : (s.setGal g x).msixPend = s.msixPend := rfl
@[simp] theorem State.setGal_host (s : State) (g : Nat) (x : Gallery) : (s.setGal g x).host = s.host := rfl
@[simp] theorem State.setGal_ports (s : State) (g : Nat) (x : Gallery) : (s.setGal g x).ports = s.ports := rfl
@[simp] theorem State.setGal_sentSeq (s : State) (g : Nat) (x : Gallery) : (s.setGal g x).sentSeq = s.sentSeq := rfl
@[simp] theorem State.setGal_recvSeq (s : State) (g : Nat) (x : Gallery) : (s.setGal g x).recvSeq = s.recvSeq := rfl
@[simp] theorem State.setGal_early (s : State) (g : Nat) (x : Gallery) : (s.setGal g x).early = s.early := rfl
@[simp] theorem State.setGal_out (s : State) (g : Nat) (x : Gallery) : (s.setGal g x).out = s.out := rfl
@[simp] theorem State.setGal_lateral (s : State) (g : Nat) (x : Gallery) : (s.setGal g x).lateral = s.lateral := rfl
@[simp] theorem State.setGal_queued (s : State) (g : Nat) (x : Gallery) : (s.setGal g x).queued = s.queued := rfl
@[simp] theorem State.setGal_spill (s : State) (g : Nat) (x : Gallery) : (s.setGal g x).spill = s.spill := rfl
@[simp] theorem State.setGal_unacked (s : State) (g : Nat) (x : Gallery) : (s.setGal g x).unacked = s.unacked := rfl
@[simp] theorem State.setGal_replies (s : State) (g : Nat) (x : Gallery) : (s.setGal g x).replies = s.replies := rfl
@[simp] theorem State.setGal_asked (s : State) (g : Nat) (x : Gallery) : (s.setGal g x).asked = s.asked := rfl
@[simp] theorem State.setGal_retired (s : State) (g : Nat) (x : Gallery) : (s.setGal g x).retired = s.retired := rfl
@[simp] theorem State.setGal_saves (s : State) (g : Nat) (x : Gallery) : (s.setGal g x).saves = s.saves := rfl
@[simp] theorem State.setGal_saveVaults (s : State) (g : Nat) (x : Gallery) : (s.setGal g x).saveVaults = s.saveVaults := rfl
@[simp] theorem State.setGal_hostOut (s : State) (g : Nat) (x : Gallery) : (s.setGal g x).hostOut = s.hostOut := rfl
@[simp] theorem State.setGal_hostFails (s : State) (g : Nat) (x : Gallery) : (s.setGal g x).hostFails = s.hostFails := rfl
@[simp] theorem State.setGal_heldIo (s : State) (g : Nat) (x : Gallery) : (s.setGal g x).heldIo = s.heldIo := rfl
@[simp] theorem State.setGal_traces (s : State) (g : Nat) (x : Gallery) : (s.setGal g x).traces = s.traces := rfl
@[simp] theorem State.setGal_driverTraces (s : State) (g : Nat) (x : Gallery) : (s.setGal g x).driverTraces = s.driverTraces := rfl
@[simp] theorem State.setGal_ownerTraces (s : State) (g : Nat) (x : Gallery) : (s.setGal g x).ownerTraces = s.ownerTraces := rfl
@[simp] theorem State.setGal_heldDebug (s : State) (g : Nat) (x : Gallery) : (s.setGal g x).heldDebug = s.heldDebug := rfl
@[simp] theorem State.setGal_imports (s : State) (g : Nat) (x : Gallery) : (s.setGal g x).imports = s.imports := rfl
@[simp] theorem State.setGal_sealOut (s : State) (g : Nat) (x : Gallery) : (s.setGal g x).sealOut = s.sealOut := rfl
@[simp] theorem State.setGal_discarded (s : State) (g : Nat) (x : Gallery) : (s.setGal g x).discarded = s.discarded := rfl
@[simp] theorem State.setGal_victims (s : State) (g : Nat) (x : Gallery) : (s.setGal g x).victims = s.victims := rfl
@[simp] theorem State.setGal_incoming (s : State) (g : Nat) (x : Gallery) : (s.setGal g x).incoming = s.incoming := rfl
@[simp] theorem State.setGal_inputs (s : State) (g : Nat) (x : Gallery) : (s.setGal g x).inputs = s.inputs := rfl
@[simp] theorem State.setGal_agenda (s : State) (g : Nat) (x : Gallery) : (s.setGal g x).agenda = s.agenda := rfl
@[simp] theorem State.setGal_ctx (s : State) (g : Nat) (x : Gallery) : (s.setGal g x).ctx = s.ctx := rfl
@[simp] theorem State.setGal_clock (s : State) (g : Nat) (x : Gallery) : (s.setGal g x).clock = s.clock := rfl
@[simp] theorem State.setGal_fresh (s : State) (g : Nat) (x : Gallery) : (s.setGal g x).fresh = s.fresh := rfl
@[simp] theorem State.setGal_serial (s : State) (g : Nat) (x : Gallery) : (s.setGal g x).serial = s.serial := rfl

/-! modGal. -/

@[simp] theorem State.modGal_cores (s : State) (g : Nat) (f : Gallery → Gallery) : (s.modGal g f).cores = s.cores := rfl
@[simp] theorem State.modGal_halls (s : State) (g : Nat) (f : Gallery → Gallery) : (s.modGal g f).halls = s.halls := rfl
@[simp] theorem State.modGal_hbm (s : State) (g : Nat) (f : Gallery → Gallery) : (s.modGal g f).hbm = s.hbm := rfl
@[simp] theorem State.modGal_sectors (s : State) (g : Nat) (f : Gallery → Gallery) : (s.modGal g f).sectors = s.sectors := rfl
@[simp] theorem State.modGal_hostMem (s : State) (g : Nat) (f : Gallery → Gallery) : (s.modGal g f).hostMem = s.hostMem := rfl
@[simp] theorem State.modGal_hostTags (s : State) (g : Nat) (f : Gallery → Gallery) : (s.modGal g f).hostTags = s.hostTags := rfl
@[simp] theorem State.modGal_keys (s : State) (g : Nat) (f : Gallery → Gallery) : (s.modGal g f).keys = s.keys := rfl
@[simp] theorem State.modGal_jobs (s : State) (g : Nat) (f : Gallery → Gallery) : (s.modGal g f).jobs = s.jobs := rfl
@[simp] theorem State.modGal_tasks (s : State) (g : Nat) (f : Gallery → Gallery) : (s.modGal g f).tasks = s.tasks := rfl
@[simp] theorem State.modGal_graphs (s : State) (g : Nat) (f : Gallery → Gallery) : (s.modGal g f).graphs = s.graphs := rfl
@[simp] theorem State.modGal_foyer (s : State) (g : Nat) (f : Gallery → Gallery) : (s.modGal g f).foyer = s.foyer := rfl
@[simp] theorem State.modGal_waiting (s : State) (g : Nat) (f : Gallery → Gallery) : (s.modGal g f).waiting = s.waiting := rfl
@[simp] theorem State.modGal_admitted (s : State) (g : Nat) (f : Gallery → Gallery) : (s.modGal g f).admitted = s.admitted := rfl
@[simp] theorem State.modGal_launches (s : State) (g : Nat) (f : Gallery → Gallery) : (s.modGal g f).launches = s.launches := rfl
@[simp] theorem State.modGal_preempts (s : State) (g : Nat) (f : Gallery → Gallery) : (s.modGal g f).preempts = s.preempts := rfl
@[simp] theorem State.modGal_mail (s : State) (g : Nat) (f : Gallery → Gallery) : (s.modGal g f).mail = s.mail := rfl
@[simp] theorem State.modGal_box (s : State) (g : Nat) (f : Gallery → Gallery) : (s.modGal g f).box = s.box := rfl
@[simp] theorem State.modGal_sessions (s : State) (g : Nat) (f : Gallery → Gallery) : (s.modGal g f).sessions = s.sessions := rfl
@[simp] theorem State.modGal_log (s : State) (g : Nat) (f : Gallery → Gallery) : (s.modGal g f).log = s.log := rfl
@[simp] theorem State.modGal_ownerLog (s : State) (g : Nat) (f : Gallery → Gallery) : (s.modGal g f).ownerLog = s.ownerLog := rfl
@[simp] theorem State.modGal_seq (s : State) (g : Nat) (f : Gallery → Gallery) : (s.modGal g f).seq = s.seq := rfl
@[simp] theorem State.modGal_corrected (s : State) (g : Nat) (f : Gallery → Gallery) : (s.modGal g f).corrected = s.corrected := rfl
@[simp] theorem State.modGal_sramue (s : State) (g : Nat) (f : Gallery → Gallery) : (s.modGal g f).sramue = s.sramue := rfl
@[simp] theorem State.modGal_lockMis (s : State) (g : Nat) (f : Gallery → Gallery) : (s.modGal g f).lockMis = s.lockMis := rfl
@[simp] theorem State.modGal_msix (s : State) (g : Nat) (f : Gallery → Gallery) : (s.modGal g f).msix = s.msix := rfl
@[simp] theorem State.modGal_msixPend (s : State) (g : Nat) (f : Gallery → Gallery) : (s.modGal g f).msixPend = s.msixPend := rfl
@[simp] theorem State.modGal_host (s : State) (g : Nat) (f : Gallery → Gallery) : (s.modGal g f).host = s.host := rfl
@[simp] theorem State.modGal_ports (s : State) (g : Nat) (f : Gallery → Gallery) : (s.modGal g f).ports = s.ports := rfl
@[simp] theorem State.modGal_sentSeq (s : State) (g : Nat) (f : Gallery → Gallery) : (s.modGal g f).sentSeq = s.sentSeq := rfl
@[simp] theorem State.modGal_recvSeq (s : State) (g : Nat) (f : Gallery → Gallery) : (s.modGal g f).recvSeq = s.recvSeq := rfl
@[simp] theorem State.modGal_early (s : State) (g : Nat) (f : Gallery → Gallery) : (s.modGal g f).early = s.early := rfl
@[simp] theorem State.modGal_out (s : State) (g : Nat) (f : Gallery → Gallery) : (s.modGal g f).out = s.out := rfl
@[simp] theorem State.modGal_lateral (s : State) (g : Nat) (f : Gallery → Gallery) : (s.modGal g f).lateral = s.lateral := rfl
@[simp] theorem State.modGal_queued (s : State) (g : Nat) (f : Gallery → Gallery) : (s.modGal g f).queued = s.queued := rfl
@[simp] theorem State.modGal_spill (s : State) (g : Nat) (f : Gallery → Gallery) : (s.modGal g f).spill = s.spill := rfl
@[simp] theorem State.modGal_unacked (s : State) (g : Nat) (f : Gallery → Gallery) : (s.modGal g f).unacked = s.unacked := rfl
@[simp] theorem State.modGal_replies (s : State) (g : Nat) (f : Gallery → Gallery) : (s.modGal g f).replies = s.replies := rfl
@[simp] theorem State.modGal_asked (s : State) (g : Nat) (f : Gallery → Gallery) : (s.modGal g f).asked = s.asked := rfl
@[simp] theorem State.modGal_retired (s : State) (g : Nat) (f : Gallery → Gallery) : (s.modGal g f).retired = s.retired := rfl
@[simp] theorem State.modGal_saves (s : State) (g : Nat) (f : Gallery → Gallery) : (s.modGal g f).saves = s.saves := rfl
@[simp] theorem State.modGal_saveVaults (s : State) (g : Nat) (f : Gallery → Gallery) : (s.modGal g f).saveVaults = s.saveVaults := rfl
@[simp] theorem State.modGal_hostOut (s : State) (g : Nat) (f : Gallery → Gallery) : (s.modGal g f).hostOut = s.hostOut := rfl
@[simp] theorem State.modGal_hostFails (s : State) (g : Nat) (f : Gallery → Gallery) : (s.modGal g f).hostFails = s.hostFails := rfl
@[simp] theorem State.modGal_heldIo (s : State) (g : Nat) (f : Gallery → Gallery) : (s.modGal g f).heldIo = s.heldIo := rfl
@[simp] theorem State.modGal_traces (s : State) (g : Nat) (f : Gallery → Gallery) : (s.modGal g f).traces = s.traces := rfl
@[simp] theorem State.modGal_driverTraces (s : State) (g : Nat) (f : Gallery → Gallery) : (s.modGal g f).driverTraces = s.driverTraces := rfl
@[simp] theorem State.modGal_ownerTraces (s : State) (g : Nat) (f : Gallery → Gallery) : (s.modGal g f).ownerTraces = s.ownerTraces := rfl
@[simp] theorem State.modGal_heldDebug (s : State) (g : Nat) (f : Gallery → Gallery) : (s.modGal g f).heldDebug = s.heldDebug := rfl
@[simp] theorem State.modGal_imports (s : State) (g : Nat) (f : Gallery → Gallery) : (s.modGal g f).imports = s.imports := rfl
@[simp] theorem State.modGal_sealOut (s : State) (g : Nat) (f : Gallery → Gallery) : (s.modGal g f).sealOut = s.sealOut := rfl
@[simp] theorem State.modGal_discarded (s : State) (g : Nat) (f : Gallery → Gallery) : (s.modGal g f).discarded = s.discarded := rfl
@[simp] theorem State.modGal_victims (s : State) (g : Nat) (f : Gallery → Gallery) : (s.modGal g f).victims = s.victims := rfl
@[simp] theorem State.modGal_incoming (s : State) (g : Nat) (f : Gallery → Gallery) : (s.modGal g f).incoming = s.incoming := rfl
@[simp] theorem State.modGal_inputs (s : State) (g : Nat) (f : Gallery → Gallery) : (s.modGal g f).inputs = s.inputs := rfl
@[simp] theorem State.modGal_agenda (s : State) (g : Nat) (f : Gallery → Gallery) : (s.modGal g f).agenda = s.agenda := rfl
@[simp] theorem State.modGal_ctx (s : State) (g : Nat) (f : Gallery → Gallery) : (s.modGal g f).ctx = s.ctx := rfl
@[simp] theorem State.modGal_clock (s : State) (g : Nat) (f : Gallery → Gallery) : (s.modGal g f).clock = s.clock := rfl
@[simp] theorem State.modGal_fresh (s : State) (g : Nat) (f : Gallery → Gallery) : (s.modGal g f).fresh = s.fresh := rfl
@[simp] theorem State.modGal_serial (s : State) (g : Nat) (f : Gallery → Gallery) : (s.modGal g f).serial = s.serial := rfl

/-! modHall. -/

@[simp] theorem State.modHall_cores (s : State) (h : Nat) (f : Hall → Hall) : (s.modHall h f).cores = s.cores := rfl
@[simp] theorem State.modHall_gals (s : State) (h : Nat) (f : Hall → Hall) : (s.modHall h f).gals = s.gals := rfl
@[simp] theorem State.modHall_hbm (s : State) (h : Nat) (f : Hall → Hall) : (s.modHall h f).hbm = s.hbm := rfl
@[simp] theorem State.modHall_sectors (s : State) (h : Nat) (f : Hall → Hall) : (s.modHall h f).sectors = s.sectors := rfl
@[simp] theorem State.modHall_hostMem (s : State) (h : Nat) (f : Hall → Hall) : (s.modHall h f).hostMem = s.hostMem := rfl
@[simp] theorem State.modHall_hostTags (s : State) (h : Nat) (f : Hall → Hall) : (s.modHall h f).hostTags = s.hostTags := rfl
@[simp] theorem State.modHall_keys (s : State) (h : Nat) (f : Hall → Hall) : (s.modHall h f).keys = s.keys := rfl
@[simp] theorem State.modHall_jobs (s : State) (h : Nat) (f : Hall → Hall) : (s.modHall h f).jobs = s.jobs := rfl
@[simp] theorem State.modHall_tasks (s : State) (h : Nat) (f : Hall → Hall) : (s.modHall h f).tasks = s.tasks := rfl
@[simp] theorem State.modHall_graphs (s : State) (h : Nat) (f : Hall → Hall) : (s.modHall h f).graphs = s.graphs := rfl
@[simp] theorem State.modHall_foyer (s : State) (h : Nat) (f : Hall → Hall) : (s.modHall h f).foyer = s.foyer := rfl
@[simp] theorem State.modHall_waiting (s : State) (h : Nat) (f : Hall → Hall) : (s.modHall h f).waiting = s.waiting := rfl
@[simp] theorem State.modHall_admitted (s : State) (h : Nat) (f : Hall → Hall) : (s.modHall h f).admitted = s.admitted := rfl
@[simp] theorem State.modHall_launches (s : State) (h : Nat) (f : Hall → Hall) : (s.modHall h f).launches = s.launches := rfl
@[simp] theorem State.modHall_preempts (s : State) (h : Nat) (f : Hall → Hall) : (s.modHall h f).preempts = s.preempts := rfl
@[simp] theorem State.modHall_mail (s : State) (h : Nat) (f : Hall → Hall) : (s.modHall h f).mail = s.mail := rfl
@[simp] theorem State.modHall_box (s : State) (h : Nat) (f : Hall → Hall) : (s.modHall h f).box = s.box := rfl
@[simp] theorem State.modHall_sessions (s : State) (h : Nat) (f : Hall → Hall) : (s.modHall h f).sessions = s.sessions := rfl
@[simp] theorem State.modHall_log (s : State) (h : Nat) (f : Hall → Hall) : (s.modHall h f).log = s.log := rfl
@[simp] theorem State.modHall_ownerLog (s : State) (h : Nat) (f : Hall → Hall) : (s.modHall h f).ownerLog = s.ownerLog := rfl
@[simp] theorem State.modHall_seq (s : State) (h : Nat) (f : Hall → Hall) : (s.modHall h f).seq = s.seq := rfl
@[simp] theorem State.modHall_corrected (s : State) (h : Nat) (f : Hall → Hall) : (s.modHall h f).corrected = s.corrected := rfl
@[simp] theorem State.modHall_sramue (s : State) (h : Nat) (f : Hall → Hall) : (s.modHall h f).sramue = s.sramue := rfl
@[simp] theorem State.modHall_lockMis (s : State) (h : Nat) (f : Hall → Hall) : (s.modHall h f).lockMis = s.lockMis := rfl
@[simp] theorem State.modHall_msix (s : State) (h : Nat) (f : Hall → Hall) : (s.modHall h f).msix = s.msix := rfl
@[simp] theorem State.modHall_msixPend (s : State) (h : Nat) (f : Hall → Hall) : (s.modHall h f).msixPend = s.msixPend := rfl
@[simp] theorem State.modHall_host (s : State) (h : Nat) (f : Hall → Hall) : (s.modHall h f).host = s.host := rfl
@[simp] theorem State.modHall_ports (s : State) (h : Nat) (f : Hall → Hall) : (s.modHall h f).ports = s.ports := rfl
@[simp] theorem State.modHall_sentSeq (s : State) (h : Nat) (f : Hall → Hall) : (s.modHall h f).sentSeq = s.sentSeq := rfl
@[simp] theorem State.modHall_recvSeq (s : State) (h : Nat) (f : Hall → Hall) : (s.modHall h f).recvSeq = s.recvSeq := rfl
@[simp] theorem State.modHall_early (s : State) (h : Nat) (f : Hall → Hall) : (s.modHall h f).early = s.early := rfl
@[simp] theorem State.modHall_out (s : State) (h : Nat) (f : Hall → Hall) : (s.modHall h f).out = s.out := rfl
@[simp] theorem State.modHall_lateral (s : State) (h : Nat) (f : Hall → Hall) : (s.modHall h f).lateral = s.lateral := rfl
@[simp] theorem State.modHall_queued (s : State) (h : Nat) (f : Hall → Hall) : (s.modHall h f).queued = s.queued := rfl
@[simp] theorem State.modHall_spill (s : State) (h : Nat) (f : Hall → Hall) : (s.modHall h f).spill = s.spill := rfl
@[simp] theorem State.modHall_unacked (s : State) (h : Nat) (f : Hall → Hall) : (s.modHall h f).unacked = s.unacked := rfl
@[simp] theorem State.modHall_replies (s : State) (h : Nat) (f : Hall → Hall) : (s.modHall h f).replies = s.replies := rfl
@[simp] theorem State.modHall_asked (s : State) (h : Nat) (f : Hall → Hall) : (s.modHall h f).asked = s.asked := rfl
@[simp] theorem State.modHall_retired (s : State) (h : Nat) (f : Hall → Hall) : (s.modHall h f).retired = s.retired := rfl
@[simp] theorem State.modHall_saves (s : State) (h : Nat) (f : Hall → Hall) : (s.modHall h f).saves = s.saves := rfl
@[simp] theorem State.modHall_saveVaults (s : State) (h : Nat) (f : Hall → Hall) : (s.modHall h f).saveVaults = s.saveVaults := rfl
@[simp] theorem State.modHall_hostOut (s : State) (h : Nat) (f : Hall → Hall) : (s.modHall h f).hostOut = s.hostOut := rfl
@[simp] theorem State.modHall_hostFails (s : State) (h : Nat) (f : Hall → Hall) : (s.modHall h f).hostFails = s.hostFails := rfl
@[simp] theorem State.modHall_heldIo (s : State) (h : Nat) (f : Hall → Hall) : (s.modHall h f).heldIo = s.heldIo := rfl
@[simp] theorem State.modHall_traces (s : State) (h : Nat) (f : Hall → Hall) : (s.modHall h f).traces = s.traces := rfl
@[simp] theorem State.modHall_driverTraces (s : State) (h : Nat) (f : Hall → Hall) : (s.modHall h f).driverTraces = s.driverTraces := rfl
@[simp] theorem State.modHall_ownerTraces (s : State) (h : Nat) (f : Hall → Hall) : (s.modHall h f).ownerTraces = s.ownerTraces := rfl
@[simp] theorem State.modHall_heldDebug (s : State) (h : Nat) (f : Hall → Hall) : (s.modHall h f).heldDebug = s.heldDebug := rfl
@[simp] theorem State.modHall_imports (s : State) (h : Nat) (f : Hall → Hall) : (s.modHall h f).imports = s.imports := rfl
@[simp] theorem State.modHall_sealOut (s : State) (h : Nat) (f : Hall → Hall) : (s.modHall h f).sealOut = s.sealOut := rfl
@[simp] theorem State.modHall_discarded (s : State) (h : Nat) (f : Hall → Hall) : (s.modHall h f).discarded = s.discarded := rfl
@[simp] theorem State.modHall_victims (s : State) (h : Nat) (f : Hall → Hall) : (s.modHall h f).victims = s.victims := rfl
@[simp] theorem State.modHall_incoming (s : State) (h : Nat) (f : Hall → Hall) : (s.modHall h f).incoming = s.incoming := rfl
@[simp] theorem State.modHall_inputs (s : State) (h : Nat) (f : Hall → Hall) : (s.modHall h f).inputs = s.inputs := rfl
@[simp] theorem State.modHall_agenda (s : State) (h : Nat) (f : Hall → Hall) : (s.modHall h f).agenda = s.agenda := rfl
@[simp] theorem State.modHall_ctx (s : State) (h : Nat) (f : Hall → Hall) : (s.modHall h f).ctx = s.ctx := rfl
@[simp] theorem State.modHall_clock (s : State) (h : Nat) (f : Hall → Hall) : (s.modHall h f).clock = s.clock := rfl
@[simp] theorem State.modHall_fresh (s : State) (h : Nat) (f : Hall → Hall) : (s.modHall h f).fresh = s.fresh := rfl
@[simp] theorem State.modHall_serial (s : State) (h : Nat) (f : Hall → Hall) : (s.modHall h f).serial = s.serial := rfl

/-! modJob. -/

@[simp] theorem State.modJob_cores (s : State) (j : Nat) (f : Job → Job) : (s.modJob j f).cores = s.cores := rfl
@[simp] theorem State.modJob_gals (s : State) (j : Nat) (f : Job → Job) : (s.modJob j f).gals = s.gals := rfl
@[simp] theorem State.modJob_halls (s : State) (j : Nat) (f : Job → Job) : (s.modJob j f).halls = s.halls := rfl
@[simp] theorem State.modJob_hbm (s : State) (j : Nat) (f : Job → Job) : (s.modJob j f).hbm = s.hbm := rfl
@[simp] theorem State.modJob_sectors (s : State) (j : Nat) (f : Job → Job) : (s.modJob j f).sectors = s.sectors := rfl
@[simp] theorem State.modJob_hostMem (s : State) (j : Nat) (f : Job → Job) : (s.modJob j f).hostMem = s.hostMem := rfl
@[simp] theorem State.modJob_hostTags (s : State) (j : Nat) (f : Job → Job) : (s.modJob j f).hostTags = s.hostTags := rfl
@[simp] theorem State.modJob_keys (s : State) (j : Nat) (f : Job → Job) : (s.modJob j f).keys = s.keys := rfl
@[simp] theorem State.modJob_tasks (s : State) (j : Nat) (f : Job → Job) : (s.modJob j f).tasks = s.tasks := rfl
@[simp] theorem State.modJob_graphs (s : State) (j : Nat) (f : Job → Job) : (s.modJob j f).graphs = s.graphs := rfl
@[simp] theorem State.modJob_foyer (s : State) (j : Nat) (f : Job → Job) : (s.modJob j f).foyer = s.foyer := rfl
@[simp] theorem State.modJob_waiting (s : State) (j : Nat) (f : Job → Job) : (s.modJob j f).waiting = s.waiting := rfl
@[simp] theorem State.modJob_admitted (s : State) (j : Nat) (f : Job → Job) : (s.modJob j f).admitted = s.admitted := rfl
@[simp] theorem State.modJob_launches (s : State) (j : Nat) (f : Job → Job) : (s.modJob j f).launches = s.launches := rfl
@[simp] theorem State.modJob_preempts (s : State) (j : Nat) (f : Job → Job) : (s.modJob j f).preempts = s.preempts := rfl
@[simp] theorem State.modJob_mail (s : State) (j : Nat) (f : Job → Job) : (s.modJob j f).mail = s.mail := rfl
@[simp] theorem State.modJob_box (s : State) (j : Nat) (f : Job → Job) : (s.modJob j f).box = s.box := rfl
@[simp] theorem State.modJob_sessions (s : State) (j : Nat) (f : Job → Job) : (s.modJob j f).sessions = s.sessions := rfl
@[simp] theorem State.modJob_log (s : State) (j : Nat) (f : Job → Job) : (s.modJob j f).log = s.log := rfl
@[simp] theorem State.modJob_ownerLog (s : State) (j : Nat) (f : Job → Job) : (s.modJob j f).ownerLog = s.ownerLog := rfl
@[simp] theorem State.modJob_seq (s : State) (j : Nat) (f : Job → Job) : (s.modJob j f).seq = s.seq := rfl
@[simp] theorem State.modJob_corrected (s : State) (j : Nat) (f : Job → Job) : (s.modJob j f).corrected = s.corrected := rfl
@[simp] theorem State.modJob_sramue (s : State) (j : Nat) (f : Job → Job) : (s.modJob j f).sramue = s.sramue := rfl
@[simp] theorem State.modJob_lockMis (s : State) (j : Nat) (f : Job → Job) : (s.modJob j f).lockMis = s.lockMis := rfl
@[simp] theorem State.modJob_msix (s : State) (j : Nat) (f : Job → Job) : (s.modJob j f).msix = s.msix := rfl
@[simp] theorem State.modJob_msixPend (s : State) (j : Nat) (f : Job → Job) : (s.modJob j f).msixPend = s.msixPend := rfl
@[simp] theorem State.modJob_host (s : State) (j : Nat) (f : Job → Job) : (s.modJob j f).host = s.host := rfl
@[simp] theorem State.modJob_ports (s : State) (j : Nat) (f : Job → Job) : (s.modJob j f).ports = s.ports := rfl
@[simp] theorem State.modJob_sentSeq (s : State) (j : Nat) (f : Job → Job) : (s.modJob j f).sentSeq = s.sentSeq := rfl
@[simp] theorem State.modJob_recvSeq (s : State) (j : Nat) (f : Job → Job) : (s.modJob j f).recvSeq = s.recvSeq := rfl
@[simp] theorem State.modJob_early (s : State) (j : Nat) (f : Job → Job) : (s.modJob j f).early = s.early := rfl
@[simp] theorem State.modJob_out (s : State) (j : Nat) (f : Job → Job) : (s.modJob j f).out = s.out := rfl
@[simp] theorem State.modJob_lateral (s : State) (j : Nat) (f : Job → Job) : (s.modJob j f).lateral = s.lateral := rfl
@[simp] theorem State.modJob_queued (s : State) (j : Nat) (f : Job → Job) : (s.modJob j f).queued = s.queued := rfl
@[simp] theorem State.modJob_spill (s : State) (j : Nat) (f : Job → Job) : (s.modJob j f).spill = s.spill := rfl
@[simp] theorem State.modJob_unacked (s : State) (j : Nat) (f : Job → Job) : (s.modJob j f).unacked = s.unacked := rfl
@[simp] theorem State.modJob_replies (s : State) (j : Nat) (f : Job → Job) : (s.modJob j f).replies = s.replies := rfl
@[simp] theorem State.modJob_asked (s : State) (j : Nat) (f : Job → Job) : (s.modJob j f).asked = s.asked := rfl
@[simp] theorem State.modJob_retired (s : State) (j : Nat) (f : Job → Job) : (s.modJob j f).retired = s.retired := rfl
@[simp] theorem State.modJob_saves (s : State) (j : Nat) (f : Job → Job) : (s.modJob j f).saves = s.saves := rfl
@[simp] theorem State.modJob_saveVaults (s : State) (j : Nat) (f : Job → Job) : (s.modJob j f).saveVaults = s.saveVaults := rfl
@[simp] theorem State.modJob_hostOut (s : State) (j : Nat) (f : Job → Job) : (s.modJob j f).hostOut = s.hostOut := rfl
@[simp] theorem State.modJob_hostFails (s : State) (j : Nat) (f : Job → Job) : (s.modJob j f).hostFails = s.hostFails := rfl
@[simp] theorem State.modJob_heldIo (s : State) (j : Nat) (f : Job → Job) : (s.modJob j f).heldIo = s.heldIo := rfl
@[simp] theorem State.modJob_traces (s : State) (j : Nat) (f : Job → Job) : (s.modJob j f).traces = s.traces := rfl
@[simp] theorem State.modJob_driverTraces (s : State) (j : Nat) (f : Job → Job) : (s.modJob j f).driverTraces = s.driverTraces := rfl
@[simp] theorem State.modJob_ownerTraces (s : State) (j : Nat) (f : Job → Job) : (s.modJob j f).ownerTraces = s.ownerTraces := rfl
@[simp] theorem State.modJob_heldDebug (s : State) (j : Nat) (f : Job → Job) : (s.modJob j f).heldDebug = s.heldDebug := rfl
@[simp] theorem State.modJob_imports (s : State) (j : Nat) (f : Job → Job) : (s.modJob j f).imports = s.imports := rfl
@[simp] theorem State.modJob_sealOut (s : State) (j : Nat) (f : Job → Job) : (s.modJob j f).sealOut = s.sealOut := rfl
@[simp] theorem State.modJob_discarded (s : State) (j : Nat) (f : Job → Job) : (s.modJob j f).discarded = s.discarded := rfl
@[simp] theorem State.modJob_victims (s : State) (j : Nat) (f : Job → Job) : (s.modJob j f).victims = s.victims := rfl
@[simp] theorem State.modJob_incoming (s : State) (j : Nat) (f : Job → Job) : (s.modJob j f).incoming = s.incoming := rfl
@[simp] theorem State.modJob_inputs (s : State) (j : Nat) (f : Job → Job) : (s.modJob j f).inputs = s.inputs := rfl
@[simp] theorem State.modJob_agenda (s : State) (j : Nat) (f : Job → Job) : (s.modJob j f).agenda = s.agenda := rfl
@[simp] theorem State.modJob_ctx (s : State) (j : Nat) (f : Job → Job) : (s.modJob j f).ctx = s.ctx := rfl
@[simp] theorem State.modJob_clock (s : State) (j : Nat) (f : Job → Job) : (s.modJob j f).clock = s.clock := rfl
@[simp] theorem State.modJob_fresh (s : State) (j : Nat) (f : Job → Job) : (s.modJob j f).fresh = s.fresh := rfl
@[simp] theorem State.modJob_serial (s : State) (j : Nat) (f : Job → Job) : (s.modJob j f).serial = s.serial := rfl

/-! modTask. -/

@[simp] theorem State.modTask_cores (s : State) (t : Nat) (f : Task → Task) : (s.modTask t f).cores = s.cores := rfl
@[simp] theorem State.modTask_gals (s : State) (t : Nat) (f : Task → Task) : (s.modTask t f).gals = s.gals := rfl
@[simp] theorem State.modTask_halls (s : State) (t : Nat) (f : Task → Task) : (s.modTask t f).halls = s.halls := rfl
@[simp] theorem State.modTask_hbm (s : State) (t : Nat) (f : Task → Task) : (s.modTask t f).hbm = s.hbm := rfl
@[simp] theorem State.modTask_sectors (s : State) (t : Nat) (f : Task → Task) : (s.modTask t f).sectors = s.sectors := rfl
@[simp] theorem State.modTask_hostMem (s : State) (t : Nat) (f : Task → Task) : (s.modTask t f).hostMem = s.hostMem := rfl
@[simp] theorem State.modTask_hostTags (s : State) (t : Nat) (f : Task → Task) : (s.modTask t f).hostTags = s.hostTags := rfl
@[simp] theorem State.modTask_keys (s : State) (t : Nat) (f : Task → Task) : (s.modTask t f).keys = s.keys := rfl
@[simp] theorem State.modTask_jobs (s : State) (t : Nat) (f : Task → Task) : (s.modTask t f).jobs = s.jobs := rfl
@[simp] theorem State.modTask_graphs (s : State) (t : Nat) (f : Task → Task) : (s.modTask t f).graphs = s.graphs := rfl
@[simp] theorem State.modTask_foyer (s : State) (t : Nat) (f : Task → Task) : (s.modTask t f).foyer = s.foyer := rfl
@[simp] theorem State.modTask_waiting (s : State) (t : Nat) (f : Task → Task) : (s.modTask t f).waiting = s.waiting := rfl
@[simp] theorem State.modTask_admitted (s : State) (t : Nat) (f : Task → Task) : (s.modTask t f).admitted = s.admitted := rfl
@[simp] theorem State.modTask_launches (s : State) (t : Nat) (f : Task → Task) : (s.modTask t f).launches = s.launches := rfl
@[simp] theorem State.modTask_preempts (s : State) (t : Nat) (f : Task → Task) : (s.modTask t f).preempts = s.preempts := rfl
@[simp] theorem State.modTask_mail (s : State) (t : Nat) (f : Task → Task) : (s.modTask t f).mail = s.mail := rfl
@[simp] theorem State.modTask_box (s : State) (t : Nat) (f : Task → Task) : (s.modTask t f).box = s.box := rfl
@[simp] theorem State.modTask_sessions (s : State) (t : Nat) (f : Task → Task) : (s.modTask t f).sessions = s.sessions := rfl
@[simp] theorem State.modTask_log (s : State) (t : Nat) (f : Task → Task) : (s.modTask t f).log = s.log := rfl
@[simp] theorem State.modTask_ownerLog (s : State) (t : Nat) (f : Task → Task) : (s.modTask t f).ownerLog = s.ownerLog := rfl
@[simp] theorem State.modTask_seq (s : State) (t : Nat) (f : Task → Task) : (s.modTask t f).seq = s.seq := rfl
@[simp] theorem State.modTask_corrected (s : State) (t : Nat) (f : Task → Task) : (s.modTask t f).corrected = s.corrected := rfl
@[simp] theorem State.modTask_sramue (s : State) (t : Nat) (f : Task → Task) : (s.modTask t f).sramue = s.sramue := rfl
@[simp] theorem State.modTask_lockMis (s : State) (t : Nat) (f : Task → Task) : (s.modTask t f).lockMis = s.lockMis := rfl
@[simp] theorem State.modTask_msix (s : State) (t : Nat) (f : Task → Task) : (s.modTask t f).msix = s.msix := rfl
@[simp] theorem State.modTask_msixPend (s : State) (t : Nat) (f : Task → Task) : (s.modTask t f).msixPend = s.msixPend := rfl
@[simp] theorem State.modTask_host (s : State) (t : Nat) (f : Task → Task) : (s.modTask t f).host = s.host := rfl
@[simp] theorem State.modTask_ports (s : State) (t : Nat) (f : Task → Task) : (s.modTask t f).ports = s.ports := rfl
@[simp] theorem State.modTask_sentSeq (s : State) (t : Nat) (f : Task → Task) : (s.modTask t f).sentSeq = s.sentSeq := rfl
@[simp] theorem State.modTask_recvSeq (s : State) (t : Nat) (f : Task → Task) : (s.modTask t f).recvSeq = s.recvSeq := rfl
@[simp] theorem State.modTask_early (s : State) (t : Nat) (f : Task → Task) : (s.modTask t f).early = s.early := rfl
@[simp] theorem State.modTask_out (s : State) (t : Nat) (f : Task → Task) : (s.modTask t f).out = s.out := rfl
@[simp] theorem State.modTask_lateral (s : State) (t : Nat) (f : Task → Task) : (s.modTask t f).lateral = s.lateral := rfl
@[simp] theorem State.modTask_queued (s : State) (t : Nat) (f : Task → Task) : (s.modTask t f).queued = s.queued := rfl
@[simp] theorem State.modTask_spill (s : State) (t : Nat) (f : Task → Task) : (s.modTask t f).spill = s.spill := rfl
@[simp] theorem State.modTask_unacked (s : State) (t : Nat) (f : Task → Task) : (s.modTask t f).unacked = s.unacked := rfl
@[simp] theorem State.modTask_replies (s : State) (t : Nat) (f : Task → Task) : (s.modTask t f).replies = s.replies := rfl
@[simp] theorem State.modTask_asked (s : State) (t : Nat) (f : Task → Task) : (s.modTask t f).asked = s.asked := rfl
@[simp] theorem State.modTask_retired (s : State) (t : Nat) (f : Task → Task) : (s.modTask t f).retired = s.retired := rfl
@[simp] theorem State.modTask_saves (s : State) (t : Nat) (f : Task → Task) : (s.modTask t f).saves = s.saves := rfl
@[simp] theorem State.modTask_saveVaults (s : State) (t : Nat) (f : Task → Task) : (s.modTask t f).saveVaults = s.saveVaults := rfl
@[simp] theorem State.modTask_hostOut (s : State) (t : Nat) (f : Task → Task) : (s.modTask t f).hostOut = s.hostOut := rfl
@[simp] theorem State.modTask_hostFails (s : State) (t : Nat) (f : Task → Task) : (s.modTask t f).hostFails = s.hostFails := rfl
@[simp] theorem State.modTask_heldIo (s : State) (t : Nat) (f : Task → Task) : (s.modTask t f).heldIo = s.heldIo := rfl
@[simp] theorem State.modTask_traces (s : State) (t : Nat) (f : Task → Task) : (s.modTask t f).traces = s.traces := rfl
@[simp] theorem State.modTask_driverTraces (s : State) (t : Nat) (f : Task → Task) : (s.modTask t f).driverTraces = s.driverTraces := rfl
@[simp] theorem State.modTask_ownerTraces (s : State) (t : Nat) (f : Task → Task) : (s.modTask t f).ownerTraces = s.ownerTraces := rfl
@[simp] theorem State.modTask_heldDebug (s : State) (t : Nat) (f : Task → Task) : (s.modTask t f).heldDebug = s.heldDebug := rfl
@[simp] theorem State.modTask_imports (s : State) (t : Nat) (f : Task → Task) : (s.modTask t f).imports = s.imports := rfl
@[simp] theorem State.modTask_sealOut (s : State) (t : Nat) (f : Task → Task) : (s.modTask t f).sealOut = s.sealOut := rfl
@[simp] theorem State.modTask_discarded (s : State) (t : Nat) (f : Task → Task) : (s.modTask t f).discarded = s.discarded := rfl
@[simp] theorem State.modTask_victims (s : State) (t : Nat) (f : Task → Task) : (s.modTask t f).victims = s.victims := rfl
@[simp] theorem State.modTask_incoming (s : State) (t : Nat) (f : Task → Task) : (s.modTask t f).incoming = s.incoming := rfl
@[simp] theorem State.modTask_inputs (s : State) (t : Nat) (f : Task → Task) : (s.modTask t f).inputs = s.inputs := rfl
@[simp] theorem State.modTask_agenda (s : State) (t : Nat) (f : Task → Task) : (s.modTask t f).agenda = s.agenda := rfl
@[simp] theorem State.modTask_ctx (s : State) (t : Nat) (f : Task → Task) : (s.modTask t f).ctx = s.ctx := rfl
@[simp] theorem State.modTask_clock (s : State) (t : Nat) (f : Task → Task) : (s.modTask t f).clock = s.clock := rfl
@[simp] theorem State.modTask_fresh (s : State) (t : Nat) (f : Task → Task) : (s.modTask t f).fresh = s.fresh := rfl
@[simp] theorem State.modTask_serial (s : State) (t : Nat) (f : Task → Task) : (s.modTask t f).serial = s.serial := rfl

/-! raiseMsix. -/

@[simp] theorem State.raiseMsix_cores (s : State) (fn vec : Nat) : (s.raiseMsix fn vec).cores = s.cores := rfl
@[simp] theorem State.raiseMsix_gals (s : State) (fn vec : Nat) : (s.raiseMsix fn vec).gals = s.gals := rfl
@[simp] theorem State.raiseMsix_halls (s : State) (fn vec : Nat) : (s.raiseMsix fn vec).halls = s.halls := rfl
@[simp] theorem State.raiseMsix_hbm (s : State) (fn vec : Nat) : (s.raiseMsix fn vec).hbm = s.hbm := rfl
@[simp] theorem State.raiseMsix_sectors (s : State) (fn vec : Nat) : (s.raiseMsix fn vec).sectors = s.sectors := rfl
@[simp] theorem State.raiseMsix_hostMem (s : State) (fn vec : Nat) : (s.raiseMsix fn vec).hostMem = s.hostMem := rfl
@[simp] theorem State.raiseMsix_hostTags (s : State) (fn vec : Nat) : (s.raiseMsix fn vec).hostTags = s.hostTags := rfl
@[simp] theorem State.raiseMsix_keys (s : State) (fn vec : Nat) : (s.raiseMsix fn vec).keys = s.keys := rfl
@[simp] theorem State.raiseMsix_jobs (s : State) (fn vec : Nat) : (s.raiseMsix fn vec).jobs = s.jobs := rfl
@[simp] theorem State.raiseMsix_tasks (s : State) (fn vec : Nat) : (s.raiseMsix fn vec).tasks = s.tasks := rfl
@[simp] theorem State.raiseMsix_graphs (s : State) (fn vec : Nat) : (s.raiseMsix fn vec).graphs = s.graphs := rfl
@[simp] theorem State.raiseMsix_foyer (s : State) (fn vec : Nat) : (s.raiseMsix fn vec).foyer = s.foyer := rfl
@[simp] theorem State.raiseMsix_waiting (s : State) (fn vec : Nat) : (s.raiseMsix fn vec).waiting = s.waiting := rfl
@[simp] theorem State.raiseMsix_admitted (s : State) (fn vec : Nat) : (s.raiseMsix fn vec).admitted = s.admitted := rfl
@[simp] theorem State.raiseMsix_launches (s : State) (fn vec : Nat) : (s.raiseMsix fn vec).launches = s.launches := rfl
@[simp] theorem State.raiseMsix_preempts (s : State) (fn vec : Nat) : (s.raiseMsix fn vec).preempts = s.preempts := rfl
@[simp] theorem State.raiseMsix_mail (s : State) (fn vec : Nat) : (s.raiseMsix fn vec).mail = s.mail := rfl
@[simp] theorem State.raiseMsix_box (s : State) (fn vec : Nat) : (s.raiseMsix fn vec).box = s.box := rfl
@[simp] theorem State.raiseMsix_sessions (s : State) (fn vec : Nat) : (s.raiseMsix fn vec).sessions = s.sessions := rfl
@[simp] theorem State.raiseMsix_log (s : State) (fn vec : Nat) : (s.raiseMsix fn vec).log = s.log := rfl
@[simp] theorem State.raiseMsix_ownerLog (s : State) (fn vec : Nat) : (s.raiseMsix fn vec).ownerLog = s.ownerLog := rfl
@[simp] theorem State.raiseMsix_seq (s : State) (fn vec : Nat) : (s.raiseMsix fn vec).seq = s.seq := rfl
@[simp] theorem State.raiseMsix_corrected (s : State) (fn vec : Nat) : (s.raiseMsix fn vec).corrected = s.corrected := rfl
@[simp] theorem State.raiseMsix_sramue (s : State) (fn vec : Nat) : (s.raiseMsix fn vec).sramue = s.sramue := rfl
@[simp] theorem State.raiseMsix_lockMis (s : State) (fn vec : Nat) : (s.raiseMsix fn vec).lockMis = s.lockMis := rfl
@[simp] theorem State.raiseMsix_host (s : State) (fn vec : Nat) : (s.raiseMsix fn vec).host = s.host := rfl
@[simp] theorem State.raiseMsix_ports (s : State) (fn vec : Nat) : (s.raiseMsix fn vec).ports = s.ports := rfl
@[simp] theorem State.raiseMsix_sentSeq (s : State) (fn vec : Nat) : (s.raiseMsix fn vec).sentSeq = s.sentSeq := rfl
@[simp] theorem State.raiseMsix_recvSeq (s : State) (fn vec : Nat) : (s.raiseMsix fn vec).recvSeq = s.recvSeq := rfl
@[simp] theorem State.raiseMsix_early (s : State) (fn vec : Nat) : (s.raiseMsix fn vec).early = s.early := rfl
@[simp] theorem State.raiseMsix_out (s : State) (fn vec : Nat) : (s.raiseMsix fn vec).out = s.out := rfl
@[simp] theorem State.raiseMsix_lateral (s : State) (fn vec : Nat) : (s.raiseMsix fn vec).lateral = s.lateral := rfl
@[simp] theorem State.raiseMsix_queued (s : State) (fn vec : Nat) : (s.raiseMsix fn vec).queued = s.queued := rfl
@[simp] theorem State.raiseMsix_spill (s : State) (fn vec : Nat) : (s.raiseMsix fn vec).spill = s.spill := rfl
@[simp] theorem State.raiseMsix_unacked (s : State) (fn vec : Nat) : (s.raiseMsix fn vec).unacked = s.unacked := rfl
@[simp] theorem State.raiseMsix_replies (s : State) (fn vec : Nat) : (s.raiseMsix fn vec).replies = s.replies := rfl
@[simp] theorem State.raiseMsix_asked (s : State) (fn vec : Nat) : (s.raiseMsix fn vec).asked = s.asked := rfl
@[simp] theorem State.raiseMsix_retired (s : State) (fn vec : Nat) : (s.raiseMsix fn vec).retired = s.retired := rfl
@[simp] theorem State.raiseMsix_saves (s : State) (fn vec : Nat) : (s.raiseMsix fn vec).saves = s.saves := rfl
@[simp] theorem State.raiseMsix_saveVaults (s : State) (fn vec : Nat) : (s.raiseMsix fn vec).saveVaults = s.saveVaults := rfl
@[simp] theorem State.raiseMsix_hostOut (s : State) (fn vec : Nat) : (s.raiseMsix fn vec).hostOut = s.hostOut := rfl
@[simp] theorem State.raiseMsix_hostFails (s : State) (fn vec : Nat) : (s.raiseMsix fn vec).hostFails = s.hostFails := rfl
@[simp] theorem State.raiseMsix_heldIo (s : State) (fn vec : Nat) : (s.raiseMsix fn vec).heldIo = s.heldIo := rfl
@[simp] theorem State.raiseMsix_traces (s : State) (fn vec : Nat) : (s.raiseMsix fn vec).traces = s.traces := rfl
@[simp] theorem State.raiseMsix_driverTraces (s : State) (fn vec : Nat) : (s.raiseMsix fn vec).driverTraces = s.driverTraces := rfl
@[simp] theorem State.raiseMsix_ownerTraces (s : State) (fn vec : Nat) : (s.raiseMsix fn vec).ownerTraces = s.ownerTraces := rfl
@[simp] theorem State.raiseMsix_heldDebug (s : State) (fn vec : Nat) : (s.raiseMsix fn vec).heldDebug = s.heldDebug := rfl
@[simp] theorem State.raiseMsix_imports (s : State) (fn vec : Nat) : (s.raiseMsix fn vec).imports = s.imports := rfl
@[simp] theorem State.raiseMsix_sealOut (s : State) (fn vec : Nat) : (s.raiseMsix fn vec).sealOut = s.sealOut := rfl
@[simp] theorem State.raiseMsix_discarded (s : State) (fn vec : Nat) : (s.raiseMsix fn vec).discarded = s.discarded := rfl
@[simp] theorem State.raiseMsix_victims (s : State) (fn vec : Nat) : (s.raiseMsix fn vec).victims = s.victims := rfl
@[simp] theorem State.raiseMsix_incoming (s : State) (fn vec : Nat) : (s.raiseMsix fn vec).incoming = s.incoming := rfl
@[simp] theorem State.raiseMsix_inputs (s : State) (fn vec : Nat) : (s.raiseMsix fn vec).inputs = s.inputs := rfl
@[simp] theorem State.raiseMsix_agenda (s : State) (fn vec : Nat) : (s.raiseMsix fn vec).agenda = s.agenda := rfl
@[simp] theorem State.raiseMsix_ctx (s : State) (fn vec : Nat) : (s.raiseMsix fn vec).ctx = s.ctx := rfl
@[simp] theorem State.raiseMsix_clock (s : State) (fn vec : Nat) : (s.raiseMsix fn vec).clock = s.clock := rfl
@[simp] theorem State.raiseMsix_fresh (s : State) (fn vec : Nat) : (s.raiseMsix fn vec).fresh = s.fresh := rfl
@[simp] theorem State.raiseMsix_serial (s : State) (fn vec : Nat) : (s.raiseMsix fn vec).serial = s.serial := rfl

/-! result. -/

@[simp] theorem State.result_gals (s : State) (lat : Nat) (d : Dest) (v m : Vec) (po : Word) : (s.result lat d v m po).gals = s.gals := rfl
@[simp] theorem State.result_halls (s : State) (lat : Nat) (d : Dest) (v m : Vec) (po : Word) : (s.result lat d v m po).halls = s.halls := rfl
@[simp] theorem State.result_hbm (s : State) (lat : Nat) (d : Dest) (v m : Vec) (po : Word) : (s.result lat d v m po).hbm = s.hbm := rfl
@[simp] theorem State.result_sectors (s : State) (lat : Nat) (d : Dest) (v m : Vec) (po : Word) : (s.result lat d v m po).sectors = s.sectors := rfl
@[simp] theorem State.result_hostMem (s : State) (lat : Nat) (d : Dest) (v m : Vec) (po : Word) : (s.result lat d v m po).hostMem = s.hostMem := rfl
@[simp] theorem State.result_hostTags (s : State) (lat : Nat) (d : Dest) (v m : Vec) (po : Word) : (s.result lat d v m po).hostTags = s.hostTags := rfl
@[simp] theorem State.result_keys (s : State) (lat : Nat) (d : Dest) (v m : Vec) (po : Word) : (s.result lat d v m po).keys = s.keys := rfl
@[simp] theorem State.result_jobs (s : State) (lat : Nat) (d : Dest) (v m : Vec) (po : Word) : (s.result lat d v m po).jobs = s.jobs := rfl
@[simp] theorem State.result_tasks (s : State) (lat : Nat) (d : Dest) (v m : Vec) (po : Word) : (s.result lat d v m po).tasks = s.tasks := rfl
@[simp] theorem State.result_graphs (s : State) (lat : Nat) (d : Dest) (v m : Vec) (po : Word) : (s.result lat d v m po).graphs = s.graphs := rfl
@[simp] theorem State.result_foyer (s : State) (lat : Nat) (d : Dest) (v m : Vec) (po : Word) : (s.result lat d v m po).foyer = s.foyer := rfl
@[simp] theorem State.result_waiting (s : State) (lat : Nat) (d : Dest) (v m : Vec) (po : Word) : (s.result lat d v m po).waiting = s.waiting := rfl
@[simp] theorem State.result_admitted (s : State) (lat : Nat) (d : Dest) (v m : Vec) (po : Word) : (s.result lat d v m po).admitted = s.admitted := rfl
@[simp] theorem State.result_launches (s : State) (lat : Nat) (d : Dest) (v m : Vec) (po : Word) : (s.result lat d v m po).launches = s.launches := rfl
@[simp] theorem State.result_preempts (s : State) (lat : Nat) (d : Dest) (v m : Vec) (po : Word) : (s.result lat d v m po).preempts = s.preempts := rfl
@[simp] theorem State.result_mail (s : State) (lat : Nat) (d : Dest) (v m : Vec) (po : Word) : (s.result lat d v m po).mail = s.mail := rfl
@[simp] theorem State.result_box (s : State) (lat : Nat) (d : Dest) (v m : Vec) (po : Word) : (s.result lat d v m po).box = s.box := rfl
@[simp] theorem State.result_sessions (s : State) (lat : Nat) (d : Dest) (v m : Vec) (po : Word) : (s.result lat d v m po).sessions = s.sessions := rfl
@[simp] theorem State.result_log (s : State) (lat : Nat) (d : Dest) (v m : Vec) (po : Word) : (s.result lat d v m po).log = s.log := rfl
@[simp] theorem State.result_ownerLog (s : State) (lat : Nat) (d : Dest) (v m : Vec) (po : Word) : (s.result lat d v m po).ownerLog = s.ownerLog := rfl
@[simp] theorem State.result_seq (s : State) (lat : Nat) (d : Dest) (v m : Vec) (po : Word) : (s.result lat d v m po).seq = s.seq := rfl
@[simp] theorem State.result_corrected (s : State) (lat : Nat) (d : Dest) (v m : Vec) (po : Word) : (s.result lat d v m po).corrected = s.corrected := rfl
@[simp] theorem State.result_sramue (s : State) (lat : Nat) (d : Dest) (v m : Vec) (po : Word) : (s.result lat d v m po).sramue = s.sramue := rfl
@[simp] theorem State.result_lockMis (s : State) (lat : Nat) (d : Dest) (v m : Vec) (po : Word) : (s.result lat d v m po).lockMis = s.lockMis := rfl
@[simp] theorem State.result_msix (s : State) (lat : Nat) (d : Dest) (v m : Vec) (po : Word) : (s.result lat d v m po).msix = s.msix := rfl
@[simp] theorem State.result_msixPend (s : State) (lat : Nat) (d : Dest) (v m : Vec) (po : Word) : (s.result lat d v m po).msixPend = s.msixPend := rfl
@[simp] theorem State.result_host (s : State) (lat : Nat) (d : Dest) (v m : Vec) (po : Word) : (s.result lat d v m po).host = s.host := rfl
@[simp] theorem State.result_ports (s : State) (lat : Nat) (d : Dest) (v m : Vec) (po : Word) : (s.result lat d v m po).ports = s.ports := rfl
@[simp] theorem State.result_sentSeq (s : State) (lat : Nat) (d : Dest) (v m : Vec) (po : Word) : (s.result lat d v m po).sentSeq = s.sentSeq := rfl
@[simp] theorem State.result_recvSeq (s : State) (lat : Nat) (d : Dest) (v m : Vec) (po : Word) : (s.result lat d v m po).recvSeq = s.recvSeq := rfl
@[simp] theorem State.result_early (s : State) (lat : Nat) (d : Dest) (v m : Vec) (po : Word) : (s.result lat d v m po).early = s.early := rfl
@[simp] theorem State.result_out (s : State) (lat : Nat) (d : Dest) (v m : Vec) (po : Word) : (s.result lat d v m po).out = s.out := rfl
@[simp] theorem State.result_lateral (s : State) (lat : Nat) (d : Dest) (v m : Vec) (po : Word) : (s.result lat d v m po).lateral = s.lateral := rfl
@[simp] theorem State.result_queued (s : State) (lat : Nat) (d : Dest) (v m : Vec) (po : Word) : (s.result lat d v m po).queued = s.queued := rfl
@[simp] theorem State.result_spill (s : State) (lat : Nat) (d : Dest) (v m : Vec) (po : Word) : (s.result lat d v m po).spill = s.spill := rfl
@[simp] theorem State.result_unacked (s : State) (lat : Nat) (d : Dest) (v m : Vec) (po : Word) : (s.result lat d v m po).unacked = s.unacked := rfl
@[simp] theorem State.result_replies (s : State) (lat : Nat) (d : Dest) (v m : Vec) (po : Word) : (s.result lat d v m po).replies = s.replies := rfl
@[simp] theorem State.result_asked (s : State) (lat : Nat) (d : Dest) (v m : Vec) (po : Word) : (s.result lat d v m po).asked = s.asked := rfl
@[simp] theorem State.result_retired (s : State) (lat : Nat) (d : Dest) (v m : Vec) (po : Word) : (s.result lat d v m po).retired = s.retired := rfl
@[simp] theorem State.result_saves (s : State) (lat : Nat) (d : Dest) (v m : Vec) (po : Word) : (s.result lat d v m po).saves = s.saves := rfl
@[simp] theorem State.result_saveVaults (s : State) (lat : Nat) (d : Dest) (v m : Vec) (po : Word) : (s.result lat d v m po).saveVaults = s.saveVaults := rfl
@[simp] theorem State.result_hostOut (s : State) (lat : Nat) (d : Dest) (v m : Vec) (po : Word) : (s.result lat d v m po).hostOut = s.hostOut := rfl
@[simp] theorem State.result_hostFails (s : State) (lat : Nat) (d : Dest) (v m : Vec) (po : Word) : (s.result lat d v m po).hostFails = s.hostFails := rfl
@[simp] theorem State.result_heldIo (s : State) (lat : Nat) (d : Dest) (v m : Vec) (po : Word) : (s.result lat d v m po).heldIo = s.heldIo := rfl
@[simp] theorem State.result_traces (s : State) (lat : Nat) (d : Dest) (v m : Vec) (po : Word) : (s.result lat d v m po).traces = s.traces := rfl
@[simp] theorem State.result_driverTraces (s : State) (lat : Nat) (d : Dest) (v m : Vec) (po : Word) : (s.result lat d v m po).driverTraces = s.driverTraces := rfl
@[simp] theorem State.result_ownerTraces (s : State) (lat : Nat) (d : Dest) (v m : Vec) (po : Word) : (s.result lat d v m po).ownerTraces = s.ownerTraces := rfl
@[simp] theorem State.result_heldDebug (s : State) (lat : Nat) (d : Dest) (v m : Vec) (po : Word) : (s.result lat d v m po).heldDebug = s.heldDebug := rfl
@[simp] theorem State.result_imports (s : State) (lat : Nat) (d : Dest) (v m : Vec) (po : Word) : (s.result lat d v m po).imports = s.imports := rfl
@[simp] theorem State.result_sealOut (s : State) (lat : Nat) (d : Dest) (v m : Vec) (po : Word) : (s.result lat d v m po).sealOut = s.sealOut := rfl
@[simp] theorem State.result_discarded (s : State) (lat : Nat) (d : Dest) (v m : Vec) (po : Word) : (s.result lat d v m po).discarded = s.discarded := rfl
@[simp] theorem State.result_victims (s : State) (lat : Nat) (d : Dest) (v m : Vec) (po : Word) : (s.result lat d v m po).victims = s.victims := rfl
@[simp] theorem State.result_incoming (s : State) (lat : Nat) (d : Dest) (v m : Vec) (po : Word) : (s.result lat d v m po).incoming = s.incoming := rfl
@[simp] theorem State.result_inputs (s : State) (lat : Nat) (d : Dest) (v m : Vec) (po : Word) : (s.result lat d v m po).inputs = s.inputs := rfl
@[simp] theorem State.result_agenda (s : State) (lat : Nat) (d : Dest) (v m : Vec) (po : Word) : (s.result lat d v m po).agenda = s.agenda := rfl
@[simp] theorem State.result_ctx (s : State) (lat : Nat) (d : Dest) (v m : Vec) (po : Word) : (s.result lat d v m po).ctx = s.ctx := rfl
@[simp] theorem State.result_clock (s : State) (lat : Nat) (d : Dest) (v m : Vec) (po : Word) : (s.result lat d v m po).clock = s.clock := rfl
@[simp] theorem State.result_fresh (s : State) (lat : Nat) (d : Dest) (v m : Vec) (po : Word) : (s.result lat d v m po).fresh = s.fresh := rfl
@[simp] theorem State.result_serial (s : State) (lat : Nat) (d : Dest) (v m : Vec) (po : Word) : (s.result lat d v m po).serial = s.serial := rfl

/-! lateEvent. -/

@[simp] theorem State.lateEvent_gals (s : State) (c : Nat) (e : LateEvent) : (s.lateEvent c e).gals = s.gals := rfl
@[simp] theorem State.lateEvent_halls (s : State) (c : Nat) (e : LateEvent) : (s.lateEvent c e).halls = s.halls := rfl
@[simp] theorem State.lateEvent_hbm (s : State) (c : Nat) (e : LateEvent) : (s.lateEvent c e).hbm = s.hbm := rfl
@[simp] theorem State.lateEvent_sectors (s : State) (c : Nat) (e : LateEvent) : (s.lateEvent c e).sectors = s.sectors := rfl
@[simp] theorem State.lateEvent_hostMem (s : State) (c : Nat) (e : LateEvent) : (s.lateEvent c e).hostMem = s.hostMem := rfl
@[simp] theorem State.lateEvent_hostTags (s : State) (c : Nat) (e : LateEvent) : (s.lateEvent c e).hostTags = s.hostTags := rfl
@[simp] theorem State.lateEvent_keys (s : State) (c : Nat) (e : LateEvent) : (s.lateEvent c e).keys = s.keys := rfl
@[simp] theorem State.lateEvent_jobs (s : State) (c : Nat) (e : LateEvent) : (s.lateEvent c e).jobs = s.jobs := rfl
@[simp] theorem State.lateEvent_tasks (s : State) (c : Nat) (e : LateEvent) : (s.lateEvent c e).tasks = s.tasks := rfl
@[simp] theorem State.lateEvent_graphs (s : State) (c : Nat) (e : LateEvent) : (s.lateEvent c e).graphs = s.graphs := rfl
@[simp] theorem State.lateEvent_foyer (s : State) (c : Nat) (e : LateEvent) : (s.lateEvent c e).foyer = s.foyer := rfl
@[simp] theorem State.lateEvent_waiting (s : State) (c : Nat) (e : LateEvent) : (s.lateEvent c e).waiting = s.waiting := rfl
@[simp] theorem State.lateEvent_admitted (s : State) (c : Nat) (e : LateEvent) : (s.lateEvent c e).admitted = s.admitted := rfl
@[simp] theorem State.lateEvent_launches (s : State) (c : Nat) (e : LateEvent) : (s.lateEvent c e).launches = s.launches := rfl
@[simp] theorem State.lateEvent_preempts (s : State) (c : Nat) (e : LateEvent) : (s.lateEvent c e).preempts = s.preempts := rfl
@[simp] theorem State.lateEvent_mail (s : State) (c : Nat) (e : LateEvent) : (s.lateEvent c e).mail = s.mail := rfl
@[simp] theorem State.lateEvent_box (s : State) (c : Nat) (e : LateEvent) : (s.lateEvent c e).box = s.box := rfl
@[simp] theorem State.lateEvent_sessions (s : State) (c : Nat) (e : LateEvent) : (s.lateEvent c e).sessions = s.sessions := rfl
@[simp] theorem State.lateEvent_log (s : State) (c : Nat) (e : LateEvent) : (s.lateEvent c e).log = s.log := rfl
@[simp] theorem State.lateEvent_ownerLog (s : State) (c : Nat) (e : LateEvent) : (s.lateEvent c e).ownerLog = s.ownerLog := rfl
@[simp] theorem State.lateEvent_seq (s : State) (c : Nat) (e : LateEvent) : (s.lateEvent c e).seq = s.seq := rfl
@[simp] theorem State.lateEvent_corrected (s : State) (c : Nat) (e : LateEvent) : (s.lateEvent c e).corrected = s.corrected := rfl
@[simp] theorem State.lateEvent_sramue (s : State) (c : Nat) (e : LateEvent) : (s.lateEvent c e).sramue = s.sramue := rfl
@[simp] theorem State.lateEvent_lockMis (s : State) (c : Nat) (e : LateEvent) : (s.lateEvent c e).lockMis = s.lockMis := rfl
@[simp] theorem State.lateEvent_msix (s : State) (c : Nat) (e : LateEvent) : (s.lateEvent c e).msix = s.msix := rfl
@[simp] theorem State.lateEvent_msixPend (s : State) (c : Nat) (e : LateEvent) : (s.lateEvent c e).msixPend = s.msixPend := rfl
@[simp] theorem State.lateEvent_host (s : State) (c : Nat) (e : LateEvent) : (s.lateEvent c e).host = s.host := rfl
@[simp] theorem State.lateEvent_ports (s : State) (c : Nat) (e : LateEvent) : (s.lateEvent c e).ports = s.ports := rfl
@[simp] theorem State.lateEvent_sentSeq (s : State) (c : Nat) (e : LateEvent) : (s.lateEvent c e).sentSeq = s.sentSeq := rfl
@[simp] theorem State.lateEvent_recvSeq (s : State) (c : Nat) (e : LateEvent) : (s.lateEvent c e).recvSeq = s.recvSeq := rfl
@[simp] theorem State.lateEvent_early (s : State) (c : Nat) (e : LateEvent) : (s.lateEvent c e).early = s.early := rfl
@[simp] theorem State.lateEvent_out (s : State) (c : Nat) (e : LateEvent) : (s.lateEvent c e).out = s.out := rfl
@[simp] theorem State.lateEvent_lateral (s : State) (c : Nat) (e : LateEvent) : (s.lateEvent c e).lateral = s.lateral := rfl
@[simp] theorem State.lateEvent_queued (s : State) (c : Nat) (e : LateEvent) : (s.lateEvent c e).queued = s.queued := rfl
@[simp] theorem State.lateEvent_spill (s : State) (c : Nat) (e : LateEvent) : (s.lateEvent c e).spill = s.spill := rfl
@[simp] theorem State.lateEvent_unacked (s : State) (c : Nat) (e : LateEvent) : (s.lateEvent c e).unacked = s.unacked := rfl
@[simp] theorem State.lateEvent_replies (s : State) (c : Nat) (e : LateEvent) : (s.lateEvent c e).replies = s.replies := rfl
@[simp] theorem State.lateEvent_asked (s : State) (c : Nat) (e : LateEvent) : (s.lateEvent c e).asked = s.asked := rfl
@[simp] theorem State.lateEvent_retired (s : State) (c : Nat) (e : LateEvent) : (s.lateEvent c e).retired = s.retired := rfl
@[simp] theorem State.lateEvent_saves (s : State) (c : Nat) (e : LateEvent) : (s.lateEvent c e).saves = s.saves := rfl
@[simp] theorem State.lateEvent_saveVaults (s : State) (c : Nat) (e : LateEvent) : (s.lateEvent c e).saveVaults = s.saveVaults := rfl
@[simp] theorem State.lateEvent_hostOut (s : State) (c : Nat) (e : LateEvent) : (s.lateEvent c e).hostOut = s.hostOut := rfl
@[simp] theorem State.lateEvent_hostFails (s : State) (c : Nat) (e : LateEvent) : (s.lateEvent c e).hostFails = s.hostFails := rfl
@[simp] theorem State.lateEvent_heldIo (s : State) (c : Nat) (e : LateEvent) : (s.lateEvent c e).heldIo = s.heldIo := rfl
@[simp] theorem State.lateEvent_traces (s : State) (c : Nat) (e : LateEvent) : (s.lateEvent c e).traces = s.traces := rfl
@[simp] theorem State.lateEvent_driverTraces (s : State) (c : Nat) (e : LateEvent) : (s.lateEvent c e).driverTraces = s.driverTraces := rfl
@[simp] theorem State.lateEvent_ownerTraces (s : State) (c : Nat) (e : LateEvent) : (s.lateEvent c e).ownerTraces = s.ownerTraces := rfl
@[simp] theorem State.lateEvent_heldDebug (s : State) (c : Nat) (e : LateEvent) : (s.lateEvent c e).heldDebug = s.heldDebug := rfl
@[simp] theorem State.lateEvent_imports (s : State) (c : Nat) (e : LateEvent) : (s.lateEvent c e).imports = s.imports := rfl
@[simp] theorem State.lateEvent_sealOut (s : State) (c : Nat) (e : LateEvent) : (s.lateEvent c e).sealOut = s.sealOut := rfl
@[simp] theorem State.lateEvent_discarded (s : State) (c : Nat) (e : LateEvent) : (s.lateEvent c e).discarded = s.discarded := rfl
@[simp] theorem State.lateEvent_victims (s : State) (c : Nat) (e : LateEvent) : (s.lateEvent c e).victims = s.victims := rfl
@[simp] theorem State.lateEvent_incoming (s : State) (c : Nat) (e : LateEvent) : (s.lateEvent c e).incoming = s.incoming := rfl
@[simp] theorem State.lateEvent_inputs (s : State) (c : Nat) (e : LateEvent) : (s.lateEvent c e).inputs = s.inputs := rfl
@[simp] theorem State.lateEvent_agenda (s : State) (c : Nat) (e : LateEvent) : (s.lateEvent c e).agenda = s.agenda := rfl
@[simp] theorem State.lateEvent_ctx (s : State) (c : Nat) (e : LateEvent) : (s.lateEvent c e).ctx = s.ctx := rfl
@[simp] theorem State.lateEvent_clock (s : State) (c : Nat) (e : LateEvent) : (s.lateEvent c e).clock = s.clock := rfl
@[simp] theorem State.lateEvent_fresh (s : State) (c : Nat) (e : LateEvent) : (s.lateEvent c e).fresh = s.fresh := rfl
@[simp] theorem State.lateEvent_serial (s : State) (c : Nat) (e : LateEvent) : (s.lateEvent c e).serial = s.serial := rfl

/-! post. -/

@[simp] theorem State.post_gals (s : State) (c : Nat) (m : Msg) (n : Nat) : (s.post c m n).gals = s.gals := rfl
@[simp] theorem State.post_halls (s : State) (c : Nat) (m : Msg) (n : Nat) : (s.post c m n).halls = s.halls := rfl
@[simp] theorem State.post_hbm (s : State) (c : Nat) (m : Msg) (n : Nat) : (s.post c m n).hbm = s.hbm := rfl
@[simp] theorem State.post_sectors (s : State) (c : Nat) (m : Msg) (n : Nat) : (s.post c m n).sectors = s.sectors := rfl
@[simp] theorem State.post_hostMem (s : State) (c : Nat) (m : Msg) (n : Nat) : (s.post c m n).hostMem = s.hostMem := rfl
@[simp] theorem State.post_hostTags (s : State) (c : Nat) (m : Msg) (n : Nat) : (s.post c m n).hostTags = s.hostTags := rfl
@[simp] theorem State.post_keys (s : State) (c : Nat) (m : Msg) (n : Nat) : (s.post c m n).keys = s.keys := rfl
@[simp] theorem State.post_jobs (s : State) (c : Nat) (m : Msg) (n : Nat) : (s.post c m n).jobs = s.jobs := rfl
@[simp] theorem State.post_tasks (s : State) (c : Nat) (m : Msg) (n : Nat) : (s.post c m n).tasks = s.tasks := rfl
@[simp] theorem State.post_graphs (s : State) (c : Nat) (m : Msg) (n : Nat) : (s.post c m n).graphs = s.graphs := rfl
@[simp] theorem State.post_foyer (s : State) (c : Nat) (m : Msg) (n : Nat) : (s.post c m n).foyer = s.foyer := rfl
@[simp] theorem State.post_waiting (s : State) (c : Nat) (m : Msg) (n : Nat) : (s.post c m n).waiting = s.waiting := rfl
@[simp] theorem State.post_admitted (s : State) (c : Nat) (m : Msg) (n : Nat) : (s.post c m n).admitted = s.admitted := rfl
@[simp] theorem State.post_launches (s : State) (c : Nat) (m : Msg) (n : Nat) : (s.post c m n).launches = s.launches := rfl
@[simp] theorem State.post_preempts (s : State) (c : Nat) (m : Msg) (n : Nat) : (s.post c m n).preempts = s.preempts := rfl
@[simp] theorem State.post_sessions (s : State) (c : Nat) (m : Msg) (n : Nat) : (s.post c m n).sessions = s.sessions := rfl
@[simp] theorem State.post_log (s : State) (c : Nat) (m : Msg) (n : Nat) : (s.post c m n).log = s.log := rfl
@[simp] theorem State.post_ownerLog (s : State) (c : Nat) (m : Msg) (n : Nat) : (s.post c m n).ownerLog = s.ownerLog := rfl
@[simp] theorem State.post_seq (s : State) (c : Nat) (m : Msg) (n : Nat) : (s.post c m n).seq = s.seq := rfl
@[simp] theorem State.post_corrected (s : State) (c : Nat) (m : Msg) (n : Nat) : (s.post c m n).corrected = s.corrected := rfl
@[simp] theorem State.post_sramue (s : State) (c : Nat) (m : Msg) (n : Nat) : (s.post c m n).sramue = s.sramue := rfl
@[simp] theorem State.post_lockMis (s : State) (c : Nat) (m : Msg) (n : Nat) : (s.post c m n).lockMis = s.lockMis := rfl
@[simp] theorem State.post_msix (s : State) (c : Nat) (m : Msg) (n : Nat) : (s.post c m n).msix = s.msix := rfl
@[simp] theorem State.post_msixPend (s : State) (c : Nat) (m : Msg) (n : Nat) : (s.post c m n).msixPend = s.msixPend := rfl
@[simp] theorem State.post_host (s : State) (c : Nat) (m : Msg) (n : Nat) : (s.post c m n).host = s.host := rfl
@[simp] theorem State.post_ports (s : State) (c : Nat) (m : Msg) (n : Nat) : (s.post c m n).ports = s.ports := rfl
@[simp] theorem State.post_sentSeq (s : State) (c : Nat) (m : Msg) (n : Nat) : (s.post c m n).sentSeq = s.sentSeq := rfl
@[simp] theorem State.post_recvSeq (s : State) (c : Nat) (m : Msg) (n : Nat) : (s.post c m n).recvSeq = s.recvSeq := rfl
@[simp] theorem State.post_early (s : State) (c : Nat) (m : Msg) (n : Nat) : (s.post c m n).early = s.early := rfl
@[simp] theorem State.post_out (s : State) (c : Nat) (m : Msg) (n : Nat) : (s.post c m n).out = s.out := rfl
@[simp] theorem State.post_lateral (s : State) (c : Nat) (m : Msg) (n : Nat) : (s.post c m n).lateral = s.lateral := rfl
@[simp] theorem State.post_queued (s : State) (c : Nat) (m : Msg) (n : Nat) : (s.post c m n).queued = s.queued := rfl
@[simp] theorem State.post_spill (s : State) (c : Nat) (m : Msg) (n : Nat) : (s.post c m n).spill = s.spill := rfl
@[simp] theorem State.post_unacked (s : State) (c : Nat) (m : Msg) (n : Nat) : (s.post c m n).unacked = s.unacked := rfl
@[simp] theorem State.post_replies (s : State) (c : Nat) (m : Msg) (n : Nat) : (s.post c m n).replies = s.replies := rfl
@[simp] theorem State.post_asked (s : State) (c : Nat) (m : Msg) (n : Nat) : (s.post c m n).asked = s.asked := rfl
@[simp] theorem State.post_retired (s : State) (c : Nat) (m : Msg) (n : Nat) : (s.post c m n).retired = s.retired := rfl
@[simp] theorem State.post_saves (s : State) (c : Nat) (m : Msg) (n : Nat) : (s.post c m n).saves = s.saves := rfl
@[simp] theorem State.post_saveVaults (s : State) (c : Nat) (m : Msg) (n : Nat) : (s.post c m n).saveVaults = s.saveVaults := rfl
@[simp] theorem State.post_hostOut (s : State) (c : Nat) (m : Msg) (n : Nat) : (s.post c m n).hostOut = s.hostOut := rfl
@[simp] theorem State.post_hostFails (s : State) (c : Nat) (m : Msg) (n : Nat) : (s.post c m n).hostFails = s.hostFails := rfl
@[simp] theorem State.post_heldIo (s : State) (c : Nat) (m : Msg) (n : Nat) : (s.post c m n).heldIo = s.heldIo := rfl
@[simp] theorem State.post_traces (s : State) (c : Nat) (m : Msg) (n : Nat) : (s.post c m n).traces = s.traces := rfl
@[simp] theorem State.post_driverTraces (s : State) (c : Nat) (m : Msg) (n : Nat) : (s.post c m n).driverTraces = s.driverTraces := rfl
@[simp] theorem State.post_ownerTraces (s : State) (c : Nat) (m : Msg) (n : Nat) : (s.post c m n).ownerTraces = s.ownerTraces := rfl
@[simp] theorem State.post_heldDebug (s : State) (c : Nat) (m : Msg) (n : Nat) : (s.post c m n).heldDebug = s.heldDebug := rfl
@[simp] theorem State.post_imports (s : State) (c : Nat) (m : Msg) (n : Nat) : (s.post c m n).imports = s.imports := rfl
@[simp] theorem State.post_sealOut (s : State) (c : Nat) (m : Msg) (n : Nat) : (s.post c m n).sealOut = s.sealOut := rfl
@[simp] theorem State.post_discarded (s : State) (c : Nat) (m : Msg) (n : Nat) : (s.post c m n).discarded = s.discarded := rfl
@[simp] theorem State.post_victims (s : State) (c : Nat) (m : Msg) (n : Nat) : (s.post c m n).victims = s.victims := rfl
@[simp] theorem State.post_incoming (s : State) (c : Nat) (m : Msg) (n : Nat) : (s.post c m n).incoming = s.incoming := rfl
@[simp] theorem State.post_inputs (s : State) (c : Nat) (m : Msg) (n : Nat) : (s.post c m n).inputs = s.inputs := rfl
@[simp] theorem State.post_agenda (s : State) (c : Nat) (m : Msg) (n : Nat) : (s.post c m n).agenda = s.agenda := rfl
@[simp] theorem State.post_ctx (s : State) (c : Nat) (m : Msg) (n : Nat) : (s.post c m n).ctx = s.ctx := rfl
@[simp] theorem State.post_clock (s : State) (c : Nat) (m : Msg) (n : Nat) : (s.post c m n).clock = s.clock := rfl
@[simp] theorem State.post_fresh (s : State) (c : Nat) (m : Msg) (n : Nat) : (s.post c m n).fresh = s.fresh := rfl
@[simp] theorem State.post_serial (s : State) (c : Nat) (m : Msg) (n : Nat) : (s.post c m n).serial = s.serial := rfl

/-! splitBare. -/

@[simp] theorem State.splitBare_gals (s : State) (n : Nat) (ops : List SlotOp) (kind : StopKind) (cause : Nat) : (s.splitBare n ops kind cause).gals = s.gals := rfl
@[simp] theorem State.splitBare_halls (s : State) (n : Nat) (ops : List SlotOp) (kind : StopKind) (cause : Nat) : (s.splitBare n ops kind cause).halls = s.halls := rfl
@[simp] theorem State.splitBare_hbm (s : State) (n : Nat) (ops : List SlotOp) (kind : StopKind) (cause : Nat) : (s.splitBare n ops kind cause).hbm = s.hbm := rfl
@[simp] theorem State.splitBare_sectors (s : State) (n : Nat) (ops : List SlotOp) (kind : StopKind) (cause : Nat) : (s.splitBare n ops kind cause).sectors = s.sectors := rfl
@[simp] theorem State.splitBare_hostMem (s : State) (n : Nat) (ops : List SlotOp) (kind : StopKind) (cause : Nat) : (s.splitBare n ops kind cause).hostMem = s.hostMem := rfl
@[simp] theorem State.splitBare_hostTags (s : State) (n : Nat) (ops : List SlotOp) (kind : StopKind) (cause : Nat) : (s.splitBare n ops kind cause).hostTags = s.hostTags := rfl
@[simp] theorem State.splitBare_keys (s : State) (n : Nat) (ops : List SlotOp) (kind : StopKind) (cause : Nat) : (s.splitBare n ops kind cause).keys = s.keys := rfl
@[simp] theorem State.splitBare_jobs (s : State) (n : Nat) (ops : List SlotOp) (kind : StopKind) (cause : Nat) : (s.splitBare n ops kind cause).jobs = s.jobs := rfl
@[simp] theorem State.splitBare_tasks (s : State) (n : Nat) (ops : List SlotOp) (kind : StopKind) (cause : Nat) : (s.splitBare n ops kind cause).tasks = s.tasks := rfl
@[simp] theorem State.splitBare_graphs (s : State) (n : Nat) (ops : List SlotOp) (kind : StopKind) (cause : Nat) : (s.splitBare n ops kind cause).graphs = s.graphs := rfl
@[simp] theorem State.splitBare_foyer (s : State) (n : Nat) (ops : List SlotOp) (kind : StopKind) (cause : Nat) : (s.splitBare n ops kind cause).foyer = s.foyer := rfl
@[simp] theorem State.splitBare_waiting (s : State) (n : Nat) (ops : List SlotOp) (kind : StopKind) (cause : Nat) : (s.splitBare n ops kind cause).waiting = s.waiting := rfl
@[simp] theorem State.splitBare_admitted (s : State) (n : Nat) (ops : List SlotOp) (kind : StopKind) (cause : Nat) : (s.splitBare n ops kind cause).admitted = s.admitted := rfl
@[simp] theorem State.splitBare_preempts (s : State) (n : Nat) (ops : List SlotOp) (kind : StopKind) (cause : Nat) : (s.splitBare n ops kind cause).preempts = s.preempts := rfl
@[simp] theorem State.splitBare_mail (s : State) (n : Nat) (ops : List SlotOp) (kind : StopKind) (cause : Nat) : (s.splitBare n ops kind cause).mail = s.mail := rfl
@[simp] theorem State.splitBare_box (s : State) (n : Nat) (ops : List SlotOp) (kind : StopKind) (cause : Nat) : (s.splitBare n ops kind cause).box = s.box := rfl
@[simp] theorem State.splitBare_sessions (s : State) (n : Nat) (ops : List SlotOp) (kind : StopKind) (cause : Nat) : (s.splitBare n ops kind cause).sessions = s.sessions := rfl
@[simp] theorem State.splitBare_log (s : State) (n : Nat) (ops : List SlotOp) (kind : StopKind) (cause : Nat) : (s.splitBare n ops kind cause).log = s.log := rfl
@[simp] theorem State.splitBare_ownerLog (s : State) (n : Nat) (ops : List SlotOp) (kind : StopKind) (cause : Nat) : (s.splitBare n ops kind cause).ownerLog = s.ownerLog := rfl
@[simp] theorem State.splitBare_seq (s : State) (n : Nat) (ops : List SlotOp) (kind : StopKind) (cause : Nat) : (s.splitBare n ops kind cause).seq = s.seq := rfl
@[simp] theorem State.splitBare_corrected (s : State) (n : Nat) (ops : List SlotOp) (kind : StopKind) (cause : Nat) : (s.splitBare n ops kind cause).corrected = s.corrected := rfl
@[simp] theorem State.splitBare_sramue (s : State) (n : Nat) (ops : List SlotOp) (kind : StopKind) (cause : Nat) : (s.splitBare n ops kind cause).sramue = s.sramue := rfl
@[simp] theorem State.splitBare_lockMis (s : State) (n : Nat) (ops : List SlotOp) (kind : StopKind) (cause : Nat) : (s.splitBare n ops kind cause).lockMis = s.lockMis := rfl
@[simp] theorem State.splitBare_msix (s : State) (n : Nat) (ops : List SlotOp) (kind : StopKind) (cause : Nat) : (s.splitBare n ops kind cause).msix = s.msix := rfl
@[simp] theorem State.splitBare_msixPend (s : State) (n : Nat) (ops : List SlotOp) (kind : StopKind) (cause : Nat) : (s.splitBare n ops kind cause).msixPend = s.msixPend := rfl
@[simp] theorem State.splitBare_host (s : State) (n : Nat) (ops : List SlotOp) (kind : StopKind) (cause : Nat) : (s.splitBare n ops kind cause).host = s.host := rfl
@[simp] theorem State.splitBare_ports (s : State) (n : Nat) (ops : List SlotOp) (kind : StopKind) (cause : Nat) : (s.splitBare n ops kind cause).ports = s.ports := rfl
@[simp] theorem State.splitBare_sentSeq (s : State) (n : Nat) (ops : List SlotOp) (kind : StopKind) (cause : Nat) : (s.splitBare n ops kind cause).sentSeq = s.sentSeq := rfl
@[simp] theorem State.splitBare_recvSeq (s : State) (n : Nat) (ops : List SlotOp) (kind : StopKind) (cause : Nat) : (s.splitBare n ops kind cause).recvSeq = s.recvSeq := rfl
@[simp] theorem State.splitBare_early (s : State) (n : Nat) (ops : List SlotOp) (kind : StopKind) (cause : Nat) : (s.splitBare n ops kind cause).early = s.early := rfl
@[simp] theorem State.splitBare_out (s : State) (n : Nat) (ops : List SlotOp) (kind : StopKind) (cause : Nat) : (s.splitBare n ops kind cause).out = s.out := rfl
@[simp] theorem State.splitBare_lateral (s : State) (n : Nat) (ops : List SlotOp) (kind : StopKind) (cause : Nat) : (s.splitBare n ops kind cause).lateral = s.lateral := rfl
@[simp] theorem State.splitBare_queued (s : State) (n : Nat) (ops : List SlotOp) (kind : StopKind) (cause : Nat) : (s.splitBare n ops kind cause).queued = s.queued := rfl
@[simp] theorem State.splitBare_spill (s : State) (n : Nat) (ops : List SlotOp) (kind : StopKind) (cause : Nat) : (s.splitBare n ops kind cause).spill = s.spill := rfl
@[simp] theorem State.splitBare_unacked (s : State) (n : Nat) (ops : List SlotOp) (kind : StopKind) (cause : Nat) : (s.splitBare n ops kind cause).unacked = s.unacked := rfl
@[simp] theorem State.splitBare_replies (s : State) (n : Nat) (ops : List SlotOp) (kind : StopKind) (cause : Nat) : (s.splitBare n ops kind cause).replies = s.replies := rfl
@[simp] theorem State.splitBare_asked (s : State) (n : Nat) (ops : List SlotOp) (kind : StopKind) (cause : Nat) : (s.splitBare n ops kind cause).asked = s.asked := rfl
@[simp] theorem State.splitBare_retired (s : State) (n : Nat) (ops : List SlotOp) (kind : StopKind) (cause : Nat) : (s.splitBare n ops kind cause).retired = s.retired := rfl
@[simp] theorem State.splitBare_saves (s : State) (n : Nat) (ops : List SlotOp) (kind : StopKind) (cause : Nat) : (s.splitBare n ops kind cause).saves = s.saves := rfl
@[simp] theorem State.splitBare_saveVaults (s : State) (n : Nat) (ops : List SlotOp) (kind : StopKind) (cause : Nat) : (s.splitBare n ops kind cause).saveVaults = s.saveVaults := rfl
@[simp] theorem State.splitBare_hostOut (s : State) (n : Nat) (ops : List SlotOp) (kind : StopKind) (cause : Nat) : (s.splitBare n ops kind cause).hostOut = s.hostOut := rfl
@[simp] theorem State.splitBare_hostFails (s : State) (n : Nat) (ops : List SlotOp) (kind : StopKind) (cause : Nat) : (s.splitBare n ops kind cause).hostFails = s.hostFails := rfl
@[simp] theorem State.splitBare_heldIo (s : State) (n : Nat) (ops : List SlotOp) (kind : StopKind) (cause : Nat) : (s.splitBare n ops kind cause).heldIo = s.heldIo := rfl
@[simp] theorem State.splitBare_traces (s : State) (n : Nat) (ops : List SlotOp) (kind : StopKind) (cause : Nat) : (s.splitBare n ops kind cause).traces = s.traces := rfl
@[simp] theorem State.splitBare_driverTraces (s : State) (n : Nat) (ops : List SlotOp) (kind : StopKind) (cause : Nat) : (s.splitBare n ops kind cause).driverTraces = s.driverTraces := rfl
@[simp] theorem State.splitBare_ownerTraces (s : State) (n : Nat) (ops : List SlotOp) (kind : StopKind) (cause : Nat) : (s.splitBare n ops kind cause).ownerTraces = s.ownerTraces := rfl
@[simp] theorem State.splitBare_heldDebug (s : State) (n : Nat) (ops : List SlotOp) (kind : StopKind) (cause : Nat) : (s.splitBare n ops kind cause).heldDebug = s.heldDebug := rfl
@[simp] theorem State.splitBare_imports (s : State) (n : Nat) (ops : List SlotOp) (kind : StopKind) (cause : Nat) : (s.splitBare n ops kind cause).imports = s.imports := rfl
@[simp] theorem State.splitBare_sealOut (s : State) (n : Nat) (ops : List SlotOp) (kind : StopKind) (cause : Nat) : (s.splitBare n ops kind cause).sealOut = s.sealOut := rfl
@[simp] theorem State.splitBare_discarded (s : State) (n : Nat) (ops : List SlotOp) (kind : StopKind) (cause : Nat) : (s.splitBare n ops kind cause).discarded = s.discarded := rfl
@[simp] theorem State.splitBare_victims (s : State) (n : Nat) (ops : List SlotOp) (kind : StopKind) (cause : Nat) : (s.splitBare n ops kind cause).victims = s.victims := rfl
@[simp] theorem State.splitBare_incoming (s : State) (n : Nat) (ops : List SlotOp) (kind : StopKind) (cause : Nat) : (s.splitBare n ops kind cause).incoming = s.incoming := rfl
@[simp] theorem State.splitBare_inputs (s : State) (n : Nat) (ops : List SlotOp) (kind : StopKind) (cause : Nat) : (s.splitBare n ops kind cause).inputs = s.inputs := rfl
@[simp] theorem State.splitBare_agenda (s : State) (n : Nat) (ops : List SlotOp) (kind : StopKind) (cause : Nat) : (s.splitBare n ops kind cause).agenda = s.agenda := rfl
@[simp] theorem State.splitBare_clock (s : State) (n : Nat) (ops : List SlotOp) (kind : StopKind) (cause : Nat) : (s.splitBare n ops kind cause).clock = s.clock := rfl
@[simp] theorem State.splitBare_fresh (s : State) (n : Nat) (ops : List SlotOp) (kind : StopKind) (cause : Nat) : (s.splitBare n ops kind cause).fresh = s.fresh := rfl
@[simp] theorem State.splitBare_serial (s : State) (n : Nat) (ops : List SlotOp) (kind : StopKind) (cause : Nat) : (s.splitBare n ops kind cause).serial = s.serial := rfl

/-! splitAt. -/

@[simp] theorem State.splitAt_gals (s : State) (n : Nat) (ops : List SlotOp) (code : Code) (v w : Word) : (s.splitAt n ops code v w).gals = s.gals := rfl
@[simp] theorem State.splitAt_halls (s : State) (n : Nat) (ops : List SlotOp) (code : Code) (v w : Word) : (s.splitAt n ops code v w).halls = s.halls := rfl
@[simp] theorem State.splitAt_hbm (s : State) (n : Nat) (ops : List SlotOp) (code : Code) (v w : Word) : (s.splitAt n ops code v w).hbm = s.hbm := rfl
@[simp] theorem State.splitAt_sectors (s : State) (n : Nat) (ops : List SlotOp) (code : Code) (v w : Word) : (s.splitAt n ops code v w).sectors = s.sectors := rfl
@[simp] theorem State.splitAt_hostMem (s : State) (n : Nat) (ops : List SlotOp) (code : Code) (v w : Word) : (s.splitAt n ops code v w).hostMem = s.hostMem := rfl
@[simp] theorem State.splitAt_hostTags (s : State) (n : Nat) (ops : List SlotOp) (code : Code) (v w : Word) : (s.splitAt n ops code v w).hostTags = s.hostTags := rfl
@[simp] theorem State.splitAt_keys (s : State) (n : Nat) (ops : List SlotOp) (code : Code) (v w : Word) : (s.splitAt n ops code v w).keys = s.keys := rfl
@[simp] theorem State.splitAt_jobs (s : State) (n : Nat) (ops : List SlotOp) (code : Code) (v w : Word) : (s.splitAt n ops code v w).jobs = s.jobs := rfl
@[simp] theorem State.splitAt_tasks (s : State) (n : Nat) (ops : List SlotOp) (code : Code) (v w : Word) : (s.splitAt n ops code v w).tasks = s.tasks := rfl
@[simp] theorem State.splitAt_graphs (s : State) (n : Nat) (ops : List SlotOp) (code : Code) (v w : Word) : (s.splitAt n ops code v w).graphs = s.graphs := rfl
@[simp] theorem State.splitAt_foyer (s : State) (n : Nat) (ops : List SlotOp) (code : Code) (v w : Word) : (s.splitAt n ops code v w).foyer = s.foyer := rfl
@[simp] theorem State.splitAt_waiting (s : State) (n : Nat) (ops : List SlotOp) (code : Code) (v w : Word) : (s.splitAt n ops code v w).waiting = s.waiting := rfl
@[simp] theorem State.splitAt_admitted (s : State) (n : Nat) (ops : List SlotOp) (code : Code) (v w : Word) : (s.splitAt n ops code v w).admitted = s.admitted := rfl
@[simp] theorem State.splitAt_preempts (s : State) (n : Nat) (ops : List SlotOp) (code : Code) (v w : Word) : (s.splitAt n ops code v w).preempts = s.preempts := rfl
@[simp] theorem State.splitAt_sessions (s : State) (n : Nat) (ops : List SlotOp) (code : Code) (v w : Word) : (s.splitAt n ops code v w).sessions = s.sessions := rfl
@[simp] theorem State.splitAt_log (s : State) (n : Nat) (ops : List SlotOp) (code : Code) (v w : Word) : (s.splitAt n ops code v w).log = s.log := rfl
@[simp] theorem State.splitAt_ownerLog (s : State) (n : Nat) (ops : List SlotOp) (code : Code) (v w : Word) : (s.splitAt n ops code v w).ownerLog = s.ownerLog := rfl
@[simp] theorem State.splitAt_seq (s : State) (n : Nat) (ops : List SlotOp) (code : Code) (v w : Word) : (s.splitAt n ops code v w).seq = s.seq := rfl
@[simp] theorem State.splitAt_corrected (s : State) (n : Nat) (ops : List SlotOp) (code : Code) (v w : Word) : (s.splitAt n ops code v w).corrected = s.corrected := rfl
@[simp] theorem State.splitAt_sramue (s : State) (n : Nat) (ops : List SlotOp) (code : Code) (v w : Word) : (s.splitAt n ops code v w).sramue = s.sramue := rfl
@[simp] theorem State.splitAt_lockMis (s : State) (n : Nat) (ops : List SlotOp) (code : Code) (v w : Word) : (s.splitAt n ops code v w).lockMis = s.lockMis := rfl
@[simp] theorem State.splitAt_msix (s : State) (n : Nat) (ops : List SlotOp) (code : Code) (v w : Word) : (s.splitAt n ops code v w).msix = s.msix := rfl
@[simp] theorem State.splitAt_msixPend (s : State) (n : Nat) (ops : List SlotOp) (code : Code) (v w : Word) : (s.splitAt n ops code v w).msixPend = s.msixPend := rfl
@[simp] theorem State.splitAt_host (s : State) (n : Nat) (ops : List SlotOp) (code : Code) (v w : Word) : (s.splitAt n ops code v w).host = s.host := rfl
@[simp] theorem State.splitAt_ports (s : State) (n : Nat) (ops : List SlotOp) (code : Code) (v w : Word) : (s.splitAt n ops code v w).ports = s.ports := rfl
@[simp] theorem State.splitAt_sentSeq (s : State) (n : Nat) (ops : List SlotOp) (code : Code) (v w : Word) : (s.splitAt n ops code v w).sentSeq = s.sentSeq := rfl
@[simp] theorem State.splitAt_recvSeq (s : State) (n : Nat) (ops : List SlotOp) (code : Code) (v w : Word) : (s.splitAt n ops code v w).recvSeq = s.recvSeq := rfl
@[simp] theorem State.splitAt_early (s : State) (n : Nat) (ops : List SlotOp) (code : Code) (v w : Word) : (s.splitAt n ops code v w).early = s.early := rfl
@[simp] theorem State.splitAt_out (s : State) (n : Nat) (ops : List SlotOp) (code : Code) (v w : Word) : (s.splitAt n ops code v w).out = s.out := rfl
@[simp] theorem State.splitAt_lateral (s : State) (n : Nat) (ops : List SlotOp) (code : Code) (v w : Word) : (s.splitAt n ops code v w).lateral = s.lateral := rfl
@[simp] theorem State.splitAt_queued (s : State) (n : Nat) (ops : List SlotOp) (code : Code) (v w : Word) : (s.splitAt n ops code v w).queued = s.queued := rfl
@[simp] theorem State.splitAt_spill (s : State) (n : Nat) (ops : List SlotOp) (code : Code) (v w : Word) : (s.splitAt n ops code v w).spill = s.spill := rfl
@[simp] theorem State.splitAt_unacked (s : State) (n : Nat) (ops : List SlotOp) (code : Code) (v w : Word) : (s.splitAt n ops code v w).unacked = s.unacked := rfl
@[simp] theorem State.splitAt_replies (s : State) (n : Nat) (ops : List SlotOp) (code : Code) (v w : Word) : (s.splitAt n ops code v w).replies = s.replies := rfl
@[simp] theorem State.splitAt_asked (s : State) (n : Nat) (ops : List SlotOp) (code : Code) (v w : Word) : (s.splitAt n ops code v w).asked = s.asked := rfl
@[simp] theorem State.splitAt_retired (s : State) (n : Nat) (ops : List SlotOp) (code : Code) (v w : Word) : (s.splitAt n ops code v w).retired = s.retired := rfl
@[simp] theorem State.splitAt_saves (s : State) (n : Nat) (ops : List SlotOp) (code : Code) (v w : Word) : (s.splitAt n ops code v w).saves = s.saves := rfl
@[simp] theorem State.splitAt_saveVaults (s : State) (n : Nat) (ops : List SlotOp) (code : Code) (v w : Word) : (s.splitAt n ops code v w).saveVaults = s.saveVaults := rfl
@[simp] theorem State.splitAt_hostOut (s : State) (n : Nat) (ops : List SlotOp) (code : Code) (v w : Word) : (s.splitAt n ops code v w).hostOut = s.hostOut := rfl
@[simp] theorem State.splitAt_hostFails (s : State) (n : Nat) (ops : List SlotOp) (code : Code) (v w : Word) : (s.splitAt n ops code v w).hostFails = s.hostFails := rfl
@[simp] theorem State.splitAt_heldIo (s : State) (n : Nat) (ops : List SlotOp) (code : Code) (v w : Word) : (s.splitAt n ops code v w).heldIo = s.heldIo := rfl
@[simp] theorem State.splitAt_traces (s : State) (n : Nat) (ops : List SlotOp) (code : Code) (v w : Word) : (s.splitAt n ops code v w).traces = s.traces := rfl
@[simp] theorem State.splitAt_driverTraces (s : State) (n : Nat) (ops : List SlotOp) (code : Code) (v w : Word) : (s.splitAt n ops code v w).driverTraces = s.driverTraces := rfl
@[simp] theorem State.splitAt_ownerTraces (s : State) (n : Nat) (ops : List SlotOp) (code : Code) (v w : Word) : (s.splitAt n ops code v w).ownerTraces = s.ownerTraces := rfl
@[simp] theorem State.splitAt_heldDebug (s : State) (n : Nat) (ops : List SlotOp) (code : Code) (v w : Word) : (s.splitAt n ops code v w).heldDebug = s.heldDebug := rfl
@[simp] theorem State.splitAt_imports (s : State) (n : Nat) (ops : List SlotOp) (code : Code) (v w : Word) : (s.splitAt n ops code v w).imports = s.imports := rfl
@[simp] theorem State.splitAt_sealOut (s : State) (n : Nat) (ops : List SlotOp) (code : Code) (v w : Word) : (s.splitAt n ops code v w).sealOut = s.sealOut := rfl
@[simp] theorem State.splitAt_discarded (s : State) (n : Nat) (ops : List SlotOp) (code : Code) (v w : Word) : (s.splitAt n ops code v w).discarded = s.discarded := rfl
@[simp] theorem State.splitAt_victims (s : State) (n : Nat) (ops : List SlotOp) (code : Code) (v w : Word) : (s.splitAt n ops code v w).victims = s.victims := rfl
@[simp] theorem State.splitAt_incoming (s : State) (n : Nat) (ops : List SlotOp) (code : Code) (v w : Word) : (s.splitAt n ops code v w).incoming = s.incoming := rfl
@[simp] theorem State.splitAt_inputs (s : State) (n : Nat) (ops : List SlotOp) (code : Code) (v w : Word) : (s.splitAt n ops code v w).inputs = s.inputs := rfl
@[simp] theorem State.splitAt_agenda (s : State) (n : Nat) (ops : List SlotOp) (code : Code) (v w : Word) : (s.splitAt n ops code v w).agenda = s.agenda := rfl
@[simp] theorem State.splitAt_clock (s : State) (n : Nat) (ops : List SlotOp) (code : Code) (v w : Word) : (s.splitAt n ops code v w).clock = s.clock := rfl
@[simp] theorem State.splitAt_fresh (s : State) (n : Nat) (ops : List SlotOp) (code : Code) (v w : Word) : (s.splitAt n ops code v w).fresh = s.fresh := rfl
@[simp] theorem State.splitAt_serial (s : State) (n : Nat) (ops : List SlotOp) (code : Code) (v w : Word) : (s.splitAt n ops code v w).serial = s.serial := rfl

/-! raiseEvent. -/

@[simp] theorem State.raiseEvent_gals (s : State) (i : Instr) (e : Code × Word) : (s.raiseEvent i e).gals = s.gals := rfl
@[simp] theorem State.raiseEvent_halls (s : State) (i : Instr) (e : Code × Word) : (s.raiseEvent i e).halls = s.halls := rfl
@[simp] theorem State.raiseEvent_hbm (s : State) (i : Instr) (e : Code × Word) : (s.raiseEvent i e).hbm = s.hbm := rfl
@[simp] theorem State.raiseEvent_sectors (s : State) (i : Instr) (e : Code × Word) : (s.raiseEvent i e).sectors = s.sectors := rfl
@[simp] theorem State.raiseEvent_hostMem (s : State) (i : Instr) (e : Code × Word) : (s.raiseEvent i e).hostMem = s.hostMem := rfl
@[simp] theorem State.raiseEvent_hostTags (s : State) (i : Instr) (e : Code × Word) : (s.raiseEvent i e).hostTags = s.hostTags := rfl
@[simp] theorem State.raiseEvent_keys (s : State) (i : Instr) (e : Code × Word) : (s.raiseEvent i e).keys = s.keys := rfl
@[simp] theorem State.raiseEvent_jobs (s : State) (i : Instr) (e : Code × Word) : (s.raiseEvent i e).jobs = s.jobs := rfl
@[simp] theorem State.raiseEvent_tasks (s : State) (i : Instr) (e : Code × Word) : (s.raiseEvent i e).tasks = s.tasks := rfl
@[simp] theorem State.raiseEvent_graphs (s : State) (i : Instr) (e : Code × Word) : (s.raiseEvent i e).graphs = s.graphs := rfl
@[simp] theorem State.raiseEvent_foyer (s : State) (i : Instr) (e : Code × Word) : (s.raiseEvent i e).foyer = s.foyer := rfl
@[simp] theorem State.raiseEvent_waiting (s : State) (i : Instr) (e : Code × Word) : (s.raiseEvent i e).waiting = s.waiting := rfl
@[simp] theorem State.raiseEvent_admitted (s : State) (i : Instr) (e : Code × Word) : (s.raiseEvent i e).admitted = s.admitted := rfl
@[simp] theorem State.raiseEvent_preempts (s : State) (i : Instr) (e : Code × Word) : (s.raiseEvent i e).preempts = s.preempts := rfl
@[simp] theorem State.raiseEvent_sessions (s : State) (i : Instr) (e : Code × Word) : (s.raiseEvent i e).sessions = s.sessions := rfl
@[simp] theorem State.raiseEvent_log (s : State) (i : Instr) (e : Code × Word) : (s.raiseEvent i e).log = s.log := rfl
@[simp] theorem State.raiseEvent_ownerLog (s : State) (i : Instr) (e : Code × Word) : (s.raiseEvent i e).ownerLog = s.ownerLog := rfl
@[simp] theorem State.raiseEvent_seq (s : State) (i : Instr) (e : Code × Word) : (s.raiseEvent i e).seq = s.seq := rfl
@[simp] theorem State.raiseEvent_corrected (s : State) (i : Instr) (e : Code × Word) : (s.raiseEvent i e).corrected = s.corrected := rfl
@[simp] theorem State.raiseEvent_sramue (s : State) (i : Instr) (e : Code × Word) : (s.raiseEvent i e).sramue = s.sramue := rfl
@[simp] theorem State.raiseEvent_lockMis (s : State) (i : Instr) (e : Code × Word) : (s.raiseEvent i e).lockMis = s.lockMis := rfl
@[simp] theorem State.raiseEvent_msix (s : State) (i : Instr) (e : Code × Word) : (s.raiseEvent i e).msix = s.msix := rfl
@[simp] theorem State.raiseEvent_msixPend (s : State) (i : Instr) (e : Code × Word) : (s.raiseEvent i e).msixPend = s.msixPend := rfl
@[simp] theorem State.raiseEvent_host (s : State) (i : Instr) (e : Code × Word) : (s.raiseEvent i e).host = s.host := rfl
@[simp] theorem State.raiseEvent_ports (s : State) (i : Instr) (e : Code × Word) : (s.raiseEvent i e).ports = s.ports := rfl
@[simp] theorem State.raiseEvent_sentSeq (s : State) (i : Instr) (e : Code × Word) : (s.raiseEvent i e).sentSeq = s.sentSeq := rfl
@[simp] theorem State.raiseEvent_recvSeq (s : State) (i : Instr) (e : Code × Word) : (s.raiseEvent i e).recvSeq = s.recvSeq := rfl
@[simp] theorem State.raiseEvent_early (s : State) (i : Instr) (e : Code × Word) : (s.raiseEvent i e).early = s.early := rfl
@[simp] theorem State.raiseEvent_out (s : State) (i : Instr) (e : Code × Word) : (s.raiseEvent i e).out = s.out := rfl
@[simp] theorem State.raiseEvent_lateral (s : State) (i : Instr) (e : Code × Word) : (s.raiseEvent i e).lateral = s.lateral := rfl
@[simp] theorem State.raiseEvent_queued (s : State) (i : Instr) (e : Code × Word) : (s.raiseEvent i e).queued = s.queued := rfl
@[simp] theorem State.raiseEvent_spill (s : State) (i : Instr) (e : Code × Word) : (s.raiseEvent i e).spill = s.spill := rfl
@[simp] theorem State.raiseEvent_unacked (s : State) (i : Instr) (e : Code × Word) : (s.raiseEvent i e).unacked = s.unacked := rfl
@[simp] theorem State.raiseEvent_replies (s : State) (i : Instr) (e : Code × Word) : (s.raiseEvent i e).replies = s.replies := rfl
@[simp] theorem State.raiseEvent_asked (s : State) (i : Instr) (e : Code × Word) : (s.raiseEvent i e).asked = s.asked := rfl
@[simp] theorem State.raiseEvent_retired (s : State) (i : Instr) (e : Code × Word) : (s.raiseEvent i e).retired = s.retired := rfl
@[simp] theorem State.raiseEvent_saves (s : State) (i : Instr) (e : Code × Word) : (s.raiseEvent i e).saves = s.saves := rfl
@[simp] theorem State.raiseEvent_saveVaults (s : State) (i : Instr) (e : Code × Word) : (s.raiseEvent i e).saveVaults = s.saveVaults := rfl
@[simp] theorem State.raiseEvent_hostOut (s : State) (i : Instr) (e : Code × Word) : (s.raiseEvent i e).hostOut = s.hostOut := rfl
@[simp] theorem State.raiseEvent_hostFails (s : State) (i : Instr) (e : Code × Word) : (s.raiseEvent i e).hostFails = s.hostFails := rfl
@[simp] theorem State.raiseEvent_heldIo (s : State) (i : Instr) (e : Code × Word) : (s.raiseEvent i e).heldIo = s.heldIo := rfl
@[simp] theorem State.raiseEvent_traces (s : State) (i : Instr) (e : Code × Word) : (s.raiseEvent i e).traces = s.traces := rfl
@[simp] theorem State.raiseEvent_driverTraces (s : State) (i : Instr) (e : Code × Word) : (s.raiseEvent i e).driverTraces = s.driverTraces := rfl
@[simp] theorem State.raiseEvent_ownerTraces (s : State) (i : Instr) (e : Code × Word) : (s.raiseEvent i e).ownerTraces = s.ownerTraces := rfl
@[simp] theorem State.raiseEvent_heldDebug (s : State) (i : Instr) (e : Code × Word) : (s.raiseEvent i e).heldDebug = s.heldDebug := rfl
@[simp] theorem State.raiseEvent_imports (s : State) (i : Instr) (e : Code × Word) : (s.raiseEvent i e).imports = s.imports := rfl
@[simp] theorem State.raiseEvent_sealOut (s : State) (i : Instr) (e : Code × Word) : (s.raiseEvent i e).sealOut = s.sealOut := rfl
@[simp] theorem State.raiseEvent_discarded (s : State) (i : Instr) (e : Code × Word) : (s.raiseEvent i e).discarded = s.discarded := rfl
@[simp] theorem State.raiseEvent_victims (s : State) (i : Instr) (e : Code × Word) : (s.raiseEvent i e).victims = s.victims := rfl
@[simp] theorem State.raiseEvent_incoming (s : State) (i : Instr) (e : Code × Word) : (s.raiseEvent i e).incoming = s.incoming := rfl
@[simp] theorem State.raiseEvent_inputs (s : State) (i : Instr) (e : Code × Word) : (s.raiseEvent i e).inputs = s.inputs := rfl
@[simp] theorem State.raiseEvent_agenda (s : State) (i : Instr) (e : Code × Word) : (s.raiseEvent i e).agenda = s.agenda := rfl
@[simp] theorem State.raiseEvent_clock (s : State) (i : Instr) (e : Code × Word) : (s.raiseEvent i e).clock = s.clock := rfl
@[simp] theorem State.raiseEvent_fresh (s : State) (i : Instr) (e : Code × Word) : (s.raiseEvent i e).fresh = s.fresh := rfl
@[simp] theorem State.raiseEvent_serial (s : State) (i : Instr) (e : Code × Word) : (s.raiseEvent i e).serial = s.serial := rfl

/-! seqHalt. -/

@[simp] theorem State.seqHalt_gals (s : State) (c : Nat) (code : Code) (v w : Word) : (s.seqHalt c code v w).gals = s.gals := rfl
@[simp] theorem State.seqHalt_halls (s : State) (c : Nat) (code : Code) (v w : Word) : (s.seqHalt c code v w).halls = s.halls := rfl
@[simp] theorem State.seqHalt_hbm (s : State) (c : Nat) (code : Code) (v w : Word) : (s.seqHalt c code v w).hbm = s.hbm := rfl
@[simp] theorem State.seqHalt_sectors (s : State) (c : Nat) (code : Code) (v w : Word) : (s.seqHalt c code v w).sectors = s.sectors := rfl
@[simp] theorem State.seqHalt_hostMem (s : State) (c : Nat) (code : Code) (v w : Word) : (s.seqHalt c code v w).hostMem = s.hostMem := rfl
@[simp] theorem State.seqHalt_hostTags (s : State) (c : Nat) (code : Code) (v w : Word) : (s.seqHalt c code v w).hostTags = s.hostTags := rfl
@[simp] theorem State.seqHalt_keys (s : State) (c : Nat) (code : Code) (v w : Word) : (s.seqHalt c code v w).keys = s.keys := rfl
@[simp] theorem State.seqHalt_jobs (s : State) (c : Nat) (code : Code) (v w : Word) : (s.seqHalt c code v w).jobs = s.jobs := rfl
@[simp] theorem State.seqHalt_tasks (s : State) (c : Nat) (code : Code) (v w : Word) : (s.seqHalt c code v w).tasks = s.tasks := rfl
@[simp] theorem State.seqHalt_graphs (s : State) (c : Nat) (code : Code) (v w : Word) : (s.seqHalt c code v w).graphs = s.graphs := rfl
@[simp] theorem State.seqHalt_foyer (s : State) (c : Nat) (code : Code) (v w : Word) : (s.seqHalt c code v w).foyer = s.foyer := rfl
@[simp] theorem State.seqHalt_waiting (s : State) (c : Nat) (code : Code) (v w : Word) : (s.seqHalt c code v w).waiting = s.waiting := rfl
@[simp] theorem State.seqHalt_admitted (s : State) (c : Nat) (code : Code) (v w : Word) : (s.seqHalt c code v w).admitted = s.admitted := rfl
@[simp] theorem State.seqHalt_launches (s : State) (c : Nat) (code : Code) (v w : Word) : (s.seqHalt c code v w).launches = s.launches := rfl
@[simp] theorem State.seqHalt_preempts (s : State) (c : Nat) (code : Code) (v w : Word) : (s.seqHalt c code v w).preempts = s.preempts := rfl
@[simp] theorem State.seqHalt_sessions (s : State) (c : Nat) (code : Code) (v w : Word) : (s.seqHalt c code v w).sessions = s.sessions := rfl
@[simp] theorem State.seqHalt_log (s : State) (c : Nat) (code : Code) (v w : Word) : (s.seqHalt c code v w).log = s.log := rfl
@[simp] theorem State.seqHalt_ownerLog (s : State) (c : Nat) (code : Code) (v w : Word) : (s.seqHalt c code v w).ownerLog = s.ownerLog := rfl
@[simp] theorem State.seqHalt_seq (s : State) (c : Nat) (code : Code) (v w : Word) : (s.seqHalt c code v w).seq = s.seq := rfl
@[simp] theorem State.seqHalt_corrected (s : State) (c : Nat) (code : Code) (v w : Word) : (s.seqHalt c code v w).corrected = s.corrected := rfl
@[simp] theorem State.seqHalt_sramue (s : State) (c : Nat) (code : Code) (v w : Word) : (s.seqHalt c code v w).sramue = s.sramue := rfl
@[simp] theorem State.seqHalt_lockMis (s : State) (c : Nat) (code : Code) (v w : Word) : (s.seqHalt c code v w).lockMis = s.lockMis := rfl
@[simp] theorem State.seqHalt_msix (s : State) (c : Nat) (code : Code) (v w : Word) : (s.seqHalt c code v w).msix = s.msix := rfl
@[simp] theorem State.seqHalt_msixPend (s : State) (c : Nat) (code : Code) (v w : Word) : (s.seqHalt c code v w).msixPend = s.msixPend := rfl
@[simp] theorem State.seqHalt_host (s : State) (c : Nat) (code : Code) (v w : Word) : (s.seqHalt c code v w).host = s.host := rfl
@[simp] theorem State.seqHalt_ports (s : State) (c : Nat) (code : Code) (v w : Word) : (s.seqHalt c code v w).ports = s.ports := rfl
@[simp] theorem State.seqHalt_sentSeq (s : State) (c : Nat) (code : Code) (v w : Word) : (s.seqHalt c code v w).sentSeq = s.sentSeq := rfl
@[simp] theorem State.seqHalt_recvSeq (s : State) (c : Nat) (code : Code) (v w : Word) : (s.seqHalt c code v w).recvSeq = s.recvSeq := rfl
@[simp] theorem State.seqHalt_early (s : State) (c : Nat) (code : Code) (v w : Word) : (s.seqHalt c code v w).early = s.early := rfl
@[simp] theorem State.seqHalt_out (s : State) (c : Nat) (code : Code) (v w : Word) : (s.seqHalt c code v w).out = s.out := rfl
@[simp] theorem State.seqHalt_lateral (s : State) (c : Nat) (code : Code) (v w : Word) : (s.seqHalt c code v w).lateral = s.lateral := rfl
@[simp] theorem State.seqHalt_queued (s : State) (c : Nat) (code : Code) (v w : Word) : (s.seqHalt c code v w).queued = s.queued := rfl
@[simp] theorem State.seqHalt_spill (s : State) (c : Nat) (code : Code) (v w : Word) : (s.seqHalt c code v w).spill = s.spill := rfl
@[simp] theorem State.seqHalt_unacked (s : State) (c : Nat) (code : Code) (v w : Word) : (s.seqHalt c code v w).unacked = s.unacked := rfl
@[simp] theorem State.seqHalt_replies (s : State) (c : Nat) (code : Code) (v w : Word) : (s.seqHalt c code v w).replies = s.replies := rfl
@[simp] theorem State.seqHalt_asked (s : State) (c : Nat) (code : Code) (v w : Word) : (s.seqHalt c code v w).asked = s.asked := rfl
@[simp] theorem State.seqHalt_retired (s : State) (c : Nat) (code : Code) (v w : Word) : (s.seqHalt c code v w).retired = s.retired := rfl
@[simp] theorem State.seqHalt_saves (s : State) (c : Nat) (code : Code) (v w : Word) : (s.seqHalt c code v w).saves = s.saves := rfl
@[simp] theorem State.seqHalt_saveVaults (s : State) (c : Nat) (code : Code) (v w : Word) : (s.seqHalt c code v w).saveVaults = s.saveVaults := rfl
@[simp] theorem State.seqHalt_hostOut (s : State) (c : Nat) (code : Code) (v w : Word) : (s.seqHalt c code v w).hostOut = s.hostOut := rfl
@[simp] theorem State.seqHalt_hostFails (s : State) (c : Nat) (code : Code) (v w : Word) : (s.seqHalt c code v w).hostFails = s.hostFails := rfl
@[simp] theorem State.seqHalt_heldIo (s : State) (c : Nat) (code : Code) (v w : Word) : (s.seqHalt c code v w).heldIo = s.heldIo := rfl
@[simp] theorem State.seqHalt_traces (s : State) (c : Nat) (code : Code) (v w : Word) : (s.seqHalt c code v w).traces = s.traces := rfl
@[simp] theorem State.seqHalt_driverTraces (s : State) (c : Nat) (code : Code) (v w : Word) : (s.seqHalt c code v w).driverTraces = s.driverTraces := rfl
@[simp] theorem State.seqHalt_ownerTraces (s : State) (c : Nat) (code : Code) (v w : Word) : (s.seqHalt c code v w).ownerTraces = s.ownerTraces := rfl
@[simp] theorem State.seqHalt_heldDebug (s : State) (c : Nat) (code : Code) (v w : Word) : (s.seqHalt c code v w).heldDebug = s.heldDebug := rfl
@[simp] theorem State.seqHalt_imports (s : State) (c : Nat) (code : Code) (v w : Word) : (s.seqHalt c code v w).imports = s.imports := rfl
@[simp] theorem State.seqHalt_sealOut (s : State) (c : Nat) (code : Code) (v w : Word) : (s.seqHalt c code v w).sealOut = s.sealOut := rfl
@[simp] theorem State.seqHalt_discarded (s : State) (c : Nat) (code : Code) (v w : Word) : (s.seqHalt c code v w).discarded = s.discarded := rfl
@[simp] theorem State.seqHalt_victims (s : State) (c : Nat) (code : Code) (v w : Word) : (s.seqHalt c code v w).victims = s.victims := rfl
@[simp] theorem State.seqHalt_incoming (s : State) (c : Nat) (code : Code) (v w : Word) : (s.seqHalt c code v w).incoming = s.incoming := rfl
@[simp] theorem State.seqHalt_inputs (s : State) (c : Nat) (code : Code) (v w : Word) : (s.seqHalt c code v w).inputs = s.inputs := rfl
@[simp] theorem State.seqHalt_agenda (s : State) (c : Nat) (code : Code) (v w : Word) : (s.seqHalt c code v w).agenda = s.agenda := rfl
@[simp] theorem State.seqHalt_ctx (s : State) (c : Nat) (code : Code) (v w : Word) : (s.seqHalt c code v w).ctx = s.ctx := rfl
@[simp] theorem State.seqHalt_clock (s : State) (c : Nat) (code : Code) (v w : Word) : (s.seqHalt c code v w).clock = s.clock := rfl
@[simp] theorem State.seqHalt_fresh (s : State) (c : Nat) (code : Code) (v w : Word) : (s.seqHalt c code v w).fresh = s.fresh := rfl
@[simp] theorem State.seqHalt_serial (s : State) (c : Nat) (code : Code) (v w : Word) : (s.seqHalt c code v w).serial = s.serial := rfl

/-! draw. -/

@[simp] theorem State.draw_cores (s : State)  : (s.draw.2).cores = s.cores := rfl
@[simp] theorem State.draw_gals (s : State)  : (s.draw.2).gals = s.gals := rfl
@[simp] theorem State.draw_halls (s : State)  : (s.draw.2).halls = s.halls := rfl
@[simp] theorem State.draw_hbm (s : State)  : (s.draw.2).hbm = s.hbm := rfl
@[simp] theorem State.draw_sectors (s : State)  : (s.draw.2).sectors = s.sectors := rfl
@[simp] theorem State.draw_hostMem (s : State)  : (s.draw.2).hostMem = s.hostMem := rfl
@[simp] theorem State.draw_hostTags (s : State)  : (s.draw.2).hostTags = s.hostTags := rfl
@[simp] theorem State.draw_keys (s : State)  : (s.draw.2).keys = s.keys := rfl
@[simp] theorem State.draw_jobs (s : State)  : (s.draw.2).jobs = s.jobs := rfl
@[simp] theorem State.draw_tasks (s : State)  : (s.draw.2).tasks = s.tasks := rfl
@[simp] theorem State.draw_graphs (s : State)  : (s.draw.2).graphs = s.graphs := rfl
@[simp] theorem State.draw_foyer (s : State)  : (s.draw.2).foyer = s.foyer := rfl
@[simp] theorem State.draw_waiting (s : State)  : (s.draw.2).waiting = s.waiting := rfl
@[simp] theorem State.draw_admitted (s : State)  : (s.draw.2).admitted = s.admitted := rfl
@[simp] theorem State.draw_launches (s : State)  : (s.draw.2).launches = s.launches := rfl
@[simp] theorem State.draw_preempts (s : State)  : (s.draw.2).preempts = s.preempts := rfl
@[simp] theorem State.draw_mail (s : State)  : (s.draw.2).mail = s.mail := rfl
@[simp] theorem State.draw_box (s : State)  : (s.draw.2).box = s.box := rfl
@[simp] theorem State.draw_sessions (s : State)  : (s.draw.2).sessions = s.sessions := rfl
@[simp] theorem State.draw_log (s : State)  : (s.draw.2).log = s.log := rfl
@[simp] theorem State.draw_ownerLog (s : State)  : (s.draw.2).ownerLog = s.ownerLog := rfl
@[simp] theorem State.draw_seq (s : State)  : (s.draw.2).seq = s.seq := rfl
@[simp] theorem State.draw_corrected (s : State)  : (s.draw.2).corrected = s.corrected := rfl
@[simp] theorem State.draw_sramue (s : State)  : (s.draw.2).sramue = s.sramue := rfl
@[simp] theorem State.draw_lockMis (s : State)  : (s.draw.2).lockMis = s.lockMis := rfl
@[simp] theorem State.draw_msix (s : State)  : (s.draw.2).msix = s.msix := rfl
@[simp] theorem State.draw_msixPend (s : State)  : (s.draw.2).msixPend = s.msixPend := rfl
@[simp] theorem State.draw_host (s : State)  : (s.draw.2).host = s.host := rfl
@[simp] theorem State.draw_ports (s : State)  : (s.draw.2).ports = s.ports := rfl
@[simp] theorem State.draw_sentSeq (s : State)  : (s.draw.2).sentSeq = s.sentSeq := rfl
@[simp] theorem State.draw_recvSeq (s : State)  : (s.draw.2).recvSeq = s.recvSeq := rfl
@[simp] theorem State.draw_early (s : State)  : (s.draw.2).early = s.early := rfl
@[simp] theorem State.draw_out (s : State)  : (s.draw.2).out = s.out := rfl
@[simp] theorem State.draw_lateral (s : State)  : (s.draw.2).lateral = s.lateral := rfl
@[simp] theorem State.draw_queued (s : State)  : (s.draw.2).queued = s.queued := rfl
@[simp] theorem State.draw_spill (s : State)  : (s.draw.2).spill = s.spill := rfl
@[simp] theorem State.draw_unacked (s : State)  : (s.draw.2).unacked = s.unacked := rfl
@[simp] theorem State.draw_replies (s : State)  : (s.draw.2).replies = s.replies := rfl
@[simp] theorem State.draw_asked (s : State)  : (s.draw.2).asked = s.asked := rfl
@[simp] theorem State.draw_retired (s : State)  : (s.draw.2).retired = s.retired := rfl
@[simp] theorem State.draw_saves (s : State)  : (s.draw.2).saves = s.saves := rfl
@[simp] theorem State.draw_saveVaults (s : State)  : (s.draw.2).saveVaults = s.saveVaults := rfl
@[simp] theorem State.draw_hostOut (s : State)  : (s.draw.2).hostOut = s.hostOut := rfl
@[simp] theorem State.draw_hostFails (s : State)  : (s.draw.2).hostFails = s.hostFails := rfl
@[simp] theorem State.draw_heldIo (s : State)  : (s.draw.2).heldIo = s.heldIo := rfl
@[simp] theorem State.draw_traces (s : State)  : (s.draw.2).traces = s.traces := rfl
@[simp] theorem State.draw_driverTraces (s : State)  : (s.draw.2).driverTraces = s.driverTraces := rfl
@[simp] theorem State.draw_ownerTraces (s : State)  : (s.draw.2).ownerTraces = s.ownerTraces := rfl
@[simp] theorem State.draw_heldDebug (s : State)  : (s.draw.2).heldDebug = s.heldDebug := rfl
@[simp] theorem State.draw_imports (s : State)  : (s.draw.2).imports = s.imports := rfl
@[simp] theorem State.draw_sealOut (s : State)  : (s.draw.2).sealOut = s.sealOut := rfl
@[simp] theorem State.draw_discarded (s : State)  : (s.draw.2).discarded = s.discarded := rfl
@[simp] theorem State.draw_victims (s : State)  : (s.draw.2).victims = s.victims := rfl
@[simp] theorem State.draw_incoming (s : State)  : (s.draw.2).incoming = s.incoming := rfl
@[simp] theorem State.draw_inputs (s : State)  : (s.draw.2).inputs = s.inputs := rfl
@[simp] theorem State.draw_agenda (s : State)  : (s.draw.2).agenda = s.agenda := rfl
@[simp] theorem State.draw_ctx (s : State)  : (s.draw.2).ctx = s.ctx := rfl
@[simp] theorem State.draw_clock (s : State)  : (s.draw.2).clock = s.clock := rfl
@[simp] theorem State.draw_serial (s : State)  : (s.draw.2).serial = s.serial := rfl

/-! nextSerial. -/

@[simp] theorem State.nextSerial_cores (s : State)  : (s.nextSerial.2).cores = s.cores := rfl
@[simp] theorem State.nextSerial_gals (s : State)  : (s.nextSerial.2).gals = s.gals := rfl
@[simp] theorem State.nextSerial_halls (s : State)  : (s.nextSerial.2).halls = s.halls := rfl
@[simp] theorem State.nextSerial_hbm (s : State)  : (s.nextSerial.2).hbm = s.hbm := rfl
@[simp] theorem State.nextSerial_sectors (s : State)  : (s.nextSerial.2).sectors = s.sectors := rfl
@[simp] theorem State.nextSerial_hostMem (s : State)  : (s.nextSerial.2).hostMem = s.hostMem := rfl
@[simp] theorem State.nextSerial_hostTags (s : State)  : (s.nextSerial.2).hostTags = s.hostTags := rfl
@[simp] theorem State.nextSerial_keys (s : State)  : (s.nextSerial.2).keys = s.keys := rfl
@[simp] theorem State.nextSerial_jobs (s : State)  : (s.nextSerial.2).jobs = s.jobs := rfl
@[simp] theorem State.nextSerial_tasks (s : State)  : (s.nextSerial.2).tasks = s.tasks := rfl
@[simp] theorem State.nextSerial_graphs (s : State)  : (s.nextSerial.2).graphs = s.graphs := rfl
@[simp] theorem State.nextSerial_foyer (s : State)  : (s.nextSerial.2).foyer = s.foyer := rfl
@[simp] theorem State.nextSerial_waiting (s : State)  : (s.nextSerial.2).waiting = s.waiting := rfl
@[simp] theorem State.nextSerial_admitted (s : State)  : (s.nextSerial.2).admitted = s.admitted := rfl
@[simp] theorem State.nextSerial_launches (s : State)  : (s.nextSerial.2).launches = s.launches := rfl
@[simp] theorem State.nextSerial_preempts (s : State)  : (s.nextSerial.2).preempts = s.preempts := rfl
@[simp] theorem State.nextSerial_mail (s : State)  : (s.nextSerial.2).mail = s.mail := rfl
@[simp] theorem State.nextSerial_box (s : State)  : (s.nextSerial.2).box = s.box := rfl
@[simp] theorem State.nextSerial_sessions (s : State)  : (s.nextSerial.2).sessions = s.sessions := rfl
@[simp] theorem State.nextSerial_log (s : State)  : (s.nextSerial.2).log = s.log := rfl
@[simp] theorem State.nextSerial_ownerLog (s : State)  : (s.nextSerial.2).ownerLog = s.ownerLog := rfl
@[simp] theorem State.nextSerial_seq (s : State)  : (s.nextSerial.2).seq = s.seq := rfl
@[simp] theorem State.nextSerial_corrected (s : State)  : (s.nextSerial.2).corrected = s.corrected := rfl
@[simp] theorem State.nextSerial_sramue (s : State)  : (s.nextSerial.2).sramue = s.sramue := rfl
@[simp] theorem State.nextSerial_lockMis (s : State)  : (s.nextSerial.2).lockMis = s.lockMis := rfl
@[simp] theorem State.nextSerial_msix (s : State)  : (s.nextSerial.2).msix = s.msix := rfl
@[simp] theorem State.nextSerial_msixPend (s : State)  : (s.nextSerial.2).msixPend = s.msixPend := rfl
@[simp] theorem State.nextSerial_host (s : State)  : (s.nextSerial.2).host = s.host := rfl
@[simp] theorem State.nextSerial_ports (s : State)  : (s.nextSerial.2).ports = s.ports := rfl
@[simp] theorem State.nextSerial_sentSeq (s : State)  : (s.nextSerial.2).sentSeq = s.sentSeq := rfl
@[simp] theorem State.nextSerial_recvSeq (s : State)  : (s.nextSerial.2).recvSeq = s.recvSeq := rfl
@[simp] theorem State.nextSerial_early (s : State)  : (s.nextSerial.2).early = s.early := rfl
@[simp] theorem State.nextSerial_out (s : State)  : (s.nextSerial.2).out = s.out := rfl
@[simp] theorem State.nextSerial_lateral (s : State)  : (s.nextSerial.2).lateral = s.lateral := rfl
@[simp] theorem State.nextSerial_queued (s : State)  : (s.nextSerial.2).queued = s.queued := rfl
@[simp] theorem State.nextSerial_spill (s : State)  : (s.nextSerial.2).spill = s.spill := rfl
@[simp] theorem State.nextSerial_unacked (s : State)  : (s.nextSerial.2).unacked = s.unacked := rfl
@[simp] theorem State.nextSerial_replies (s : State)  : (s.nextSerial.2).replies = s.replies := rfl
@[simp] theorem State.nextSerial_asked (s : State)  : (s.nextSerial.2).asked = s.asked := rfl
@[simp] theorem State.nextSerial_retired (s : State)  : (s.nextSerial.2).retired = s.retired := rfl
@[simp] theorem State.nextSerial_saves (s : State)  : (s.nextSerial.2).saves = s.saves := rfl
@[simp] theorem State.nextSerial_saveVaults (s : State)  : (s.nextSerial.2).saveVaults = s.saveVaults := rfl
@[simp] theorem State.nextSerial_hostOut (s : State)  : (s.nextSerial.2).hostOut = s.hostOut := rfl
@[simp] theorem State.nextSerial_hostFails (s : State)  : (s.nextSerial.2).hostFails = s.hostFails := rfl
@[simp] theorem State.nextSerial_heldIo (s : State)  : (s.nextSerial.2).heldIo = s.heldIo := rfl
@[simp] theorem State.nextSerial_traces (s : State)  : (s.nextSerial.2).traces = s.traces := rfl
@[simp] theorem State.nextSerial_driverTraces (s : State)  : (s.nextSerial.2).driverTraces = s.driverTraces := rfl
@[simp] theorem State.nextSerial_ownerTraces (s : State)  : (s.nextSerial.2).ownerTraces = s.ownerTraces := rfl
@[simp] theorem State.nextSerial_heldDebug (s : State)  : (s.nextSerial.2).heldDebug = s.heldDebug := rfl
@[simp] theorem State.nextSerial_imports (s : State)  : (s.nextSerial.2).imports = s.imports := rfl
@[simp] theorem State.nextSerial_sealOut (s : State)  : (s.nextSerial.2).sealOut = s.sealOut := rfl
@[simp] theorem State.nextSerial_discarded (s : State)  : (s.nextSerial.2).discarded = s.discarded := rfl
@[simp] theorem State.nextSerial_victims (s : State)  : (s.nextSerial.2).victims = s.victims := rfl
@[simp] theorem State.nextSerial_incoming (s : State)  : (s.nextSerial.2).incoming = s.incoming := rfl
@[simp] theorem State.nextSerial_inputs (s : State)  : (s.nextSerial.2).inputs = s.inputs := rfl
@[simp] theorem State.nextSerial_agenda (s : State)  : (s.nextSerial.2).agenda = s.agenda := rfl
@[simp] theorem State.nextSerial_ctx (s : State)  : (s.nextSerial.2).ctx = s.ctx := rfl
@[simp] theorem State.nextSerial_clock (s : State)  : (s.nextSerial.2).clock = s.clock := rfl
@[simp] theorem State.nextSerial_fresh (s : State)  : (s.nextSerial.2).fresh = s.fresh := rfl

/-! Results of a slot, where the register may be s0. -/

@[simp] theorem State.resultS_gals (s : State) (lat n : Nat) (v : Word) : (s.resultS lat n v).gals = s.gals := by unfold State.resultS; split <;> rfl
@[simp] theorem State.resultS_halls (s : State) (lat n : Nat) (v : Word) : (s.resultS lat n v).halls = s.halls := by unfold State.resultS; split <;> rfl
@[simp] theorem State.resultS_hbm (s : State) (lat n : Nat) (v : Word) : (s.resultS lat n v).hbm = s.hbm := by unfold State.resultS; split <;> rfl
@[simp] theorem State.resultS_sectors (s : State) (lat n : Nat) (v : Word) : (s.resultS lat n v).sectors = s.sectors := by unfold State.resultS; split <;> rfl
@[simp] theorem State.resultS_hostMem (s : State) (lat n : Nat) (v : Word) : (s.resultS lat n v).hostMem = s.hostMem := by unfold State.resultS; split <;> rfl
@[simp] theorem State.resultS_hostTags (s : State) (lat n : Nat) (v : Word) : (s.resultS lat n v).hostTags = s.hostTags := by unfold State.resultS; split <;> rfl
@[simp] theorem State.resultS_keys (s : State) (lat n : Nat) (v : Word) : (s.resultS lat n v).keys = s.keys := by unfold State.resultS; split <;> rfl
@[simp] theorem State.resultS_jobs (s : State) (lat n : Nat) (v : Word) : (s.resultS lat n v).jobs = s.jobs := by unfold State.resultS; split <;> rfl
@[simp] theorem State.resultS_tasks (s : State) (lat n : Nat) (v : Word) : (s.resultS lat n v).tasks = s.tasks := by unfold State.resultS; split <;> rfl
@[simp] theorem State.resultS_graphs (s : State) (lat n : Nat) (v : Word) : (s.resultS lat n v).graphs = s.graphs := by unfold State.resultS; split <;> rfl
@[simp] theorem State.resultS_foyer (s : State) (lat n : Nat) (v : Word) : (s.resultS lat n v).foyer = s.foyer := by unfold State.resultS; split <;> rfl
@[simp] theorem State.resultS_waiting (s : State) (lat n : Nat) (v : Word) : (s.resultS lat n v).waiting = s.waiting := by unfold State.resultS; split <;> rfl
@[simp] theorem State.resultS_admitted (s : State) (lat n : Nat) (v : Word) : (s.resultS lat n v).admitted = s.admitted := by unfold State.resultS; split <;> rfl
@[simp] theorem State.resultS_launches (s : State) (lat n : Nat) (v : Word) : (s.resultS lat n v).launches = s.launches := by unfold State.resultS; split <;> rfl
@[simp] theorem State.resultS_preempts (s : State) (lat n : Nat) (v : Word) : (s.resultS lat n v).preempts = s.preempts := by unfold State.resultS; split <;> rfl
@[simp] theorem State.resultS_mail (s : State) (lat n : Nat) (v : Word) : (s.resultS lat n v).mail = s.mail := by unfold State.resultS; split <;> rfl
@[simp] theorem State.resultS_box (s : State) (lat n : Nat) (v : Word) : (s.resultS lat n v).box = s.box := by unfold State.resultS; split <;> rfl
@[simp] theorem State.resultS_sessions (s : State) (lat n : Nat) (v : Word) : (s.resultS lat n v).sessions = s.sessions := by unfold State.resultS; split <;> rfl
@[simp] theorem State.resultS_log (s : State) (lat n : Nat) (v : Word) : (s.resultS lat n v).log = s.log := by unfold State.resultS; split <;> rfl
@[simp] theorem State.resultS_ownerLog (s : State) (lat n : Nat) (v : Word) : (s.resultS lat n v).ownerLog = s.ownerLog := by unfold State.resultS; split <;> rfl
@[simp] theorem State.resultS_seq (s : State) (lat n : Nat) (v : Word) : (s.resultS lat n v).seq = s.seq := by unfold State.resultS; split <;> rfl
@[simp] theorem State.resultS_corrected (s : State) (lat n : Nat) (v : Word) : (s.resultS lat n v).corrected = s.corrected := by unfold State.resultS; split <;> rfl
@[simp] theorem State.resultS_sramue (s : State) (lat n : Nat) (v : Word) : (s.resultS lat n v).sramue = s.sramue := by unfold State.resultS; split <;> rfl
@[simp] theorem State.resultS_lockMis (s : State) (lat n : Nat) (v : Word) : (s.resultS lat n v).lockMis = s.lockMis := by unfold State.resultS; split <;> rfl
@[simp] theorem State.resultS_msix (s : State) (lat n : Nat) (v : Word) : (s.resultS lat n v).msix = s.msix := by unfold State.resultS; split <;> rfl
@[simp] theorem State.resultS_msixPend (s : State) (lat n : Nat) (v : Word) : (s.resultS lat n v).msixPend = s.msixPend := by unfold State.resultS; split <;> rfl
@[simp] theorem State.resultS_host (s : State) (lat n : Nat) (v : Word) : (s.resultS lat n v).host = s.host := by unfold State.resultS; split <;> rfl
@[simp] theorem State.resultS_ports (s : State) (lat n : Nat) (v : Word) : (s.resultS lat n v).ports = s.ports := by unfold State.resultS; split <;> rfl
@[simp] theorem State.resultS_sentSeq (s : State) (lat n : Nat) (v : Word) : (s.resultS lat n v).sentSeq = s.sentSeq := by unfold State.resultS; split <;> rfl
@[simp] theorem State.resultS_recvSeq (s : State) (lat n : Nat) (v : Word) : (s.resultS lat n v).recvSeq = s.recvSeq := by unfold State.resultS; split <;> rfl
@[simp] theorem State.resultS_early (s : State) (lat n : Nat) (v : Word) : (s.resultS lat n v).early = s.early := by unfold State.resultS; split <;> rfl
@[simp] theorem State.resultS_out (s : State) (lat n : Nat) (v : Word) : (s.resultS lat n v).out = s.out := by unfold State.resultS; split <;> rfl
@[simp] theorem State.resultS_lateral (s : State) (lat n : Nat) (v : Word) : (s.resultS lat n v).lateral = s.lateral := by unfold State.resultS; split <;> rfl
@[simp] theorem State.resultS_queued (s : State) (lat n : Nat) (v : Word) : (s.resultS lat n v).queued = s.queued := by unfold State.resultS; split <;> rfl
@[simp] theorem State.resultS_spill (s : State) (lat n : Nat) (v : Word) : (s.resultS lat n v).spill = s.spill := by unfold State.resultS; split <;> rfl
@[simp] theorem State.resultS_unacked (s : State) (lat n : Nat) (v : Word) : (s.resultS lat n v).unacked = s.unacked := by unfold State.resultS; split <;> rfl
@[simp] theorem State.resultS_replies (s : State) (lat n : Nat) (v : Word) : (s.resultS lat n v).replies = s.replies := by unfold State.resultS; split <;> rfl
@[simp] theorem State.resultS_asked (s : State) (lat n : Nat) (v : Word) : (s.resultS lat n v).asked = s.asked := by unfold State.resultS; split <;> rfl
@[simp] theorem State.resultS_retired (s : State) (lat n : Nat) (v : Word) : (s.resultS lat n v).retired = s.retired := by unfold State.resultS; split <;> rfl
@[simp] theorem State.resultS_saves (s : State) (lat n : Nat) (v : Word) : (s.resultS lat n v).saves = s.saves := by unfold State.resultS; split <;> rfl
@[simp] theorem State.resultS_saveVaults (s : State) (lat n : Nat) (v : Word) : (s.resultS lat n v).saveVaults = s.saveVaults := by unfold State.resultS; split <;> rfl
@[simp] theorem State.resultS_hostOut (s : State) (lat n : Nat) (v : Word) : (s.resultS lat n v).hostOut = s.hostOut := by unfold State.resultS; split <;> rfl
@[simp] theorem State.resultS_hostFails (s : State) (lat n : Nat) (v : Word) : (s.resultS lat n v).hostFails = s.hostFails := by unfold State.resultS; split <;> rfl
@[simp] theorem State.resultS_heldIo (s : State) (lat n : Nat) (v : Word) : (s.resultS lat n v).heldIo = s.heldIo := by unfold State.resultS; split <;> rfl
@[simp] theorem State.resultS_traces (s : State) (lat n : Nat) (v : Word) : (s.resultS lat n v).traces = s.traces := by unfold State.resultS; split <;> rfl
@[simp] theorem State.resultS_driverTraces (s : State) (lat n : Nat) (v : Word) : (s.resultS lat n v).driverTraces = s.driverTraces := by unfold State.resultS; split <;> rfl
@[simp] theorem State.resultS_ownerTraces (s : State) (lat n : Nat) (v : Word) : (s.resultS lat n v).ownerTraces = s.ownerTraces := by unfold State.resultS; split <;> rfl
@[simp] theorem State.resultS_heldDebug (s : State) (lat n : Nat) (v : Word) : (s.resultS lat n v).heldDebug = s.heldDebug := by unfold State.resultS; split <;> rfl
@[simp] theorem State.resultS_imports (s : State) (lat n : Nat) (v : Word) : (s.resultS lat n v).imports = s.imports := by unfold State.resultS; split <;> rfl
@[simp] theorem State.resultS_sealOut (s : State) (lat n : Nat) (v : Word) : (s.resultS lat n v).sealOut = s.sealOut := by unfold State.resultS; split <;> rfl
@[simp] theorem State.resultS_discarded (s : State) (lat n : Nat) (v : Word) : (s.resultS lat n v).discarded = s.discarded := by unfold State.resultS; split <;> rfl
@[simp] theorem State.resultS_victims (s : State) (lat n : Nat) (v : Word) : (s.resultS lat n v).victims = s.victims := by unfold State.resultS; split <;> rfl
@[simp] theorem State.resultS_incoming (s : State) (lat n : Nat) (v : Word) : (s.resultS lat n v).incoming = s.incoming := by unfold State.resultS; split <;> rfl
@[simp] theorem State.resultS_inputs (s : State) (lat n : Nat) (v : Word) : (s.resultS lat n v).inputs = s.inputs := by unfold State.resultS; split <;> rfl
@[simp] theorem State.resultS_agenda (s : State) (lat n : Nat) (v : Word) : (s.resultS lat n v).agenda = s.agenda := by unfold State.resultS; split <;> rfl
@[simp] theorem State.resultS_ctx (s : State) (lat n : Nat) (v : Word) : (s.resultS lat n v).ctx = s.ctx := by unfold State.resultS; split <;> rfl
@[simp] theorem State.resultS_clock (s : State) (lat n : Nat) (v : Word) : (s.resultS lat n v).clock = s.clock := by unfold State.resultS; split <;> rfl
@[simp] theorem State.resultS_fresh (s : State) (lat n : Nat) (v : Word) : (s.resultS lat n v).fresh = s.fresh := by unfold State.resultS; split <;> rfl
@[simp] theorem State.resultS_serial (s : State) (lat n : Nat) (v : Word) : (s.resultS lat n v).serial = s.serial := by unfold State.resultS; split <;> rfl

@[simp] theorem State.resultX_gals (s : State) (lat : Nat) (d : Dest) (v : Vec) (po : Word) : (s.resultX lat d v po).gals = s.gals := by unfold State.resultX; split <;> rfl
@[simp] theorem State.resultX_halls (s : State) (lat : Nat) (d : Dest) (v : Vec) (po : Word) : (s.resultX lat d v po).halls = s.halls := by unfold State.resultX; split <;> rfl
@[simp] theorem State.resultX_hbm (s : State) (lat : Nat) (d : Dest) (v : Vec) (po : Word) : (s.resultX lat d v po).hbm = s.hbm := by unfold State.resultX; split <;> rfl
@[simp] theorem State.resultX_sectors (s : State) (lat : Nat) (d : Dest) (v : Vec) (po : Word) : (s.resultX lat d v po).sectors = s.sectors := by unfold State.resultX; split <;> rfl
@[simp] theorem State.resultX_hostMem (s : State) (lat : Nat) (d : Dest) (v : Vec) (po : Word) : (s.resultX lat d v po).hostMem = s.hostMem := by unfold State.resultX; split <;> rfl
@[simp] theorem State.resultX_hostTags (s : State) (lat : Nat) (d : Dest) (v : Vec) (po : Word) : (s.resultX lat d v po).hostTags = s.hostTags := by unfold State.resultX; split <;> rfl
@[simp] theorem State.resultX_keys (s : State) (lat : Nat) (d : Dest) (v : Vec) (po : Word) : (s.resultX lat d v po).keys = s.keys := by unfold State.resultX; split <;> rfl
@[simp] theorem State.resultX_jobs (s : State) (lat : Nat) (d : Dest) (v : Vec) (po : Word) : (s.resultX lat d v po).jobs = s.jobs := by unfold State.resultX; split <;> rfl
@[simp] theorem State.resultX_tasks (s : State) (lat : Nat) (d : Dest) (v : Vec) (po : Word) : (s.resultX lat d v po).tasks = s.tasks := by unfold State.resultX; split <;> rfl
@[simp] theorem State.resultX_graphs (s : State) (lat : Nat) (d : Dest) (v : Vec) (po : Word) : (s.resultX lat d v po).graphs = s.graphs := by unfold State.resultX; split <;> rfl
@[simp] theorem State.resultX_foyer (s : State) (lat : Nat) (d : Dest) (v : Vec) (po : Word) : (s.resultX lat d v po).foyer = s.foyer := by unfold State.resultX; split <;> rfl
@[simp] theorem State.resultX_waiting (s : State) (lat : Nat) (d : Dest) (v : Vec) (po : Word) : (s.resultX lat d v po).waiting = s.waiting := by unfold State.resultX; split <;> rfl
@[simp] theorem State.resultX_admitted (s : State) (lat : Nat) (d : Dest) (v : Vec) (po : Word) : (s.resultX lat d v po).admitted = s.admitted := by unfold State.resultX; split <;> rfl
@[simp] theorem State.resultX_launches (s : State) (lat : Nat) (d : Dest) (v : Vec) (po : Word) : (s.resultX lat d v po).launches = s.launches := by unfold State.resultX; split <;> rfl
@[simp] theorem State.resultX_preempts (s : State) (lat : Nat) (d : Dest) (v : Vec) (po : Word) : (s.resultX lat d v po).preempts = s.preempts := by unfold State.resultX; split <;> rfl
@[simp] theorem State.resultX_mail (s : State) (lat : Nat) (d : Dest) (v : Vec) (po : Word) : (s.resultX lat d v po).mail = s.mail := by unfold State.resultX; split <;> rfl
@[simp] theorem State.resultX_box (s : State) (lat : Nat) (d : Dest) (v : Vec) (po : Word) : (s.resultX lat d v po).box = s.box := by unfold State.resultX; split <;> rfl
@[simp] theorem State.resultX_sessions (s : State) (lat : Nat) (d : Dest) (v : Vec) (po : Word) : (s.resultX lat d v po).sessions = s.sessions := by unfold State.resultX; split <;> rfl
@[simp] theorem State.resultX_log (s : State) (lat : Nat) (d : Dest) (v : Vec) (po : Word) : (s.resultX lat d v po).log = s.log := by unfold State.resultX; split <;> rfl
@[simp] theorem State.resultX_ownerLog (s : State) (lat : Nat) (d : Dest) (v : Vec) (po : Word) : (s.resultX lat d v po).ownerLog = s.ownerLog := by unfold State.resultX; split <;> rfl
@[simp] theorem State.resultX_seq (s : State) (lat : Nat) (d : Dest) (v : Vec) (po : Word) : (s.resultX lat d v po).seq = s.seq := by unfold State.resultX; split <;> rfl
@[simp] theorem State.resultX_corrected (s : State) (lat : Nat) (d : Dest) (v : Vec) (po : Word) : (s.resultX lat d v po).corrected = s.corrected := by unfold State.resultX; split <;> rfl
@[simp] theorem State.resultX_sramue (s : State) (lat : Nat) (d : Dest) (v : Vec) (po : Word) : (s.resultX lat d v po).sramue = s.sramue := by unfold State.resultX; split <;> rfl
@[simp] theorem State.resultX_lockMis (s : State) (lat : Nat) (d : Dest) (v : Vec) (po : Word) : (s.resultX lat d v po).lockMis = s.lockMis := by unfold State.resultX; split <;> rfl
@[simp] theorem State.resultX_msix (s : State) (lat : Nat) (d : Dest) (v : Vec) (po : Word) : (s.resultX lat d v po).msix = s.msix := by unfold State.resultX; split <;> rfl
@[simp] theorem State.resultX_msixPend (s : State) (lat : Nat) (d : Dest) (v : Vec) (po : Word) : (s.resultX lat d v po).msixPend = s.msixPend := by unfold State.resultX; split <;> rfl
@[simp] theorem State.resultX_host (s : State) (lat : Nat) (d : Dest) (v : Vec) (po : Word) : (s.resultX lat d v po).host = s.host := by unfold State.resultX; split <;> rfl
@[simp] theorem State.resultX_ports (s : State) (lat : Nat) (d : Dest) (v : Vec) (po : Word) : (s.resultX lat d v po).ports = s.ports := by unfold State.resultX; split <;> rfl
@[simp] theorem State.resultX_sentSeq (s : State) (lat : Nat) (d : Dest) (v : Vec) (po : Word) : (s.resultX lat d v po).sentSeq = s.sentSeq := by unfold State.resultX; split <;> rfl
@[simp] theorem State.resultX_recvSeq (s : State) (lat : Nat) (d : Dest) (v : Vec) (po : Word) : (s.resultX lat d v po).recvSeq = s.recvSeq := by unfold State.resultX; split <;> rfl
@[simp] theorem State.resultX_early (s : State) (lat : Nat) (d : Dest) (v : Vec) (po : Word) : (s.resultX lat d v po).early = s.early := by unfold State.resultX; split <;> rfl
@[simp] theorem State.resultX_out (s : State) (lat : Nat) (d : Dest) (v : Vec) (po : Word) : (s.resultX lat d v po).out = s.out := by unfold State.resultX; split <;> rfl
@[simp] theorem State.resultX_lateral (s : State) (lat : Nat) (d : Dest) (v : Vec) (po : Word) : (s.resultX lat d v po).lateral = s.lateral := by unfold State.resultX; split <;> rfl
@[simp] theorem State.resultX_queued (s : State) (lat : Nat) (d : Dest) (v : Vec) (po : Word) : (s.resultX lat d v po).queued = s.queued := by unfold State.resultX; split <;> rfl
@[simp] theorem State.resultX_spill (s : State) (lat : Nat) (d : Dest) (v : Vec) (po : Word) : (s.resultX lat d v po).spill = s.spill := by unfold State.resultX; split <;> rfl
@[simp] theorem State.resultX_unacked (s : State) (lat : Nat) (d : Dest) (v : Vec) (po : Word) : (s.resultX lat d v po).unacked = s.unacked := by unfold State.resultX; split <;> rfl
@[simp] theorem State.resultX_replies (s : State) (lat : Nat) (d : Dest) (v : Vec) (po : Word) : (s.resultX lat d v po).replies = s.replies := by unfold State.resultX; split <;> rfl
@[simp] theorem State.resultX_asked (s : State) (lat : Nat) (d : Dest) (v : Vec) (po : Word) : (s.resultX lat d v po).asked = s.asked := by unfold State.resultX; split <;> rfl
@[simp] theorem State.resultX_retired (s : State) (lat : Nat) (d : Dest) (v : Vec) (po : Word) : (s.resultX lat d v po).retired = s.retired := by unfold State.resultX; split <;> rfl
@[simp] theorem State.resultX_saves (s : State) (lat : Nat) (d : Dest) (v : Vec) (po : Word) : (s.resultX lat d v po).saves = s.saves := by unfold State.resultX; split <;> rfl
@[simp] theorem State.resultX_saveVaults (s : State) (lat : Nat) (d : Dest) (v : Vec) (po : Word) : (s.resultX lat d v po).saveVaults = s.saveVaults := by unfold State.resultX; split <;> rfl
@[simp] theorem State.resultX_hostOut (s : State) (lat : Nat) (d : Dest) (v : Vec) (po : Word) : (s.resultX lat d v po).hostOut = s.hostOut := by unfold State.resultX; split <;> rfl
@[simp] theorem State.resultX_hostFails (s : State) (lat : Nat) (d : Dest) (v : Vec) (po : Word) : (s.resultX lat d v po).hostFails = s.hostFails := by unfold State.resultX; split <;> rfl
@[simp] theorem State.resultX_heldIo (s : State) (lat : Nat) (d : Dest) (v : Vec) (po : Word) : (s.resultX lat d v po).heldIo = s.heldIo := by unfold State.resultX; split <;> rfl
@[simp] theorem State.resultX_traces (s : State) (lat : Nat) (d : Dest) (v : Vec) (po : Word) : (s.resultX lat d v po).traces = s.traces := by unfold State.resultX; split <;> rfl
@[simp] theorem State.resultX_driverTraces (s : State) (lat : Nat) (d : Dest) (v : Vec) (po : Word) : (s.resultX lat d v po).driverTraces = s.driverTraces := by unfold State.resultX; split <;> rfl
@[simp] theorem State.resultX_ownerTraces (s : State) (lat : Nat) (d : Dest) (v : Vec) (po : Word) : (s.resultX lat d v po).ownerTraces = s.ownerTraces := by unfold State.resultX; split <;> rfl
@[simp] theorem State.resultX_heldDebug (s : State) (lat : Nat) (d : Dest) (v : Vec) (po : Word) : (s.resultX lat d v po).heldDebug = s.heldDebug := by unfold State.resultX; split <;> rfl
@[simp] theorem State.resultX_imports (s : State) (lat : Nat) (d : Dest) (v : Vec) (po : Word) : (s.resultX lat d v po).imports = s.imports := by unfold State.resultX; split <;> rfl
@[simp] theorem State.resultX_sealOut (s : State) (lat : Nat) (d : Dest) (v : Vec) (po : Word) : (s.resultX lat d v po).sealOut = s.sealOut := by unfold State.resultX; split <;> rfl
@[simp] theorem State.resultX_discarded (s : State) (lat : Nat) (d : Dest) (v : Vec) (po : Word) : (s.resultX lat d v po).discarded = s.discarded := by unfold State.resultX; split <;> rfl
@[simp] theorem State.resultX_victims (s : State) (lat : Nat) (d : Dest) (v : Vec) (po : Word) : (s.resultX lat d v po).victims = s.victims := by unfold State.resultX; split <;> rfl
@[simp] theorem State.resultX_incoming (s : State) (lat : Nat) (d : Dest) (v : Vec) (po : Word) : (s.resultX lat d v po).incoming = s.incoming := by unfold State.resultX; split <;> rfl
@[simp] theorem State.resultX_inputs (s : State) (lat : Nat) (d : Dest) (v : Vec) (po : Word) : (s.resultX lat d v po).inputs = s.inputs := by unfold State.resultX; split <;> rfl
@[simp] theorem State.resultX_agenda (s : State) (lat : Nat) (d : Dest) (v : Vec) (po : Word) : (s.resultX lat d v po).agenda = s.agenda := by unfold State.resultX; split <;> rfl
@[simp] theorem State.resultX_ctx (s : State) (lat : Nat) (d : Dest) (v : Vec) (po : Word) : (s.resultX lat d v po).ctx = s.ctx := by unfold State.resultX; split <;> rfl
@[simp] theorem State.resultX_clock (s : State) (lat : Nat) (d : Dest) (v : Vec) (po : Word) : (s.resultX lat d v po).clock = s.clock := by unfold State.resultX; split <;> rfl
@[simp] theorem State.resultX_fresh (s : State) (lat : Nat) (d : Dest) (v : Vec) (po : Word) : (s.resultX lat d v po).fresh = s.fresh := by unfold State.resultX; split <;> rfl
@[simp] theorem State.resultX_serial (s : State) (lat : Nat) (d : Dest) (v : Vec) (po : Word) : (s.resultX lat d v po).serial = s.serial := by unfold State.resultX; split <;> rfl

@[simp] theorem State.resultP_gals (s : State) (lat n : Nat) (v m : Word) : (s.resultP lat n v m).gals = s.gals := rfl
@[simp] theorem State.resultP_halls (s : State) (lat n : Nat) (v m : Word) : (s.resultP lat n v m).halls = s.halls := rfl
@[simp] theorem State.resultP_hbm (s : State) (lat n : Nat) (v m : Word) : (s.resultP lat n v m).hbm = s.hbm := rfl
@[simp] theorem State.resultP_sectors (s : State) (lat n : Nat) (v m : Word) : (s.resultP lat n v m).sectors = s.sectors := rfl
@[simp] theorem State.resultP_hostMem (s : State) (lat n : Nat) (v m : Word) : (s.resultP lat n v m).hostMem = s.hostMem := rfl
@[simp] theorem State.resultP_hostTags (s : State) (lat n : Nat) (v m : Word) : (s.resultP lat n v m).hostTags = s.hostTags := rfl
@[simp] theorem State.resultP_keys (s : State) (lat n : Nat) (v m : Word) : (s.resultP lat n v m).keys = s.keys := rfl
@[simp] theorem State.resultP_jobs (s : State) (lat n : Nat) (v m : Word) : (s.resultP lat n v m).jobs = s.jobs := rfl
@[simp] theorem State.resultP_tasks (s : State) (lat n : Nat) (v m : Word) : (s.resultP lat n v m).tasks = s.tasks := rfl
@[simp] theorem State.resultP_graphs (s : State) (lat n : Nat) (v m : Word) : (s.resultP lat n v m).graphs = s.graphs := rfl
@[simp] theorem State.resultP_foyer (s : State) (lat n : Nat) (v m : Word) : (s.resultP lat n v m).foyer = s.foyer := rfl
@[simp] theorem State.resultP_waiting (s : State) (lat n : Nat) (v m : Word) : (s.resultP lat n v m).waiting = s.waiting := rfl
@[simp] theorem State.resultP_admitted (s : State) (lat n : Nat) (v m : Word) : (s.resultP lat n v m).admitted = s.admitted := rfl
@[simp] theorem State.resultP_launches (s : State) (lat n : Nat) (v m : Word) : (s.resultP lat n v m).launches = s.launches := rfl
@[simp] theorem State.resultP_preempts (s : State) (lat n : Nat) (v m : Word) : (s.resultP lat n v m).preempts = s.preempts := rfl
@[simp] theorem State.resultP_mail (s : State) (lat n : Nat) (v m : Word) : (s.resultP lat n v m).mail = s.mail := rfl
@[simp] theorem State.resultP_box (s : State) (lat n : Nat) (v m : Word) : (s.resultP lat n v m).box = s.box := rfl
@[simp] theorem State.resultP_sessions (s : State) (lat n : Nat) (v m : Word) : (s.resultP lat n v m).sessions = s.sessions := rfl
@[simp] theorem State.resultP_log (s : State) (lat n : Nat) (v m : Word) : (s.resultP lat n v m).log = s.log := rfl
@[simp] theorem State.resultP_ownerLog (s : State) (lat n : Nat) (v m : Word) : (s.resultP lat n v m).ownerLog = s.ownerLog := rfl
@[simp] theorem State.resultP_seq (s : State) (lat n : Nat) (v m : Word) : (s.resultP lat n v m).seq = s.seq := rfl
@[simp] theorem State.resultP_corrected (s : State) (lat n : Nat) (v m : Word) : (s.resultP lat n v m).corrected = s.corrected := rfl
@[simp] theorem State.resultP_sramue (s : State) (lat n : Nat) (v m : Word) : (s.resultP lat n v m).sramue = s.sramue := rfl
@[simp] theorem State.resultP_lockMis (s : State) (lat n : Nat) (v m : Word) : (s.resultP lat n v m).lockMis = s.lockMis := rfl
@[simp] theorem State.resultP_msix (s : State) (lat n : Nat) (v m : Word) : (s.resultP lat n v m).msix = s.msix := rfl
@[simp] theorem State.resultP_msixPend (s : State) (lat n : Nat) (v m : Word) : (s.resultP lat n v m).msixPend = s.msixPend := rfl
@[simp] theorem State.resultP_host (s : State) (lat n : Nat) (v m : Word) : (s.resultP lat n v m).host = s.host := rfl
@[simp] theorem State.resultP_ports (s : State) (lat n : Nat) (v m : Word) : (s.resultP lat n v m).ports = s.ports := rfl
@[simp] theorem State.resultP_sentSeq (s : State) (lat n : Nat) (v m : Word) : (s.resultP lat n v m).sentSeq = s.sentSeq := rfl
@[simp] theorem State.resultP_recvSeq (s : State) (lat n : Nat) (v m : Word) : (s.resultP lat n v m).recvSeq = s.recvSeq := rfl
@[simp] theorem State.resultP_early (s : State) (lat n : Nat) (v m : Word) : (s.resultP lat n v m).early = s.early := rfl
@[simp] theorem State.resultP_out (s : State) (lat n : Nat) (v m : Word) : (s.resultP lat n v m).out = s.out := rfl
@[simp] theorem State.resultP_lateral (s : State) (lat n : Nat) (v m : Word) : (s.resultP lat n v m).lateral = s.lateral := rfl
@[simp] theorem State.resultP_queued (s : State) (lat n : Nat) (v m : Word) : (s.resultP lat n v m).queued = s.queued := rfl
@[simp] theorem State.resultP_spill (s : State) (lat n : Nat) (v m : Word) : (s.resultP lat n v m).spill = s.spill := rfl
@[simp] theorem State.resultP_unacked (s : State) (lat n : Nat) (v m : Word) : (s.resultP lat n v m).unacked = s.unacked := rfl
@[simp] theorem State.resultP_replies (s : State) (lat n : Nat) (v m : Word) : (s.resultP lat n v m).replies = s.replies := rfl
@[simp] theorem State.resultP_asked (s : State) (lat n : Nat) (v m : Word) : (s.resultP lat n v m).asked = s.asked := rfl
@[simp] theorem State.resultP_retired (s : State) (lat n : Nat) (v m : Word) : (s.resultP lat n v m).retired = s.retired := rfl
@[simp] theorem State.resultP_saves (s : State) (lat n : Nat) (v m : Word) : (s.resultP lat n v m).saves = s.saves := rfl
@[simp] theorem State.resultP_saveVaults (s : State) (lat n : Nat) (v m : Word) : (s.resultP lat n v m).saveVaults = s.saveVaults := rfl
@[simp] theorem State.resultP_hostOut (s : State) (lat n : Nat) (v m : Word) : (s.resultP lat n v m).hostOut = s.hostOut := rfl
@[simp] theorem State.resultP_hostFails (s : State) (lat n : Nat) (v m : Word) : (s.resultP lat n v m).hostFails = s.hostFails := rfl
@[simp] theorem State.resultP_heldIo (s : State) (lat n : Nat) (v m : Word) : (s.resultP lat n v m).heldIo = s.heldIo := rfl
@[simp] theorem State.resultP_traces (s : State) (lat n : Nat) (v m : Word) : (s.resultP lat n v m).traces = s.traces := rfl
@[simp] theorem State.resultP_driverTraces (s : State) (lat n : Nat) (v m : Word) : (s.resultP lat n v m).driverTraces = s.driverTraces := rfl
@[simp] theorem State.resultP_ownerTraces (s : State) (lat n : Nat) (v m : Word) : (s.resultP lat n v m).ownerTraces = s.ownerTraces := rfl
@[simp] theorem State.resultP_heldDebug (s : State) (lat n : Nat) (v m : Word) : (s.resultP lat n v m).heldDebug = s.heldDebug := rfl
@[simp] theorem State.resultP_imports (s : State) (lat n : Nat) (v m : Word) : (s.resultP lat n v m).imports = s.imports := rfl
@[simp] theorem State.resultP_sealOut (s : State) (lat n : Nat) (v m : Word) : (s.resultP lat n v m).sealOut = s.sealOut := rfl
@[simp] theorem State.resultP_discarded (s : State) (lat n : Nat) (v m : Word) : (s.resultP lat n v m).discarded = s.discarded := rfl
@[simp] theorem State.resultP_victims (s : State) (lat n : Nat) (v m : Word) : (s.resultP lat n v m).victims = s.victims := rfl
@[simp] theorem State.resultP_incoming (s : State) (lat n : Nat) (v m : Word) : (s.resultP lat n v m).incoming = s.incoming := rfl
@[simp] theorem State.resultP_inputs (s : State) (lat n : Nat) (v m : Word) : (s.resultP lat n v m).inputs = s.inputs := rfl
@[simp] theorem State.resultP_agenda (s : State) (lat n : Nat) (v m : Word) : (s.resultP lat n v m).agenda = s.agenda := rfl
@[simp] theorem State.resultP_ctx (s : State) (lat n : Nat) (v m : Word) : (s.resultP lat n v m).ctx = s.ctx := rfl
@[simp] theorem State.resultP_clock (s : State) (lat n : Nat) (v m : Word) : (s.resultP lat n v m).clock = s.clock := rfl
@[simp] theorem State.resultP_fresh (s : State) (lat n : Nat) (v m : Word) : (s.resultP lat n v m).fresh = s.fresh := rfl
@[simp] theorem State.resultP_serial (s : State) (lat n : Nat) (v m : Word) : (s.resultP lat n v m).serial = s.serial := rfl

/-! A core. -/

@[simp] theorem Core.push_placed (k : Core) (p : Pend) : (k.push p).placed = k.placed := rfl
@[simp] theorem Core.push_startAt (k : Core) (p : Pend) : (k.push p).startAt = k.startAt := rfl
@[simp] theorem Core.push_started (k : Core) (p : Pend) : (k.push p).started = k.started := rfl
@[simp] theorem Core.push_ran (k : Core) (p : Pend) : (k.push p).ran = k.ran := rfl
@[simp] theorem Core.push_task (k : Core) (p : Pend) : (k.push p).task = k.task := rfl
@[simp] theorem Core.push_seat (k : Core) (p : Pend) : (k.push p).seat = k.seat := rfl
@[simp] theorem Core.push_nseats (k : Core) (p : Pend) : (k.push p).nseats = k.nseats := rfl
@[simp] theorem Core.push_job (k : Core) (p : Pend) : (k.push p).job = k.job := rfl
@[simp] theorem Core.push_taskid (k : Core) (p : Pend) : (k.push p).taskid = k.taskid := rfl
@[simp] theorem Core.push_world (k : Core) (p : Pend) : (k.push p).world = k.world := rfl
@[simp] theorem Core.push_gen (k : Core) (p : Pend) : (k.push p).gen = k.gen := rfl
@[simp] theorem Core.push_lock (k : Core) (p : Pend) : (k.push p).lock = k.lock := rfl
@[simp] theorem Core.push_debug (k : Core) (p : Pend) : (k.push p).debug = k.debug := rfl
@[simp] theorem Core.push_rf (k : Core) (p : Pend) : (k.push p).rf = k.rf := rfl
@[simp] theorem Core.push_dom (k : Core) (p : Pend) : (k.push p).dom = k.dom := rfl
@[simp] theorem Core.push_phase (k : Core) (p : Pend) : (k.push p).phase = k.phase := rfl
@[simp] theorem Core.push_cyc (k : Core) (p : Pend) : (k.push p).cyc = k.cyc := rfl
@[simp] theorem Core.push_frz (k : Core) (p : Pend) : (k.push p).frz = k.frz := rfl
@[simp] theorem Core.push_resume (k : Core) (p : Pend) : (k.push p).resume = k.resume := rfl
@[simp] theorem Core.push_repleft (k : Core) (p : Pend) : (k.push p).repleft = k.repleft := rfl
@[simp] theorem Core.push_frzcause (k : Core) (p : Pend) : (k.push p).frzcause = k.frzcause := rfl
@[simp] theorem Core.push_rgd (k : Core) (p : Pend) : (k.push p).rgd = k.rgd := rfl
@[simp] theorem Core.push_feat (k : Core) (p : Pend) : (k.push p).feat = k.feat := rfl
@[simp] theorem Core.push_srg (k : Core) (p : Pend) : (k.push p).srg = k.srg := rfl
@[simp] theorem Core.push_flags (k : Core) (p : Pend) : (k.push p).flags = k.flags := rfl
@[simp] theorem Core.push_flagBuf (k : Core) (p : Pend) : (k.push p).flagBuf = k.flagBuf := rfl
@[simp] theorem Core.push_tiles (k : Core) (p : Pend) : (k.push p).tiles = k.tiles := rfl
@[simp] theorem Core.push_tilePoison (k : Core) (p : Pend) : (k.push p).tilePoison = k.tilePoison := rfl
@[simp] theorem Core.push_tileBusy (k : Core) (p : Pend) : (k.push p).tileBusy = k.tileBusy := rfl
@[simp] theorem Core.push_tileClear (k : Core) (p : Pend) : (k.push p).tileClear = k.tileClear := rfl
@[simp] theorem Core.push_poisonClear (k : Core) (p : Pend) : (k.push p).poisonClear = k.poisonClear := rfl
@[simp] theorem Core.push_rolling (k : Core) (p : Pend) : (k.push p).rolling = k.rolling := rfl
@[simp] theorem Core.push_xpWr (k : Core) (p : Pend) : (k.push p).xpWr = k.xpWr := rfl
@[simp] theorem Core.push_xpRd (k : Core) (p : Pend) : (k.push p).xpRd = k.xpRd := rfl
@[simp] theorem Core.push_xpBank (k : Core) (p : Pend) : (k.push p).xpBank = k.xpBank := rfl
@[simp] theorem Core.push_xpose (k : Core) (p : Pend) : (k.push p).xpose = k.xpose := rfl
@[simp] theorem Core.push_dq (k : Core) (p : Pend) : (k.push p).dq = k.dq := rfl
@[simp] theorem Core.push_dqRetained (k : Core) (p : Pend) : (k.push p).dqRetained = k.dqRetained := rfl
@[simp] theorem Core.push_landing (k : Core) (p : Pend) : (k.push p).landing = k.landing := rfl
@[simp] theorem Core.push_sticky (k : Core) (p : Pend) : (k.push p).sticky = k.sticky := rfl
@[simp] theorem Core.push_pc (k : Core) (p : Pend) : (k.push p).pc = k.pc := rfl
@[simp] theorem Core.push_rep (k : Core) (p : Pend) : (k.push p).rep = k.rep := rfl
@[simp] theorem Core.push_count (k : Core) (p : Pend) : (k.push p).count = k.count := rfl
@[simp] theorem Core.push_nextIssue (k : Core) (p : Pend) : (k.push p).nextIssue = k.nextIssue := rfl
@[simp] theorem Core.push_latched (k : Core) (p : Pend) : (k.push p).latched = k.latched := rfl
@[simp] theorem Core.push_issued (k : Core) (p : Pend) : (k.push p).issued = k.issued := rfl
@[simp] theorem Core.push_recent (k : Core) (p : Pend) : (k.push p).recent = k.recent := rfl
@[simp] theorem Core.push_recentPcs (k : Core) (p : Pend) : (k.push p).recentPcs = k.recentPcs := rfl
@[simp] theorem Core.push_rstack (k : Core) (p : Pend) : (k.push p).rstack = k.rstack := rfl
@[simp] theorem Core.push_replay (k : Core) (p : Pend) : (k.push p).replay = k.replay := rfl
@[simp] theorem Core.push_replayNow (k : Core) (p : Pend) : (k.push p).replayNow = k.replayNow := rfl
@[simp] theorem Core.push_stop (k : Core) (p : Pend) : (k.push p).stop = k.stop := rfl
@[simp] theorem Core.push_late (k : Core) (p : Pend) : (k.push p).late = k.late := rfl
@[simp] theorem Core.push_mseq (k : Core) (p : Pend) : (k.push p).mseq = k.mseq := rfl
@[simp] theorem Core.push_correct (k : Core) (p : Pend) : (k.push p).correct = k.correct := rfl
@[simp] theorem Core.push_weak (k : Core) (p : Pend) : (k.push p).weak = k.weak := rfl
@[simp] theorem Core.push_broken (k : Core) (p : Pend) : (k.push p).broken = k.broken := rfl
@[simp] theorem Core.push_released (k : Core) (p : Pend) : (k.push p).released = k.released := rfl
@[simp] theorem Core.push_dump (k : Core) (p : Pend) : (k.push p).dump = k.dump := rfl
@[simp] theorem Core.push_debugHalt (k : Core) (p : Pend) : (k.push p).debugHalt = k.debugHalt := rfl
@[simp] theorem Core.push_mxq (k : Core) (p : Pend) : (k.push p).mxq = k.mxq := rfl
@[simp] theorem Core.push_run (k : Core) (p : Pend) : (k.push p).run = k.run := rfl
@[simp] theorem Core.push_cmq (k : Core) (p : Pend) : (k.push p).cmq = k.cmq := rfl
@[simp] theorem Core.push_hxq (k : Core) (p : Pend) : (k.push p).hxq = k.hxq := rfl
@[simp] theorem Core.push_wc (k : Core) (p : Pend) : (k.push p).wc = k.wc := rfl
@[simp] theorem Core.push_wcDue (k : Core) (p : Pend) : (k.push p).wcDue = k.wcDue := rfl
@[simp] theorem Core.push_hold (k : Core) (p : Pend) : (k.push p).hold = k.hold := rfl
@[simp] theorem Core.push_frames (k : Core) (p : Pend) : (k.push p).frames = k.frames := rfl
@[simp] theorem Core.push_keep (k : Core) (p : Pend) : (k.push p).keep = k.keep := rfl
@[simp] theorem Core.push_keepWord (k : Core) (p : Pend) : (k.push p).keepWord = k.keepWord := rfl
@[simp] theorem Core.push_keepPc (k : Core) (p : Pend) : (k.push p).keepPc = k.keepPc := rfl
@[simp] theorem Core.push_keepReady (k : Core) (p : Pend) : (k.push p).keepReady = k.keepReady := rfl
@[simp] theorem Core.push_keepCost (k : Core) (p : Pend) : (k.push p).keepCost = k.keepCost := rfl
@[simp] theorem Core.push_keepGot (k : Core) (p : Pend) : (k.push p).keepGot = k.keepGot := rfl
@[simp] theorem Core.push_pend (k : Core) (p : Pend) : (k.push p).pend = k.pend := rfl
@[simp] theorem Core.push_seq (k : Core) (p : Pend) : (k.push p).seq = k.seq := rfl
@[simp] theorem Core.push_imem (k : Core) (p : Pend) : (k.push p).imem = k.imem := rfl
@[simp] theorem Core.push_const (k : Core) (p : Pend) : (k.push p).const = k.const := rfl
@[simp] theorem Core.push_textLen (k : Core) (p : Pend) : (k.push p).textLen = k.textLen := rfl
@[simp] theorem Core.push_regions (k : Core) (p : Pend) : (k.push p).regions = k.regions := rfl
@[simp] theorem Core.push_exts (k : Core) (p : Pend) : (k.push p).exts = k.exts := rfl
@[simp] theorem Core.push_ctxBase (k : Core) (p : Pend) : (k.push p).ctxBase = k.ctxBase := rfl
@[simp] theorem Core.push_ctxLen (k : Core) (p : Pend) : (k.push p).ctxLen = k.ctxLen := rfl
@[simp] theorem Core.push_tcache (k : Core) (p : Pend) : (k.push p).tcache = k.tcache := rfl
@[simp] theorem Core.push_image (k : Core) (p : Pend) : (k.push p).image = k.image := rfl
@[simp] theorem Core.push_pbase (k : Core) (p : Pend) : (k.push p).pbase = k.pbase := rfl
@[simp] theorem Core.push_pstride (k : Core) (p : Pend) : (k.push p).pstride = k.pstride := rfl
@[simp] theorem Core.push_psize (k : Core) (p : Pend) : (k.push p).psize = k.psize := rfl
@[simp] theorem Core.push_vsize (k : Core) (p : Pend) : (k.push p).vsize = k.vsize := rfl
@[simp] theorem Core.push_depth (k : Core) (p : Pend) : (k.push p).depth = k.depth := rfl
@[simp] theorem Core.push_triggered (k : Core) (p : Pend) : (k.push p).triggered = k.triggered := rfl
@[simp] theorem Core.push_trigAt (k : Core) (p : Pend) : (k.push p).trigAt = k.trigAt := rfl
@[simp] theorem Core.push_ended (k : Core) (p : Pend) : (k.push p).ended = k.ended := rfl
@[simp] theorem Core.push_hops (k : Core) (p : Pend) : (k.push p).hops = k.hops := rfl
@[simp] theorem Core.push_children (k : Core) (p : Pend) : (k.push p).children = k.children := rfl
@[simp] theorem Core.push_saveAsked (k : Core) (p : Pend) : (k.push p).saveAsked = k.saveAsked := rfl
@[simp] theorem Core.push_saveAt (k : Core) (p : Pend) : (k.push p).saveAt = k.saveAt := rfl
@[simp] theorem Core.push_killed (k : Core) (p : Pend) : (k.push p).killed = k.killed := rfl
@[simp] theorem Core.push_abort (k : Core) (p : Pend) : (k.push p).abort = k.abort := rfl
@[simp] theorem Core.push_begun (k : Core) (p : Pend) : (k.push p).begun = k.begun := rfl
@[simp] theorem Core.push_fetchKey (k : Core) (p : Pend) : (k.push p).fetchKey = k.fetchKey := rfl
@[simp] theorem Core.push_inflight (k : Core) (p : Pend) : (k.push p).inflight = k.inflight ++ [p] := rfl

@[simp] theorem Core.startCorrect_placed (k : Core) (n : Nat) : (k.startCorrect n).placed = k.placed := by unfold Core.startCorrect; split <;> rfl
@[simp] theorem Core.startCorrect_startAt (k : Core) (n : Nat) : (k.startCorrect n).startAt = k.startAt := by unfold Core.startCorrect; split <;> rfl
@[simp] theorem Core.startCorrect_started (k : Core) (n : Nat) : (k.startCorrect n).started = k.started := by unfold Core.startCorrect; split <;> rfl
@[simp] theorem Core.startCorrect_ran (k : Core) (n : Nat) : (k.startCorrect n).ran = k.ran := by unfold Core.startCorrect; split <;> rfl
@[simp] theorem Core.startCorrect_task (k : Core) (n : Nat) : (k.startCorrect n).task = k.task := by unfold Core.startCorrect; split <;> rfl
@[simp] theorem Core.startCorrect_seat (k : Core) (n : Nat) : (k.startCorrect n).seat = k.seat := by unfold Core.startCorrect; split <;> rfl
@[simp] theorem Core.startCorrect_nseats (k : Core) (n : Nat) : (k.startCorrect n).nseats = k.nseats := by unfold Core.startCorrect; split <;> rfl
@[simp] theorem Core.startCorrect_job (k : Core) (n : Nat) : (k.startCorrect n).job = k.job := by unfold Core.startCorrect; split <;> rfl
@[simp] theorem Core.startCorrect_taskid (k : Core) (n : Nat) : (k.startCorrect n).taskid = k.taskid := by unfold Core.startCorrect; split <;> rfl
@[simp] theorem Core.startCorrect_world (k : Core) (n : Nat) : (k.startCorrect n).world = k.world := by unfold Core.startCorrect; split <;> rfl
@[simp] theorem Core.startCorrect_gen (k : Core) (n : Nat) : (k.startCorrect n).gen = k.gen := by unfold Core.startCorrect; split <;> rfl
@[simp] theorem Core.startCorrect_lock (k : Core) (n : Nat) : (k.startCorrect n).lock = k.lock := by unfold Core.startCorrect; split <;> rfl
@[simp] theorem Core.startCorrect_debug (k : Core) (n : Nat) : (k.startCorrect n).debug = k.debug := by unfold Core.startCorrect; split <;> rfl
@[simp] theorem Core.startCorrect_rf (k : Core) (n : Nat) : (k.startCorrect n).rf = k.rf := by unfold Core.startCorrect; split <;> rfl
@[simp] theorem Core.startCorrect_dom (k : Core) (n : Nat) : (k.startCorrect n).dom = k.dom := by unfold Core.startCorrect; split <;> rfl
@[simp] theorem Core.startCorrect_phase (k : Core) (n : Nat) : (k.startCorrect n).phase = k.phase := by unfold Core.startCorrect; split <;> rfl
@[simp] theorem Core.startCorrect_cyc (k : Core) (n : Nat) : (k.startCorrect n).cyc = k.cyc := by unfold Core.startCorrect; split <;> rfl
@[simp] theorem Core.startCorrect_frz (k : Core) (n : Nat) : (k.startCorrect n).frz = k.frz := by unfold Core.startCorrect; split <;> rfl
@[simp] theorem Core.startCorrect_resume (k : Core) (n : Nat) : (k.startCorrect n).resume = k.resume := by unfold Core.startCorrect; split <;> rfl
@[simp] theorem Core.startCorrect_repleft (k : Core) (n : Nat) : (k.startCorrect n).repleft = k.repleft := by unfold Core.startCorrect; split <;> rfl
@[simp] theorem Core.startCorrect_frzcause (k : Core) (n : Nat) : (k.startCorrect n).frzcause = k.frzcause := by unfold Core.startCorrect; split <;> rfl
@[simp] theorem Core.startCorrect_rgd (k : Core) (n : Nat) : (k.startCorrect n).rgd = k.rgd := by unfold Core.startCorrect; split <;> rfl
@[simp] theorem Core.startCorrect_feat (k : Core) (n : Nat) : (k.startCorrect n).feat = k.feat := by unfold Core.startCorrect; split <;> rfl
@[simp] theorem Core.startCorrect_srg (k : Core) (n : Nat) : (k.startCorrect n).srg = k.srg := by unfold Core.startCorrect; split <;> rfl
@[simp] theorem Core.startCorrect_flags (k : Core) (n : Nat) : (k.startCorrect n).flags = k.flags := by unfold Core.startCorrect; split <;> rfl
@[simp] theorem Core.startCorrect_flagBuf (k : Core) (n : Nat) : (k.startCorrect n).flagBuf = k.flagBuf := by unfold Core.startCorrect; split <;> rfl
@[simp] theorem Core.startCorrect_tiles (k : Core) (n : Nat) : (k.startCorrect n).tiles = k.tiles := by unfold Core.startCorrect; split <;> rfl
@[simp] theorem Core.startCorrect_tilePoison (k : Core) (n : Nat) : (k.startCorrect n).tilePoison = k.tilePoison := by unfold Core.startCorrect; split <;> rfl
@[simp] theorem Core.startCorrect_tileBusy (k : Core) (n : Nat) : (k.startCorrect n).tileBusy = k.tileBusy := by unfold Core.startCorrect; split <;> rfl
@[simp] theorem Core.startCorrect_tileClear (k : Core) (n : Nat) : (k.startCorrect n).tileClear = k.tileClear := by unfold Core.startCorrect; split <;> rfl
@[simp] theorem Core.startCorrect_poisonClear (k : Core) (n : Nat) : (k.startCorrect n).poisonClear = k.poisonClear := by unfold Core.startCorrect; split <;> rfl
@[simp] theorem Core.startCorrect_rolling (k : Core) (n : Nat) : (k.startCorrect n).rolling = k.rolling := by unfold Core.startCorrect; split <;> rfl
@[simp] theorem Core.startCorrect_xpWr (k : Core) (n : Nat) : (k.startCorrect n).xpWr = k.xpWr := by unfold Core.startCorrect; split <;> rfl
@[simp] theorem Core.startCorrect_xpRd (k : Core) (n : Nat) : (k.startCorrect n).xpRd = k.xpRd := by unfold Core.startCorrect; split <;> rfl
@[simp] theorem Core.startCorrect_xpBank (k : Core) (n : Nat) : (k.startCorrect n).xpBank = k.xpBank := by unfold Core.startCorrect; split <;> rfl
@[simp] theorem Core.startCorrect_xpose (k : Core) (n : Nat) : (k.startCorrect n).xpose = k.xpose := by unfold Core.startCorrect; split <;> rfl
@[simp] theorem Core.startCorrect_dq (k : Core) (n : Nat) : (k.startCorrect n).dq = k.dq := by unfold Core.startCorrect; split <;> rfl
@[simp] theorem Core.startCorrect_dqRetained (k : Core) (n : Nat) : (k.startCorrect n).dqRetained = k.dqRetained := by unfold Core.startCorrect; split <;> rfl
@[simp] theorem Core.startCorrect_landing (k : Core) (n : Nat) : (k.startCorrect n).landing = k.landing := by unfold Core.startCorrect; split <;> rfl
@[simp] theorem Core.startCorrect_sticky (k : Core) (n : Nat) : (k.startCorrect n).sticky = k.sticky := by unfold Core.startCorrect; split <;> rfl
@[simp] theorem Core.startCorrect_pc (k : Core) (n : Nat) : (k.startCorrect n).pc = k.pc := by unfold Core.startCorrect; split <;> rfl
@[simp] theorem Core.startCorrect_rep (k : Core) (n : Nat) : (k.startCorrect n).rep = k.rep := by unfold Core.startCorrect; split <;> rfl
@[simp] theorem Core.startCorrect_count (k : Core) (n : Nat) : (k.startCorrect n).count = k.count := by unfold Core.startCorrect; split <;> rfl
@[simp] theorem Core.startCorrect_nextIssue (k : Core) (n : Nat) : (k.startCorrect n).nextIssue = k.nextIssue := by unfold Core.startCorrect; split <;> rfl
@[simp] theorem Core.startCorrect_latched (k : Core) (n : Nat) : (k.startCorrect n).latched = k.latched := by unfold Core.startCorrect; split <;> rfl
@[simp] theorem Core.startCorrect_issued (k : Core) (n : Nat) : (k.startCorrect n).issued = k.issued := by unfold Core.startCorrect; split <;> rfl
@[simp] theorem Core.startCorrect_recent (k : Core) (n : Nat) : (k.startCorrect n).recent = k.recent := by unfold Core.startCorrect; split <;> rfl
@[simp] theorem Core.startCorrect_recentPcs (k : Core) (n : Nat) : (k.startCorrect n).recentPcs = k.recentPcs := by unfold Core.startCorrect; split <;> rfl
@[simp] theorem Core.startCorrect_rstack (k : Core) (n : Nat) : (k.startCorrect n).rstack = k.rstack := by unfold Core.startCorrect; split <;> rfl
@[simp] theorem Core.startCorrect_inflight (k : Core) (n : Nat) : (k.startCorrect n).inflight = k.inflight := by unfold Core.startCorrect; split <;> rfl
@[simp] theorem Core.startCorrect_replay (k : Core) (n : Nat) : (k.startCorrect n).replay = k.replay := by unfold Core.startCorrect; split <;> rfl
@[simp] theorem Core.startCorrect_replayNow (k : Core) (n : Nat) : (k.startCorrect n).replayNow = k.replayNow := by unfold Core.startCorrect; split <;> rfl
@[simp] theorem Core.startCorrect_stop (k : Core) (n : Nat) : (k.startCorrect n).stop = k.stop := by unfold Core.startCorrect; split <;> rfl
@[simp] theorem Core.startCorrect_late (k : Core) (n : Nat) : (k.startCorrect n).late = k.late := by unfold Core.startCorrect; split <;> rfl
@[simp] theorem Core.startCorrect_mseq (k : Core) (n : Nat) : (k.startCorrect n).mseq = k.mseq := by unfold Core.startCorrect; split <;> rfl
@[simp] theorem Core.startCorrect_weak (k : Core) (n : Nat) : (k.startCorrect n).weak = k.weak := by unfold Core.startCorrect; split <;> rfl
@[simp] theorem Core.startCorrect_broken (k : Core) (n : Nat) : (k.startCorrect n).broken = k.broken := by unfold Core.startCorrect; split <;> rfl
@[simp] theorem Core.startCorrect_released (k : Core) (n : Nat) : (k.startCorrect n).released = k.released := by unfold Core.startCorrect; split <;> rfl
@[simp] theorem Core.startCorrect_dump (k : Core) (n : Nat) : (k.startCorrect n).dump = k.dump := by unfold Core.startCorrect; split <;> rfl
@[simp] theorem Core.startCorrect_debugHalt (k : Core) (n : Nat) : (k.startCorrect n).debugHalt = k.debugHalt := by unfold Core.startCorrect; split <;> rfl
@[simp] theorem Core.startCorrect_mxq (k : Core) (n : Nat) : (k.startCorrect n).mxq = k.mxq := by unfold Core.startCorrect; split <;> rfl
@[simp] theorem Core.startCorrect_cmq (k : Core) (n : Nat) : (k.startCorrect n).cmq = k.cmq := by unfold Core.startCorrect; split <;> rfl
@[simp] theorem Core.startCorrect_hxq (k : Core) (n : Nat) : (k.startCorrect n).hxq = k.hxq := by unfold Core.startCorrect; split <;> rfl
@[simp] theorem Core.startCorrect_wc (k : Core) (n : Nat) : (k.startCorrect n).wc = k.wc := by unfold Core.startCorrect; split <;> rfl
@[simp] theorem Core.startCorrect_wcDue (k : Core) (n : Nat) : (k.startCorrect n).wcDue = k.wcDue := by unfold Core.startCorrect; split <;> rfl
@[simp] theorem Core.startCorrect_hold (k : Core) (n : Nat) : (k.startCorrect n).hold = k.hold := by unfold Core.startCorrect; split <;> rfl
@[simp] theorem Core.startCorrect_frames (k : Core) (n : Nat) : (k.startCorrect n).frames = k.frames := by unfold Core.startCorrect; split <;> rfl
@[simp] theorem Core.startCorrect_keep (k : Core) (n : Nat) : (k.startCorrect n).keep = k.keep := by unfold Core.startCorrect; split <;> rfl
@[simp] theorem Core.startCorrect_keepWord (k : Core) (n : Nat) : (k.startCorrect n).keepWord = k.keepWord := by unfold Core.startCorrect; split <;> rfl
@[simp] theorem Core.startCorrect_keepPc (k : Core) (n : Nat) : (k.startCorrect n).keepPc = k.keepPc := by unfold Core.startCorrect; split <;> rfl
@[simp] theorem Core.startCorrect_keepReady (k : Core) (n : Nat) : (k.startCorrect n).keepReady = k.keepReady := by unfold Core.startCorrect; split <;> rfl
@[simp] theorem Core.startCorrect_keepCost (k : Core) (n : Nat) : (k.startCorrect n).keepCost = k.keepCost := by unfold Core.startCorrect; split <;> rfl
@[simp] theorem Core.startCorrect_keepGot (k : Core) (n : Nat) : (k.startCorrect n).keepGot = k.keepGot := by unfold Core.startCorrect; split <;> rfl
@[simp] theorem Core.startCorrect_pend (k : Core) (n : Nat) : (k.startCorrect n).pend = k.pend := by unfold Core.startCorrect; split <;> rfl
@[simp] theorem Core.startCorrect_seq (k : Core) (n : Nat) : (k.startCorrect n).seq = k.seq := by unfold Core.startCorrect; split <;> rfl
@[simp] theorem Core.startCorrect_imem (k : Core) (n : Nat) : (k.startCorrect n).imem = k.imem := by unfold Core.startCorrect; split <;> rfl
@[simp] theorem Core.startCorrect_const (k : Core) (n : Nat) : (k.startCorrect n).const = k.const := by unfold Core.startCorrect; split <;> rfl
@[simp] theorem Core.startCorrect_textLen (k : Core) (n : Nat) : (k.startCorrect n).textLen = k.textLen := by unfold Core.startCorrect; split <;> rfl
@[simp] theorem Core.startCorrect_regions (k : Core) (n : Nat) : (k.startCorrect n).regions = k.regions := by unfold Core.startCorrect; split <;> rfl
@[simp] theorem Core.startCorrect_exts (k : Core) (n : Nat) : (k.startCorrect n).exts = k.exts := by unfold Core.startCorrect; split <;> rfl
@[simp] theorem Core.startCorrect_ctxBase (k : Core) (n : Nat) : (k.startCorrect n).ctxBase = k.ctxBase := by unfold Core.startCorrect; split <;> rfl
@[simp] theorem Core.startCorrect_ctxLen (k : Core) (n : Nat) : (k.startCorrect n).ctxLen = k.ctxLen := by unfold Core.startCorrect; split <;> rfl
@[simp] theorem Core.startCorrect_tcache (k : Core) (n : Nat) : (k.startCorrect n).tcache = k.tcache := by unfold Core.startCorrect; split <;> rfl
@[simp] theorem Core.startCorrect_image (k : Core) (n : Nat) : (k.startCorrect n).image = k.image := by unfold Core.startCorrect; split <;> rfl
@[simp] theorem Core.startCorrect_pbase (k : Core) (n : Nat) : (k.startCorrect n).pbase = k.pbase := by unfold Core.startCorrect; split <;> rfl
@[simp] theorem Core.startCorrect_pstride (k : Core) (n : Nat) : (k.startCorrect n).pstride = k.pstride := by unfold Core.startCorrect; split <;> rfl
@[simp] theorem Core.startCorrect_psize (k : Core) (n : Nat) : (k.startCorrect n).psize = k.psize := by unfold Core.startCorrect; split <;> rfl
@[simp] theorem Core.startCorrect_vsize (k : Core) (n : Nat) : (k.startCorrect n).vsize = k.vsize := by unfold Core.startCorrect; split <;> rfl
@[simp] theorem Core.startCorrect_depth (k : Core) (n : Nat) : (k.startCorrect n).depth = k.depth := by unfold Core.startCorrect; split <;> rfl
@[simp] theorem Core.startCorrect_triggered (k : Core) (n : Nat) : (k.startCorrect n).triggered = k.triggered := by unfold Core.startCorrect; split <;> rfl
@[simp] theorem Core.startCorrect_trigAt (k : Core) (n : Nat) : (k.startCorrect n).trigAt = k.trigAt := by unfold Core.startCorrect; split <;> rfl
@[simp] theorem Core.startCorrect_ended (k : Core) (n : Nat) : (k.startCorrect n).ended = k.ended := by unfold Core.startCorrect; split <;> rfl
@[simp] theorem Core.startCorrect_hops (k : Core) (n : Nat) : (k.startCorrect n).hops = k.hops := by unfold Core.startCorrect; split <;> rfl
@[simp] theorem Core.startCorrect_children (k : Core) (n : Nat) : (k.startCorrect n).children = k.children := by unfold Core.startCorrect; split <;> rfl
@[simp] theorem Core.startCorrect_saveAsked (k : Core) (n : Nat) : (k.startCorrect n).saveAsked = k.saveAsked := by unfold Core.startCorrect; split <;> rfl
@[simp] theorem Core.startCorrect_saveAt (k : Core) (n : Nat) : (k.startCorrect n).saveAt = k.saveAt := by unfold Core.startCorrect; split <;> rfl
@[simp] theorem Core.startCorrect_killed (k : Core) (n : Nat) : (k.startCorrect n).killed = k.killed := by unfold Core.startCorrect; split <;> rfl
@[simp] theorem Core.startCorrect_abort (k : Core) (n : Nat) : (k.startCorrect n).abort = k.abort := by unfold Core.startCorrect; split <;> rfl
@[simp] theorem Core.startCorrect_begun (k : Core) (n : Nat) : (k.startCorrect n).begun = k.begun := by unfold Core.startCorrect; split <;> rfl
@[simp] theorem Core.startCorrect_fetchKey (k : Core) (n : Nat) : (k.startCorrect n).fetchKey = k.fetchKey := by unfold Core.startCorrect; split <;> rfl

/-! A register file. -/

@[simp] theorem RegFile.setS_p (r : RegFile) (n : Nat) (v : Word) (po : Bool) : (r.setS n v po).p = r.p := by unfold RegFile.setS; split <;> rfl
@[simp] theorem RegFile.setS_near (r : RegFile) (n : Nat) (v : Word) (po : Bool) : (r.setS n v po).near = r.near := by unfold RegFile.setS; split <;> rfl
@[simp] theorem RegFile.setS_nearPoison (r : RegFile) (n : Nat) (v : Word) (po : Bool) : (r.setS n v po).nearPoison = r.nearPoison := by unfold RegFile.setS; split <;> rfl
@[simp] theorem RegFile.setS_soft (r : RegFile) (n : Nat) (v : Word) (po : Bool) : (r.setS n v po).soft = r.soft := by unfold RegFile.setS; split <;> rfl
@[simp] theorem RegFile.setS_allot (r : RegFile) (n : Nat) (v : Word) (po : Bool) : (r.setS n v po).allot = r.allot := by unfold RegFile.setS; split <;> rfl
@[simp] theorem RegFile.setS_rbase (r : RegFile) (n : Nat) (v : Word) (po : Bool) : (r.setS n v po).rbase = r.rbase := by unfold RegFile.setS; split <;> rfl
@[simp] theorem RegFile.setS_rsize (r : RegFile) (n : Nat) (v : Word) (po : Bool) : (r.setS n v po).rsize = r.rsize := by unfold RegFile.setS; split <;> rfl
@[simp] theorem RegFile.setS_rrb (r : RegFile) (n : Nat) (v : Word) (po : Bool) : (r.setS n v po).rrb = r.rrb := by unfold RegFile.setS; split <;> rfl
@[simp] theorem RegFile.setS_lcnt (r : RegFile) (n : Nat) (v : Word) (po : Bool) : (r.setS n v po).lcnt = r.lcnt := by unfold RegFile.setS; split <;> rfl
@[simp] theorem RegFile.setS_latches (r : RegFile) (n : Nat) (v : Word) (po : Bool) : (r.setS n v po).latches = r.latches := by unfold RegFile.setS; split <;> rfl
@[simp] theorem RegFile.setS_chans (r : RegFile) (n : Nat) (v : Word) (po : Bool) : (r.setS n v po).chans = r.chans := by unfold RegFile.setS; split <;> rfl
@[simp] theorem RegFile.setS_prc (r : RegFile) (n : Nat) (v : Word) (po : Bool) : (r.setS n v po).prc = r.prc := by unfold RegFile.setS; split <;> rfl
@[simp] theorem RegFile.setS_prcv (r : RegFile) (n : Nat) (v : Word) (po : Bool) : (r.setS n v po).prcv = r.prcv := by unfold RegFile.setS; split <;> rfl

@[simp] theorem RegFile.setP_s (r : RegFile) (n : Nat) (v : Word) : (r.setP n v).s = r.s := by unfold RegFile.setP; split <;> rfl
@[simp] theorem RegFile.setP_sPoison (r : RegFile) (n : Nat) (v : Word) : (r.setP n v).sPoison = r.sPoison := by unfold RegFile.setP; split <;> rfl
@[simp] theorem RegFile.setP_near (r : RegFile) (n : Nat) (v : Word) : (r.setP n v).near = r.near := by unfold RegFile.setP; split <;> rfl
@[simp] theorem RegFile.setP_nearPoison (r : RegFile) (n : Nat) (v : Word) : (r.setP n v).nearPoison = r.nearPoison := by unfold RegFile.setP; split <;> rfl
@[simp] theorem RegFile.setP_soft (r : RegFile) (n : Nat) (v : Word) : (r.setP n v).soft = r.soft := by unfold RegFile.setP; split <;> rfl
@[simp] theorem RegFile.setP_allot (r : RegFile) (n : Nat) (v : Word) : (r.setP n v).allot = r.allot := by unfold RegFile.setP; split <;> rfl
@[simp] theorem RegFile.setP_rbase (r : RegFile) (n : Nat) (v : Word) : (r.setP n v).rbase = r.rbase := by unfold RegFile.setP; split <;> rfl
@[simp] theorem RegFile.setP_rsize (r : RegFile) (n : Nat) (v : Word) : (r.setP n v).rsize = r.rsize := by unfold RegFile.setP; split <;> rfl
@[simp] theorem RegFile.setP_rrb (r : RegFile) (n : Nat) (v : Word) : (r.setP n v).rrb = r.rrb := by unfold RegFile.setP; split <;> rfl
@[simp] theorem RegFile.setP_lcnt (r : RegFile) (n : Nat) (v : Word) : (r.setP n v).lcnt = r.lcnt := by unfold RegFile.setP; split <;> rfl
@[simp] theorem RegFile.setP_latches (r : RegFile) (n : Nat) (v : Word) : (r.setP n v).latches = r.latches := by unfold RegFile.setP; split <;> rfl
@[simp] theorem RegFile.setP_chans (r : RegFile) (n : Nat) (v : Word) : (r.setP n v).chans = r.chans := by unfold RegFile.setP; split <;> rfl
@[simp] theorem RegFile.setP_prc (r : RegFile) (n : Nat) (v : Word) : (r.setP n v).prc = r.prc := by unfold RegFile.setP; split <;> rfl
@[simp] theorem RegFile.setP_prcv (r : RegFile) (n : Nat) (v : Word) : (r.setP n v).prcv = r.prcv := by unfold RegFile.setP; split <;> rfl

@[simp] theorem RegFile.setV_s (r : RegFile) (i : Nat) (v m : Vec) (po : Word) : (r.setV i v m po).s = r.s := by unfold RegFile.setV; split <;> rfl
@[simp] theorem RegFile.setV_sPoison (r : RegFile) (i : Nat) (v m : Vec) (po : Word) : (r.setV i v m po).sPoison = r.sPoison := by unfold RegFile.setV; split <;> rfl
@[simp] theorem RegFile.setV_p (r : RegFile) (i : Nat) (v m : Vec) (po : Word) : (r.setV i v m po).p = r.p := by unfold RegFile.setV; split <;> rfl
@[simp] theorem RegFile.setV_allot (r : RegFile) (i : Nat) (v m : Vec) (po : Word) : (r.setV i v m po).allot = r.allot := by unfold RegFile.setV; split <;> rfl
@[simp] theorem RegFile.setV_rbase (r : RegFile) (i : Nat) (v m : Vec) (po : Word) : (r.setV i v m po).rbase = r.rbase := by unfold RegFile.setV; split <;> rfl
@[simp] theorem RegFile.setV_rsize (r : RegFile) (i : Nat) (v m : Vec) (po : Word) : (r.setV i v m po).rsize = r.rsize := by unfold RegFile.setV; split <;> rfl
@[simp] theorem RegFile.setV_rrb (r : RegFile) (i : Nat) (v m : Vec) (po : Word) : (r.setV i v m po).rrb = r.rrb := by unfold RegFile.setV; split <;> rfl
@[simp] theorem RegFile.setV_lcnt (r : RegFile) (i : Nat) (v m : Vec) (po : Word) : (r.setV i v m po).lcnt = r.lcnt := by unfold RegFile.setV; split <;> rfl
@[simp] theorem RegFile.setV_latches (r : RegFile) (i : Nat) (v m : Vec) (po : Word) : (r.setV i v m po).latches = r.latches := by unfold RegFile.setV; split <;> rfl
@[simp] theorem RegFile.setV_chans (r : RegFile) (i : Nat) (v m : Vec) (po : Word) : (r.setV i v m po).chans = r.chans := by unfold RegFile.setV; split <;> rfl
@[simp] theorem RegFile.setV_prc (r : RegFile) (i : Nat) (v m : Vec) (po : Word) : (r.setV i v m po).prc = r.prc := by unfold RegFile.setV; split <;> rfl
@[simp] theorem RegFile.setV_prcv (r : RegFile) (i : Nat) (v m : Vec) (po : Word) : (r.setV i v m po).prcv = r.prcv := by unfold RegFile.setV; split <;> rfl

@[simp] theorem RegFile.mergeNear_s (r : RegFile) (a : Nat) (ds : List (Byte × Byte)) (po : Bool) : (r.mergeNear a ds po).s = r.s := rfl
@[simp] theorem RegFile.mergeNear_sPoison (r : RegFile) (a : Nat) (ds : List (Byte × Byte)) (po : Bool) : (r.mergeNear a ds po).sPoison = r.sPoison := rfl
@[simp] theorem RegFile.mergeNear_p (r : RegFile) (a : Nat) (ds : List (Byte × Byte)) (po : Bool) : (r.mergeNear a ds po).p = r.p := rfl
@[simp] theorem RegFile.mergeNear_allot (r : RegFile) (a : Nat) (ds : List (Byte × Byte)) (po : Bool) : (r.mergeNear a ds po).allot = r.allot := rfl
@[simp] theorem RegFile.mergeNear_rbase (r : RegFile) (a : Nat) (ds : List (Byte × Byte)) (po : Bool) : (r.mergeNear a ds po).rbase = r.rbase := rfl
@[simp] theorem RegFile.mergeNear_rsize (r : RegFile) (a : Nat) (ds : List (Byte × Byte)) (po : Bool) : (r.mergeNear a ds po).rsize = r.rsize := rfl
@[simp] theorem RegFile.mergeNear_rrb (r : RegFile) (a : Nat) (ds : List (Byte × Byte)) (po : Bool) : (r.mergeNear a ds po).rrb = r.rrb := rfl
@[simp] theorem RegFile.mergeNear_lcnt (r : RegFile) (a : Nat) (ds : List (Byte × Byte)) (po : Bool) : (r.mergeNear a ds po).lcnt = r.lcnt := rfl
@[simp] theorem RegFile.mergeNear_latches (r : RegFile) (a : Nat) (ds : List (Byte × Byte)) (po : Bool) : (r.mergeNear a ds po).latches = r.latches := rfl
@[simp] theorem RegFile.mergeNear_chans (r : RegFile) (a : Nat) (ds : List (Byte × Byte)) (po : Bool) : (r.mergeNear a ds po).chans = r.chans := rfl
@[simp] theorem RegFile.mergeNear_prc (r : RegFile) (a : Nat) (ds : List (Byte × Byte)) (po : Bool) : (r.mergeNear a ds po).prc = r.prc := rfl
@[simp] theorem RegFile.mergeNear_prcv (r : RegFile) (a : Nat) (ds : List (Byte × Byte)) (po : Bool) : (r.mergeNear a ds po).prcv = r.prcv := rfl
@[simp] theorem RegFile.mergeNear_near (r : RegFile) (a : Nat) (ds : List (Byte × Byte)) (po : Bool) :
    (r.mergeNear a ds po).near = r.near.merge a ds := rfl

@[simp] theorem RegFile.sreg_zero (r : RegFile) : r.sreg 0 = 0 := rfl
@[simp] theorem RegFile.preg_zero (r : RegFile) : r.preg 0 = BitVec.allOnes 64 := rfl
/-- A scalar register after a write: s0 keeps no value. -/
theorem RegFile.sreg_setS (r : RegFile) (n j : Nat) (v : Word) (po : Bool) :
    (r.setS n v po).sreg j = if j = n ∧ n ≠ 0 then v else r.sreg j := by
  by_cases hn : n = 0
  · simp [RegFile.setS, hn]
  · by_cases hj : j = 0
    · subst hj; simp [Ne.symm hn]
    · simp only [RegFile.setS, hn, if_false, RegFile.sreg, hj, sget_sset]
      simp [hn]
/-- A predicate after a write: p0 never changes. -/
theorem RegFile.preg_setP (r : RegFile) (n j : Nat) (v : Word) : (r.setP n v).preg j = if j = n ∧ n ≠ 0 then v else r.preg j := by
  by_cases hn : n = 0
  · simp [RegFile.setP, hn]
  · by_cases hj : j = 0
    · subst hj; simp [Ne.symm hn]
    · simp only [RegFile.setP, hn, if_false, RegFile.preg, hj, sget_sset]
      simp [hn]
@[simp] theorem RegFile.setS_preg (r : RegFile) (n j : Nat) (v : Word) (po : Bool) : (r.setS n v po).preg j = r.preg j := by
  simp [RegFile.preg]
@[simp] theorem RegFile.setP_sreg (r : RegFile) (n j : Nat) (v : Word) : (r.setP n v).sreg j = r.sreg j := by simp [RegFile.sreg]
@[simp] theorem RegFile.setV_sreg (r : RegFile) (i j : Nat) (v m : Vec) (po : Word) : (r.setV i v m po).sreg j = r.sreg j := by simp [RegFile.sreg]
@[simp] theorem RegFile.setV_preg (r : RegFile) (i j : Nat) (v m : Vec) (po : Word) : (r.setV i v m po).preg j = r.preg j := by simp [RegFile.preg]
/-- Near SRAM after a vector write: a merge at the register's place. -/
theorem RegFile.setV_near (r : RegFile) (i : Nat) (v m : Vec) (po : Word) :
    (r.setV i v m po).near = r.near.merge (vbase i) ((vecBytes v).zip (vecBytes m)) := by unfold RegFile.setV; split <;> rfl

end Sys2Proof.Machine
end

