-- ==== Sys2Proof/Laws/Ops.lean ====
section
/-! SUPPORT. One law per shared operation: guards, results and their delivery, messages, events, remote operations. -/

namespace Sys2Proof.Machine
open Sys2Proof

/-! Guards and the end of a meaning. -/

theorem State.guarded_off (s : State) (i : Instr) (g : Guard) (r : R State) (h : s.on g = false) : s.guarded i g r = .next s := by
  simp [State.guarded, h]
theorem State.guarded_ok (s t : State) (i : Instr) (g : Guard) (h : s.on g = true) : s.guarded i g (.ok t) = .next t := by
  simp [State.guarded, h, State.finish]
theorem State.guarded_error (s : State) (i : Instr) (g : Guard) (e : Code × Word) (h : s.on g = true) :
    s.guarded i g (.error e) = .next (s.raiseEvent i e) := by simp [State.guarded, h, State.finish]
theorem State.guarded_ok_if (s t : State) (i : Instr) (g : Guard) : s.guarded i g (.ok t) = .next (if s.on g then t else s) := by
  cases h : s.on g <;> simp [State.guarded, h, State.finish]
@[simp] theorem State.finish_ok (s t : State) (i : Instr) : s.finish i (.ok t) = .next t := rfl
@[simp] theorem State.finish_error (s : State) (i : Instr) (e : Code × Word) : s.finish i (.error e) = .next (s.raiseEvent i e) := rfl
/-- Whatever a meaning computes, it ends in a next state. -/
theorem State.finish_next (s : State) (i : Instr) (r : R State) : ∃ t, s.finish i r = .next t := by
  cases r with
  | ok t => exact ⟨t, rfl⟩
  | error e => exact ⟨_, rfl⟩
theorem State.guarded_next (s : State) (i : Instr) (g : Guard) (r : R State) : ∃ t, s.guarded i g r = .next t := by
  unfold State.guarded
  split
  · exact s.finish_next i r
  · exact ⟨s, rfl⟩

@[simp] theorem raiseIf_true (c : Code) (v : Word) : raiseIf true c v = .error (c, v) := rfl
@[simp] theorem raiseIf_false (c : Code) (v : Word) : raiseIf false c v = .ok () := rfl
theorem raiseIf_ok (b : Bool) (c : Code) (v : Word) (u : Unit) : raiseIf b c v = .ok u ↔ b = false := by cases b <;> simp

/-! Results in flight. -/

/-- A result changes its core alone, and there only the results in flight. -/
@[simp] theorem State.cur_result (s : State) (lat : Nat) (d : Dest) (v m : Vec) (po : Word) :
    (s.result lat d v m po).cur = s.cur.push
      { due := s.ctx.cyc + lat, slot := s.ctx.slot, iss := s.cur.issued, dest := d, value := v, mask := m, poison := po } := sget_sput_same _ _ _ _
theorem State.core_result_ne (s : State) (lat : Nat) (d : Dest) (v m : Vec) (po : Word) {c : Nat} (h : c ≠ s.ctx.core) :
    (s.result lat d v m po).core c = s.core c := sget_sput_ne _ _ _ h
@[simp] theorem State.resultS_zero (s : State) (lat : Nat) (v : Word) : s.resultS lat 0 v = s := rfl
theorem State.resultS_pos (s : State) (lat n : Nat) (v : Word) (h : n ≠ 0) : s.resultS lat n v = s.result lat (.s n) (v.setWidth 2048) := by
  simp [State.resultS, h]
theorem Core.sameRegisters_refl (k : Core) : SameRegisters k k := ⟨rfl, rfl, rfl, rfl, rfl, rfl, rfl, rfl, rfl, rfl, rfl, rfl, rfl⟩
theorem Core.sameRegisters_push (k : Core) (p : Pend) : SameRegisters k (k.push p) := ⟨rfl, rfl, rfl, rfl, rfl, rfl, rfl, rfl, rfl, rfl, rfl, rfl, rfl⟩
theorem State.sameMemory_refl (s : State) : SameMemory s s := ⟨rfl, rfl, rfl, rfl, rfl⟩
theorem State.sameMemory_modCore (s : State) (c : Nat) (f : Core → Core) : SameMemory s (s.modCore c f) := ⟨rfl, rfl, rfl, rfl, rfl⟩
theorem State.sameOthers_modCore (s : State) (c : Nat) (f : Core → Core) : SameOthers c s (s.modCore c f) := fun _ h => sget_sput_ne _ _ _ h
/-- The frame of a result: every register, all memory and every other core stay. -/
theorem State.result_frame (s : State) (lat : Nat) (d : Dest) (v m : Vec) (po : Word) :
    SameRegisters s.cur (s.result lat d v m po).cur ∧ SameMemory s (s.result lat d v m po) ∧ SameOthers s.ctx.core s (s.result lat d v m po) := by
  rw [State.cur_result]
  exact ⟨Core.sameRegisters_push _ _, ⟨rfl, rfl, rfl, rfl, rfl⟩, s.sameOthers_modCore _ _⟩

/-! Delivery (03 R44, R45). -/

theorem Core.apply_s (k : Core) (p : Pend) (n : Nat) (h : p.dest = .s n) :
    k.apply p = { k with rf := k.rf.setS n (p.value.setWidth 64) (p.poison != 0) } := by simp [Core.apply, h]
theorem Core.apply_v (k : Core) (p : Pend) (n : Nat) (h : p.dest = .v n) :
    k.apply p = { k with rf := k.rf.setV n p.value p.mask p.poison } := by simp [Core.apply, h]

/-- A result whose destination is no predicate, scalar register or vector register leaves all of these. -/
theorem Core.apply_inflight (k : Core) (p : Pend) : (k.apply p).inflight = k.inflight := by
  unfold Core.apply
  split
  any_goals rfl
  split
  · rfl
  · unfold Core.writeSpecial
    dsimp only
    repeat' split
    all_goals rfl

theorem insertPend_perm (p : Pend) (l : List Pend) : (insertPend p l).Perm (p :: l) := by
  induction l with
  | nil => exact List.Perm.refl _
  | cons q t ih =>
    unfold insertPend
    split
    · exact List.Perm.refl _
    · exact (ih.cons q).trans (List.Perm.swap p q t)

/-- The commit order rearranges the results and drops none. -/
theorem sortPend_perm (l : List Pend) : (sortPend l).Perm l := by
  induction l with
  | nil => exact List.Perm.refl _
  | cons p t ih => exact (insertPend_perm p (sortPend t)).trans (ih.cons p)

theorem Pend.before_iff (a b : Pend) :
    a.before b = true ↔ a.due < b.due ∨ (a.due = b.due ∧ (a.slot < b.slot ∨ (a.slot = b.slot ∧ a.iss ≤ b.iss))) := by
  simp [Pend.before]

theorem Pend.before_trans {a b c : Pend} (h : a.before b = true) (h' : b.before c = true) : a.before c = true := by
  rw [Pend.before_iff] at *; omega
theorem Pend.before_total {a b : Pend} (h : ¬ a.before b = true) : b.before a = true := by
  rw [Pend.before_iff] at *; omega

theorem insertPend_sorted (p : Pend) (l : List Pend) (h : l.Pairwise (fun x y => x.before y = true)) :
    (insertPend p l).Pairwise (fun x y => x.before y = true) := by
  induction l with
  | nil => simp [insertPend]
  | cons q t ih =>
    rw [List.pairwise_cons] at h
    unfold insertPend
    split
    · rename_i hp
      refine List.pairwise_cons.mpr ⟨fun y hy => ?_, List.pairwise_cons.mpr h⟩
      rcases List.mem_cons.mp hy with rfl | hy
      · exact hp
      · exact Pend.before_trans hp (h.1 y hy)
    · rename_i hp
      refine List.pairwise_cons.mpr ⟨fun y hy => ?_, ih h.2⟩
      rcases List.mem_cons.mp ((insertPend_perm p t).mem_iff.mp hy) with rfl | hy
      · exact Pend.before_total hp
      · exact h.1 y hy

/-- The commit order: by due cycle, then slot, then issue. -/
theorem sortPend_sorted (l : List Pend) : (sortPend l).Pairwise (fun x y => x.before y = true) := by
  induction l with
  | nil => exact List.Pairwise.nil
  | cons p t ih => exact insertPend_sorted p _ ih

/-- Nothing due: nothing delivered. -/
theorem Core.deliver_none (k : Core) (h : ∀ r ∈ k.inflight, k.sched < r.due) : k.deliver = k := by
  have h1 : k.inflight.filter (fun p => decide (p.due ≤ k.sched)) = [] := by
    rw [List.filter_eq_nil_iff]; intro p hp; have := h p hp; simp; omega
  have h2 : k.inflight.filter (fun p => decide (k.sched < p.due)) = k.inflight := by
    rw [List.filter_eq_self]; intro p hp; simpa using h p hp
  unfold Core.deliver
  simp [h1, h2, sortPend]

/-! Messages and events. -/

/-- Posting a message: the mailbox has one more, and its core counts it. -/
theorem State.posted_post (s : State) (c : Nat) (m : Msg) (n : Nat) : ∃ m', Posted c s (s.post c m n) m' ∧
    m'.code = m.code ∧ m'.src = m.src ∧ m'.opSlot = m.opSlot ∧ m'.pc = m.pc ∧ m'.npc = m.npc ∧ m'.value = m.value ∧ m'.word = m.word ∧
    m'.addr = m.addr ∧ m'.kind = m.kind ∧ m'.cst = (s.core c).cst ∧ m'.posted = s.clock + n := by
  refine ⟨_, ⟨rfl, rfl, rfl, ?_, rfl, ?_, rfl⟩, rfl, rfl, rfl, rfl, rfl, rfl, rfl, rfl, rfl, rfl, rfl⟩
  · dsimp only [State.post]
    split
    · rfl
    · split <;> rfl
  · simp only [State.post, State.core]
    exact (congrArg Core.mseq (sget_sput_same _ _ _ _)).trans rfl

/-- The core that posts changes only its message count. -/
theorem State.core_post_same (s : State) (c : Nat) (m : Msg) (n : Nat) :
    (s.post c m n).core c = { s.core c with mseq := ((s.core c).mseq + 1) % 2 ^ 32 } := sget_sput_same _ _ _ _
theorem State.core_post_ne (s : State) {c d : Nat} (m : Msg) (n : Nat) (h : d ≠ c) : (s.post c m n).core d = s.core d := sget_sput_ne _ _ _ h

/-- A split leaves registers, memory and results in flight of its core, and every other core. -/
theorem State.splitBare_still (s : State) (n : Nat) (ops : List SlotOp) (kind : StopKind) (cause : Nat) :
    StillAt s.ctx.core s (s.splitBare n ops kind cause) := by
  refine ⟨?_, ?_, ⟨rfl, rfl, rfl, rfl, rfl⟩, fun d h => sget_sput_ne _ _ _ h⟩
  · exact (congrArg Core.rf (sget_sput_same _ _ _ _)).trans rfl
  · exact (congrArg Core.inflight (sget_sput_same _ _ _ _)).trans rfl

/-- So does an event. -/
theorem State.raiseEvent_still (s : State) (i : Instr) (e : Code × Word) : StillAt s.ctx.core s (s.raiseEvent i e) := by
  have h := s.splitBare_still s.ctx.slot (s.thisOp i :: s.ctx.todo) .split 3
  refine ⟨?_, ?_, ⟨rfl, rfl, rfl, rfl, rfl⟩, fun d hd => ?_⟩
  · rw [← h.rf]; exact (congrArg Core.rf (State.core_post_same _ _ _ _)).trans rfl
  · rw [← h.inflight]; exact (congrArg Core.inflight (State.core_post_same _ _ _ _)).trans rfl
  · exact (State.core_post_ne _ _ _ hd).trans (h.others d hd)

/-- And it posts its message with the code, value and place of the operation. -/
theorem State.raiseEvent_posted (s : State) (i : Instr) (e : Code × Word) : ∃ m, (s.raiseEvent i e).mail = s.mail ++ [m] ∧ m.code = e.1 ∧
    m.value = e.2 ∧ m.src = 0 ∧ m.opSlot = s.ctx.slot ∧ m.pc = s.ctx.pc ∧ m.npc = s.ctx.pc + s.ctx.len ∧ m.word = s.ctx.word :=
  ⟨_, rfl, rfl, rfl, rfl, rfl, rfl, rfl, rfl⟩

/-! Remote operations. -/

/-- Outside a region an operation enters CMQ. -/
theorem State.remote_outside (s : State) (pkts : List Packet) (h : s.cur.rgd = 0) :
    s.remote pkts = .ok (s.modCur (fun k => { k with cmq := k.cmq ++ [{ pkts := pkts, iss := s.cur.issued, word := s.ctx.word, pc := s.ctx.pc }] })) := by
  simp [State.remote, h]

end Sys2Proof.Machine
end

