-- ==== Sys2Proof/Laws/Fabric.lean ====
section
/-! SUPPORT. One law per shared operation of packets, ports, seats of a task and messages. -/

namespace Sys2Proof.Machine
open Sys2Proof

/-! Flags at a seat's port, and changes of a seat by its name. -/

theorem State.core_flagAt (s : State) (c f : Nat) (o : FlagOp) :
    (s.flagAt c f o).core c = { s.core c with flagBuf := (s.core c).flagBuf ++ [(f, o)] } := sget_sput_same _ _ _ _
theorem State.core_flagAt_ne (s : State) {c d : Nat} (f : Nat) (o : FlagOp) (h : d ≠ c) : (s.flagAt c f o).core d = s.core d := sget_sput_ne _ _ _ h
theorem State.sameMemory_flagAt (s : State) (c f : Nat) (o : FlagOp) : SameMemory s (s.flagAt c f o) := ⟨rfl, rfl, rfl, rfl, rfl⟩

/-- A seat that is placed is changed on its core. -/
theorem State.modSeat_placed (s : State) (job taskid seat c : Nat) (t : Task) (f : Core → Core) (h : s.liveTask job taskid = some t)
    (hs : seat ∉ t.saved) (hc : t.cores[seat]? = some c) : s.modSeat job taskid seat f = s.modCore c f := by
  simp [State.modSeat, h, hs, hc]
theorem State.sameMemory_modSeat (s : State) (job taskid seat : Nat) (f : Core → Core) : SameMemory s (s.modSeat job taskid seat f) := by
  unfold State.modSeat
  repeat' split
  all_goals exact ⟨rfl, rfl, rfl, rfl, rfl⟩

/-! Responses (22 R397). -/

theorem State.answerTag_none (s : State) (p : Packet) (f : Landing → Landing) (h : s.askedBy p = none) : s.answerTag p f = s := by
  simp [State.answerTag, h]
theorem State.answerTag_placed (s : State) (p : Packet) (f : Landing → Landing) (a : Asked) (t : Task) (c : Nat) (h : s.askedBy p = some a)
    (hl : s.liveTask a.job a.taskid = some t) (hs : a.seat ∉ t.saved) (hc : t.cores[a.seat]? = some c) :
    s.answerTag p f = ({ s with asked := s.asked.erase a } : State).modCore c (fun k => if k.gen = a.gen then k.onTag a.tag f else k) := by
  simp only [State.answerTag, h]
  exact State.modSeat_placed _ _ _ _ _ t _ hl hs hc

/-! What a packet that has come comes to (15 R297, 21 R379). -/

theorem State.hold_no_block (s : State) (p : Packet) (t : Task) (h : t.blocks = []) : s.hold p t = s.spillTo p t := by
  simp [State.hold, State.holdIo, Io.get, h]
theorem State.settle_no_type (s : State) (p : Packet) (h : p.ty = 0) : s.settle p = s := by simp [State.settle, h]
theorem State.settle_held (s : State) (p : Packet) (t : Task) (h : p.ty ≠ 0) (hl : s.liveTask p.job.toNat p.taskid.toNat = some t)
    (hh : s.mustHold p t = true) : s.settle p = s.hold p t := by
  rw [State.settle, if_neg h]; simp [hl, hh]
theorem State.settle_segment (s : State) (p : Packet) (t : Task) (h : p.ty ≠ 0) (hl : s.liveTask p.job.toNat p.taskid.toNat = some t)
    (hh : s.mustHold p t = false) (hw : s.worldOk p = false) : s.settle p = s.rejectPacket p .segment := by
  rw [State.settle, if_neg h]; simp [hl, hh, hw]
theorem State.settle_podtarget (s : State) (p : Packet) (t : Task) (h : p.ty ≠ 0) (hl : s.liveTask p.job.toNat p.taskid.toNat = some t)
    (hh : s.mustHold p t = false) (hw : s.worldOk p = true) (ht : s.targetOk p t = false) : s.settle p = s.rejectPacket p .podtarget := by
  rw [State.settle, if_neg h]; simp [hl, hh, hw, ht]

/-! Ports (14 R283, 21 R385, R386). -/

theorem State.emit_notYet (s : State) (p : Packet) (h : s.sendPort p.job.toNat p.dmod.toNat = .notYet) : s.emit p = { s with replies := s.replies ++ [p] } := by
  simp [State.emit, h]
theorem State.emit_unreachable (s : State) (p : Packet) (h : s.sendPort p.job.toNat p.dmod.toNat = .unreachable) : s.emit p = s.losePacket p 35 := by
  simp [State.emit, h]
theorem State.port_freshKeys (s : State) (n : Nat) : sget {} (s.freshKeys n).ports n =
    { sget {} s.ports n with keyOut := s.serial, keyIn := s.serial + 1, salt := Config.linkSalt s.serial, sent := 0, recvd := 0 } :=
  sget_sput_same _ _ _ _
theorem State.port_freshKeys_ne (s : State) {n m : Nat} (h : m ≠ n) : sget {} (s.freshKeys n).ports m = sget {} s.ports m := sget_sput_ne _ _ _ h
theorem State.sameMemory_freshKeys (s : State) (n : Nat) : SameMemory s (s.freshKeys n) := ⟨rfl, rfl, rfl, rfl, rfl⟩
theorem State.cores_freshKeys (s : State) (n : Nat) : (s.freshKeys n).cores = s.cores := rfl

/-! Merges, and messages that go unanswered. -/

theorem State.preMerge_hbm (s : State) (pa key va : Nat) (ds : List (Byte × Byte)) : s.preMerge (.hbm pa key va) ds = none := rfl
theorem State.preMerge_host (s : State) (ba key va : Nat) (ds : List (Byte × Byte)) : s.preMerge (.host ba key va) ds = none := rfl
theorem State.mail_dropMail (s : State) (c : Nat) (a : Action) : (s.dropMail c a).mail = s.mail.filter (fun m => m.core != c) := rfl

end Sys2Proof.Machine
end

