-- ==== Sys2Proof/Tests/Slice0.lean ====
section
/-! SUPPORT. The model's own tests: words written out from the spec's encodings, ill-formed operations that the checks refuse, one-step tests
with the spec's worked values, and for every statement with hypotheses a state and operands that meet them. -/

namespace Sys2Proof.Tests
open Sys2Proof Sys2Proof.Machine
/- One after another: each test that the kernel evaluates would else wait in a thread of its own for those before it. -/
set_option Elab.async false

/-! Decoding: one word at least of every family, from the encodings of 07 and the instruction's own section. -/

theorem test_decode_a0_add : decodeSlot 0 none 0x0000018060200000 = .ok (.add ⟨0, false⟩ 3 (.reg 3) (.reg 4)) := rfl
theorem test_decode_a0_addi : decodeSlot 0 none 0x00800280A0000008 = .ok (.addi ⟨0, false⟩ 5 (.reg 5) 8) := rfl
theorem test_decode_v_vadd : decodeSlot 2 none 0x0000040120500000 = .ok (.vadd ⟨0, false⟩ ⟨false, 0⟩ .f32 8 (.reg 9) (.reg 10)) := rfl
theorem test_decode_v_vfma : decodeSlot 2 none 0x00D4040120520000 = .ok (.vfma ⟨5, false⟩ ⟨false, 0⟩ .f32 8 (.latch 9) (.reg 10)) := rfl
theorem test_decode_m_mma : decodeSlot 4 none 0x0000110803000003 = .ok (.mma ⟨0, false⟩ ⟨false, 0⟩ 2 (.reg .fp8a 64) (.reg .fp8b 96)) := rfl
theorem test_decode_l_ld : decodeSlot 5 none 0x0000140060008180 = .ok (.ld ⟨0, false⟩ ⟨true, 1⟩ .b256 false (.v 40) (.reg 3) 0) := rfl
theorem test_decode_l_ldg : decodeSlot 5 none 0x0100048094280A05 = .ok (.ldg ⟨0, false⟩ .b4 true (.s 9) (.reg 4) 5 40 5) := rfl
theorem test_decode_c_fsetM : decodeSlot 6 none 0x02E07D8280C00000 = .ok (.fsetM ⟨8, false⟩ 251 (.reg (.reg 20)) (.reg 24) 0) := rfl
theorem test_decode_b_loopR : decodeSlot 7 none 0x014000804000FFF4 = .ok (.loopR ⟨0, false⟩ 0xFFF4 2) := rfl
theorem test_decode_b_sealAdd : decodeSlot 7 none 0x04C00001800000C1 = .ok (.sealAdd ⟨0, false⟩ (.reg 12)) := rfl
theorem test_decode_cp_put : decodeCp 0x3298060F = .ok (.cpPut 1 2 3 3 15) := rfl
theorem test_decode_cp_flag : decodeCp 0x68000109 = .ok (.cpFlag 4 false 1 9) := rfl
theorem test_decode_cp_end : decodeCp 0xF0000000 = .ok .cpEnd := rfl
/-- 20 R362: an undefined opcode of a slot is refused by the decoder's own constructor, and 20 R366 so is an undefined micro-instruction. -/
theorem test_decode_undefined : decodeSlot 0 none 0xFF80000000000000 = .ok (.undefopc 0 0xFF80000000000000) ∧
    decodeCp 0x90000000 = .ok .cpUndefopc := ⟨rfl, rfl⟩
/-- 20 R363: a reserved field, a vector predicate guarding the A slot and a hold bit where none is allowed are refused by name. -/
theorem test_decode_refused : decodeSlot 0 none 0x0000018060200001 = .error .rsvdField ∧
    decodeSlot 0 none 0x0004018060200000 = .error .predCluster := ⟨rfl, rfl⟩
/-- The rows of the opcode table that fix their bits. -/
theorem test_decode_table_word : decodeTableWord 32 0 = some .emptyBundle ∧ decodeTableWord 32 0xF0000000 = some .cpEnd := ⟨rfl, rfl⟩

/-! Ill-formed operations, one for each check of WellFormed.lean. -/

def g0 : Guard := ⟨0, false⟩
def st0 : Sticky := ⟨false, 0⟩

theorem test_illformed_guards : wellFormed (.add ⟨1, false⟩ 1 (.reg 1) (.reg 1)) = false ∧
    wellFormed (.vadd ⟨8, false⟩ st0 .f32 1 (.reg 1) (.reg 1)) = false ∧ wellFormed (.drq ⟨1, false⟩ 0 1 false 1) = false := by decide
theorem test_illformed_sticky : wellFormed (.vadd g0 ⟨false, 1⟩ .f32 1 (.reg 1) (.reg 1)) = false := by decide
theorem test_illformed_latch : wellFormed (.vadd g0 st0 .f32 1 (.latch 0x3FF) (.reg 1)) = false := by decide
theorem test_illformed_clusters : wellFormed (.sel g0 1 1 (.reg 1) (.reg 1)) = false ∧ wellFormed (.cmp g0 .eq 7 (.reg 1) (.reg 1)) = false ∧
    wellFormed (.pand g0 8 1 false 8 false) = false ∧ wellFormed (.pmov g0 0 1 false) = false ∧
    wellFormed (.vpset g0 8 (.reg 1)) = false ∧ wellFormed (.vpand g0 1 8 false 1 false) = false := by decide
theorem test_illformed_extr : wellFormed (.extr g0 1 (.reg 1) 1 63 false) = false ∧ wellFormed (.extr g0 1 (.reg 1) 0 63 false) = true := by decide
theorem test_illformed_types : wellFormed (.vadd g0 st0 .fp8a 1 (.reg 1) (.reg 1)) = false ∧ wellFormed (.vmul g0 st0 .int32 1 (.reg 1) (.reg 1)) = false ∧
    wellFormed (.vabs g0 st0 .uint32 1 (.reg 1)) = false ∧ wellFormed (.vscale g0 st0 .bf16 1 (.reg 1) (.reg 1)) = false ∧
    wellFormed (.vadds g0 st0 .f32 1 (.reg 1) (.reg 1)) = false ∧ wellFormed (.vmullo g0 st0 .int8 1 (.reg 1) (.reg 1)) = false ∧
    wellFormed (.vbcst g0 .fp4 1 (.reg 1)) = false ∧ wellFormed (.viota g0 .f32 1 (.reg 1)) = false ∧
    wellFormed (.vcmp g0 .un .int32 1 (.reg 1) (.reg 1)) = false ∧ wellFormed (.vsum g0 .bf16 1 (.reg 1)) = false ∧
    wellFormed (.tadd g0 .bf16 1 1) = false ∧ wellFormed (.stNb g0 .bf16 (.reg 1) (.reg 1) 1 0 0) = false := by decide
theorem test_illformed_counts : wellFormed (.vshl g0 st0 .int8 1 (.reg 1) (.imm 8)) = false ∧ wellFormed (.vli g0 .int8 1 256) = false ∧
    wellFormed (.defer g0 1 5) = false ∧ wellFormed (.cxs g0 .f32 1 2 1 6) = false ∧ wellFormed (.xpack g0 st0 .bf16 1 (.reg 1) 2) = false ∧
    wellFormed (.waitany g0 .ge 255 1 (.imm 0)) = false ∧ wellFormed (.qfence g0 0) = false ∧ wellFormed (.trap g0 0xC1 (.reg 1)) = false := by decide
theorem test_illformed_vcvt : wellFormed (.vcvt g0 1 (.reg 1) (.plain .bk4 .f32 .rne 0 0)) = false ∧
    wellFormed (.vcvt g0 1 (.reg 1) (.plain .f32 .bf16 .sr 0 0)) = false ∧ wellFormed (.vcvt g0 1 (.reg 1) (.plain .bf16 .f32 .rne 2 0)) = false ∧
    wellFormed (.vcvt g0 1 (.reg 1) (.block .bf16 .rne 0 2)) = false := by decide
theorem test_illformed_matrix : wellFormed (.mma g0 st0 0 (.reg .f32 0) (.mem 1)) = false ∧ wellFormed (.mma g0 st0 0 (.mem 0) (.mem 1)) = false ∧
    wellFormed (.mma g0 st0 0 (.reg .fp8a 0) (.reg .int8 0)) = false ∧ wellFormed (.tld g0 st0 0 (.mem 63)) = false ∧
    wellFormed (.tstMemory g0 st0 0 0) = false := by decide
theorem test_illformed_sizes : wellFormed (.ld g0 st0 .b64 false (.v 1) (.reg 1) 0) = false ∧ wellFormed (.ld g0 st0 .b8 true (.s 1) (.reg 1) 0) = false ∧
    wellFormed (.ld g0 st0 .b8 false (.v 1) (.reg 1) 0) = false ∧ wellFormed (.st g0 st0 .b256 (.s (.reg 1)) (.reg 1) 0) = false ∧
    wellFormed (.send g0 .b8 1 (.reg 1) 0) = false ∧ wellFormed (.ldg g0 .b8 false (.s 1) (.reg 1) 1 0 0) = false := by decide
theorem test_illformed_registers : wellFormed (.faddRemote g0 0 (.imm 1)) = false ∧ wellFormed (.faddbRemote g0 1 1 0 1 0 0) = false ∧
    wellFormed (.seqGo g0 0 0 57) = false ∧ wellFormed (.chset g0 0 61) = false := by decide

/-! One step each, with values from the spec's own examples. -/

/-- 09 R179's example: VADDS.INT8 and VADD.INT8 of 0x7F800102 and 0x0180FF7F. -/
theorem test_vadds_int8 : (map2 .int8 (eAdds .int8) 0x7F800102 0x0180FF7F).setWidth 32 = (0x7F80007F : W32) := by decide +kernel
theorem test_vadd_int8 : (map2 .int8 (eAdd .int8) 0x7F800102 0x0180FF7F).setWidth 32 = (0x80000081 : W32) := by decide +kernel
/-- 05 Table 5.2: FP4 code 0b1000 is −0, and 0b0111 is 6. -/
theorem test_fp4_codes : roundTo .f32 .rne (decodeF .fp4 7) 0 = 0x40C00000 ∧ roundTo .f32 .rne (decodeF .fp4 8) 0 = 0x80000000 := by decide +kernel

/-! States and operands for the statements' hypotheses. A core with a seat, and the state in which its bundle issues. -/

def kA : Core :=
  { placed := true, started := true, begun := true, ran := true, task := 7, seat := 1, nseats := 12, job := 1, taskid := 5, gen := 1
    textLen := 64, vsize := 1, feat := 0x7FF, regions := [0x10000], psize := 0x1000
    rf := { allot := 16, s := [(1, 0x100), (2, 0xFFFFFFFFFFFFFFFF), (3, 0x9000000100000100), (4, 0xC000018100000005)]
            p := [(1, 0xFFFFFFFFFFFFFFFF), (8, 1)], near := [(0x3FF00, 3), (0x3FF04, 5)] } }
def at_ (k : Core) (slot : Nat := 0) : State := { cores := [(0, k)], ctx := { src := k.rf, slot := slot } }
def sA : State := at_ kA

theorem test_state_on : sA.on g0 = true ∧ sA.on ⟨8, false⟩ = true ∧ sA.on ⟨8, true⟩ = false := by decide +kernel

theorem witness_BitFieldsAndMovesComplete : (0 : BitVec 6).toNat + ((63 : BitVec 6).toNat + 1) ≤ 64 := by decide
theorem witness_LoadImmediatePair : sA.ctx.slot = 0 ∧ (1 : SReg).toNat ≠ 0 ∧ (∀ p ∈ sA.cur.inflight, p.iss < sA.cur.issued) ∧
    sA.on g0 = true ∧ sA.on ⟨8, true⟩ = false := by decide +kernel
theorem witness_ComparesAndPredicatesComplete : SCond.says .eq (sA.rdS 1 (.reg 1)) (sA.rdS 2 (.reg 1)) ∧
    ¬ SCond.says .ltu (sA.rdS 1 (.reg 2)) (sA.rdS 2 (.reg 1)) ∧ SCond.says .lt (sA.rdS 1 (.reg 2)) (sA.rdS 2 (.reg 1)) := by
  unfold SCond.says; decide +kernel
theorem witness_SpecialRegistersComplete : (3 < 4) ∧ 1 ≤ (16 : Word).toNat % 32 ∧ (16 : Word).toNat % 32 ≤ 16 ∧ 1 ≤ (1 : Word).toNat % 32 ∧
    (256 : Word).toNat ≤ 256 ∧ (256 : Word).toNat % 8 = 0 ∧ 3 < kA.dom.length := by decide
theorem witness_PointersAndRepeatComplete : (256 : Word).toNat ≤ 256 ∧ windowOf (0xC000018100000005 : Word) = some .pod ∧
    windowOf (0xB000000000000000 : Word) = none ∧ sA.on g0 = true ∧ kA.seat / kA.width < 128 ∧ field (0x9000000100000100 : Word) 47 32 = kA.seat ∧
    field (0x9000000200000100 : Word) 47 32 ≠ kA.seat ∧ field (0x8000000000000FFF : Word) 31 0 < kA.psize ∧
    kA.psize ≤ field (0x8000000000001000 : Word) 31 0 ∧ field (0xC000018100000005 : Word) 51 40 ≠ (2 : Word).toNat % 2 ^ 12 ∧
    field (0xC000008000000005 : Word) 39 39 = 1 ∧ field (0xC000000000000005 : Word) 39 39 = 0 ∧ 2 ^ 57 ≤ 2 ^ 57 ∧
    kA.pbase + kA.seat * kA.pstride ≤ field (0xFFF : Word) 56 0 ∧ field (0xFFF : Word) 56 0 < kA.pbase + kA.seat * kA.pstride + kA.psize ∧
    ¬ field (0x1000 : Word) 56 0 < kA.pbase + kA.seat * kA.pstride + kA.psize ∧ kA.pbase + kA.seat * kA.pstride + kA.psize ≤ 2 ^ 57 ∧
    (Window.scratch, Window.gallery) ∉ [(Window.priv, Window.global), (.global, .priv), (.scratch, .pod), (.gallery, .pod), (.pod, .scratch), (.pod, .gallery)] ∧
    windowOf (0x9000000200000100 : Word) = some .scratch ∧ windowOf (0xA000000000000005 : Word) = some .gallery ∧ windowOf (0x1000 : Word) = some .global ∧
    windowOf (0x8000000000000FFF : Word) = some .priv ∧ field (0xC000018100000005 : Word) 51 40 = (1 : Word).toNat % 2 ^ 12 ∧
    field (0xC000000000000005 : Word) 51 40 = (0 : Word).toNat % 2 ^ 12 := by
  decide +kernel
/-- Two results and a landing for one register, due in one cycle. -/
def pend (slot iss : Nat) (v : Vec) : Pend := { due := 0, slot := slot, iss := iss, dest := .s 1, value := v }
def kPend : Core := { kA with inflight := [pend 2 1 5, pend 0 2 6], landing := [(3, some { due := 0, dest := .s 1, slot := 5, req := .memory 0 8 })] }
theorem witness_ResultsCommit : (pend 2 1 5).dest = .s 1 ∧ (∀ r ∈ [{ pend 0 0 5 with due := 1 }], kA.sched < r.due) ∧
    kPend.dueEntries.length = 1 ∧ kPend.inflight.filter (fun x => x.due ≤ kPend.sched) = kPend.inflight ∧
    ({ pend 0 0 5 with dest := .p 8 } : Pend).mask = BitVec.allOnes 2048 := by decide +kernel
theorem test_commit_order : kPend.runCycle.rf.sreg 1 = 0 ∧ ({ kPend with landing := [] } : Core).runCycle.rf.sreg 1 = 5 := by decide +kernel

theorem witness_VectorArithmeticCompletes : sA.dstV st0 1023 = .ok 1023 ∧ sA.rdV 0 st0 (.reg 1023) = .ok (sA.src.vreg 1023) ∧
    sA.rdV 1 st0 (.reg 0) = .ok (sA.src.vreg 0) ∧ sA.rdV 2 st0 .held = .ok 0 := ⟨rfl, rfl, rfl, rfl⟩
theorem witness_VectorElements : Fmt.isInt4 .int8 = true ∧ 255 < 2 ^ Fmt.width .int8 ∧ Fmt.isI32 .uint32 = true ∧ 255 < 2048 / Fmt.width .uint8 := by decide
theorem witness_FloatCodesAreExact : Fmt.isFloat .fp8a = true ∧ Fmt.isElem .fp8a = true ∧ 0x7E < 2 ^ Fmt.width .fp8a ∧ isNanCode .fp8a 0x7E = false := by
  decide +kernel
theorem witness_float_elements : Fmt.bf16 ∈ [Fmt.f32, .bf16, .fp16] ∧ 0xFF80 < 2 ^ Fmt.width .bf16 ∧ (decodeF .bf16 0xBF80).isFinite = true ∧
    decodeF .bf16 0xFF80 = .inf true ∧ decodeF .bf16 0x7FC0 = .nan ∧ NanProduct (decodeF .bf16 0xFF80) (decodeF .bf16 0) ∧
    InfProduct (decodeF .bf16 0xFF80) (decodeF .bf16 0xBF80) false := by
  have h : decodeF .bf16 0xFF80 = .inf true ∧ decodeF .bf16 0xBF80 = .fin true 128 (-7) ∧ (decodeF .bf16 0).isZero = true := by decide +kernel
  refine ⟨by decide, by decide, by decide +kernel, h.1, by decide +kernel, Or.inr (Or.inr (Or.inl ⟨⟨_, h.1⟩, h.2.2⟩)), ?_⟩
  rw [h.1, h.2.1]
  exact ⟨by simp [NanProduct, FVal.IsInf, FVal.isZero], Or.inl ⟨_, rfl⟩, rfl⟩
/-- Between the greatest FP4 value, 6, and its overflow point, 8. -/
theorem witness_rounding : (decodeF .fp4 7).rat = 6 ∧ (6 : ℚ) < (7 : Nat) * 2 ^ (0 : ℤ) ∧
    ((7 : Nat) : ℚ) * 2 ^ (0 : ℤ) < 8 ∧ (8 : ℚ) ≤ (1 : Nat) * 2 ^ (3 : ℤ) ∧ ((3 : Nat) : ℚ) * 2 ^ (1 : ℤ) = 6 ∧ 2 ^ 32 - 1 < 2 ^ 32 := by
  have h : decodeF .fp4 7 = .fin false 3 1 := by decide +kernel
  rw [h, FVal.rat]; norm_num
theorem witness_codes : 0xFF < 2 ^ (1 + 4 + 3) ∧ (Fmt.fp8a = .fp8a ∧ 0xFF / 2 ^ 3 % 2 ^ 4 = 15 ∧ 0xFF % 2 ^ 3 = 7) ∧
    (Fmt.fp8b ∈ [Fmt.f32, .bf16, .fp16, .fp8b] ∧ 0x7C / 2 ^ 2 % 2 ^ 5 = 2 ^ 5 - 1 ∧ 0x7C % 2 ^ 2 = 0) ∧ 7 / 2 ^ 3 % 2 ^ 4 = 0 ∧ 0x7E / 2 ^ 3 % 2 ^ 4 ≠ 0 := by decide
theorem witness_conditions : 0x80000000 < 2 ^ 32 ∧ (decodeF .f32 0x80000000).isFinite = true ∧ (decodeF .f32 0x7F7FFFFF).isFinite = true ∧ Fmt.isI32 .int32 = true := by
  decide +kernel
theorem witness_convert : Fmt.isElem .fp4 = true ∧ Fmt.isElem .int8 = true ∧ Fmt.isElem .fp8b = true ∧ 0xFF < 2 ^ Fmt.width .int8 ∧ Fmt.isFloat .fp4 = true ∧
    Fmt.isFloat .int8 = false ∧ decodeF .fp8b 0x7F = .nan ∧ decodeF .fp8b 0xFC = .inf true ∧ (decodeF .fp8b 0x7B).isFinite = true := by decide +kernel
/-- Blocks of zeros, of ones, and of infinities. -/
theorem witness_blocks : (∃ x ∈ List.replicate 64 (FVal.inf true), x.isFinite = false) ∧
    (∀ m, m ≤ 1 → (List.replicate 64 (FVal.fin true m 0)).length = 64 ∧ (∀ x ∈ List.replicate 64 (FVal.fin true m 0), x.isFinite = true) ∧
      (∃ x ∈ List.replicate 64 (FVal.fin true m 0), |x.rat| = m) ∧ ∀ x ∈ List.replicate 64 (FVal.fin true m 0), |x.rat| ≤ m) := by
  refine ⟨⟨.inf true, by simp, rfl⟩, fun m _ => ⟨by simp, fun x h => ?_, ⟨.fin true m 0, by simp, by simp [FVal.rat]⟩, fun x h => ?_⟩⟩
  · rw [(List.mem_replicate.mp h).2]; rfl
  · rw [(List.mem_replicate.mp h).2]; simp [FVal.rat]
theorem witness_VectorMovesAndPredicatesComplete : sA.dstV st0 0 = .ok 0 ∧ sA.dstV noStep 63 = .ok 63 ∧ sA.rdV 1 st0 (.reg 0) = .ok (sA.src.vreg 0) ∧
    sA.rdV 1 noStep (.reg 0) = .ok (sA.src.vreg 0) ∧ sA.rdV 2 noStep (.reg 1) = .ok (sA.src.vreg 1) := ⟨rfl, rfl, rfl, rfl, rfl⟩
theorem witness_SpecialAndReductionsComplete : sA.dstV noStep 0 = .ok 0 ∧ sA.rdV 1 noStep (.reg 0) = .ok (sA.src.vreg 0) ∧ Fmt.isI32 .int32 = true ∧
    (1 : Word).getLsbD 0 = true ∧ (1 : Word) ≠ 0 := ⟨rfl, rfl, rfl, rfl, by decide⟩
/-- The tree of VSUM over the active lanes, and the formats it has. -/
def treeNode (ty : Fmt) (gm : Word) (x : Vec) : Nat → Nat → Nat
  | 0, j => if gm.getLsbD j then (lane x j).toNat else if ty = .f32 then 0x80000000 else 0
  | l + 1, i => if ty = .f32 then roundTo .f32 .rne ((decodeF .f32 (treeNode ty gm x l (2 * i))).add (decodeF .f32 (treeNode ty gm x l (2 * i + 1))))
    else (treeNode ty gm x l (2 * i) + treeNode ty gm x l (2 * i + 1)) % 2 ^ 32
theorem witness_tree : Fmt.isW32 .f32 = true ∧ ∀ (gm : Word) (x : Vec),
    (∀ j, j < 64 → treeNode .f32 gm x 0 j = if gm.getLsbD j then (lane x j).toNat else 0x80000000) ∧
    ∀ l i, treeNode .f32 gm x (l + 1) i =
      roundTo .f32 .rne ((decodeF .f32 (treeNode .f32 gm x l (2 * i))).add (decodeF .f32 (treeNode .f32 gm x l (2 * i + 1)))) :=
  ⟨rfl, fun _ _ => ⟨fun _ _ => rfl, fun _ _ => rfl⟩⟩
theorem witness_ConversionsComplete : sA.cur.feat.getLsbD 3 = true ∧ sA.dstV noStep 0 = .ok 0 ∧ sA.rdV 1 noStep (.reg 1) = .ok (sA.src.vreg 1) ∧
    sA.dstV noStep 2 = .ok 2 ∧ groupMask (Fmt.width .fp8a) 3 (sA.guard g0) ≠ 0 ∧ sA.guard g0 ≠ 0 :=
  ⟨by decide +kernel, rfl, rfl, rfl, by decide +kernel, by decide +kernel⟩
theorem witness_DeferralCompletes : (∃ vs, sA.rdRun 0 4 = .ok vs) ∧ sA.cur.dq.length + sA.cur.dqRetained.length + 64 ≤ 2048 ∧
    (∃ ds, sA.dstRun 0 5 = .ok ds) ∧ sA.guard ⟨0, true⟩ = 0 ∧ sA.guard g0 ≠ 0 := ⟨⟨_, rfl⟩, by decide +kernel, ⟨_, rfl⟩, by decide +kernel, by decide +kernel⟩
/-- One entry in the queue, which DRQ takes when it flushes. -/
def sDq : State := at_ { kA with dq := [{ lane := 3, vals := [5] }] } 2
theorem witness_drq : 0 < min sDq.cur.dq.length 64 ∧ sDq.cur.dq[0]? = some { lane := 3, vals := [5] } ∧ 3 < 2 ^ 32 ∧ (∃ ds, sDq.dstRun 0 2 = .ok ds) ∧
    sDq.guard g0 ≠ 0 ∧ (1 : BitVec 3).toNat ≤ 4 := ⟨by decide, rfl, by decide, ⟨_, rfl⟩, by decide +kernel, by decide⟩
theorem witness_PermutesComplete : sA.dstV noStep 0 = .ok 0 ∧ sA.rdV 1 noStep (.reg 1) = .ok (sA.src.vreg 1) ∧ sA.rdV 2 noStep (.reg 2) = .ok (sA.src.vreg 2) ∧
    sA.dstV st0 0 = .ok 0 ∧ sA.rdV 1 st0 (.reg 1) = .ok (sA.src.vreg 1) ∧ (7 : BitVec 3).toNat < Fmt.groups .fp4 ∧
    (sA.src.preg 8).getLsbD 0 = true ∧ onesIn (sA.src.preg 8) ≤ 1 :=
  ⟨rfl, rfl, rfl, rfl, rfl, by decide, by decide +kernel, by decide +kernel⟩
theorem witness_ExchangeAndTransposeComplete : sA.dstV noStep 0 = .ok 0 ∧ sA.dstV noStep 1 = .ok 1 ∧ (5 : BitVec 3).toNat < 6 ∧ sA.dstV st0 1 = .ok 1 ∧
    sA.rdV 1 st0 (.reg 0) = .ok (sA.src.vreg 0) ∧ (sA.guard g0).getLsbD 0 = true ∧ (sA.guard g0).getLsbD 32 = true :=
  ⟨rfl, rfl, by decide, rfl, rfl, by decide +kernel, by decide +kernel⟩

/-- A descriptor of FP8A lines of 64 bytes (10 Table 10.2), and one of a tile whose rows are 256 bytes apart. -/
def kM : Core := { kA with rf := { kA.rf with allot := 8, s := [(4, 0x9000000100000000), (5, 0x0000003000000040), (6, 0x9000000100000100), (7, 0x100)] } }
def sM : State := at_ kM 4
theorem witness_MatrixCommandsIssue : (∃ x, sM.Captures st0 (.reg .fp8b 0) 0 (sM.matFormat (.mem 4) (saWords (.reg .fp8b 0))) x) ∧
    (∃ y, sM.Captures st0 (.mem 4) (saWords (.reg .fp8b 0)) (sM.matFormat (.reg .fp8b 0) 0) y) ∧ saWords (.mem 4) = 2 ∧ vphys sM.src 511 = .ok 511 ∧ (∃ rows, sM.rdSpan st0 448 64 = .ok rows) ∧
    tileDescOk false (sM.matPair 6 0).2 = true ∧ tileDescOk true (sM.matPair 6 0).2 = true ∧
    sM.checkMatrix (sM.stepBase st0 (sM.matPair 6 0).1 (sM.matPair 6 0).2) (sM.matPair 6 0).2 256 0 = .ok () ∧ (∃ ds, sM.dstSpan st0 448 64 = .ok ds) :=
  ⟨⟨_, _, rfl, rfl⟩, ⟨_, .fp8a, rfl, by decide +kernel, fun h e => by cases e; rfl, rfl, rfl⟩, rfl, rfl, ⟨_, rfl⟩, by decide +kernel, by decide +kernel, rfl,
    ⟨_, rfl⟩⟩
def entry (c : MCmd) : MEntry := { cmd := c, guard := 1, enq := 0, iss := 0 }
def kQ (c : MCmd) : Core := { kA with cyc := 1, mxq := [entry c], tileClear := [(0, 1, 0), (1, 2, 0)], tileBusy := [0, 1] }
def sQ (c : MCmd) : State := at_ (kQ c)
theorem witness_MatrixProduct : ((sQ (.mma false 0 (.regs .int8 [] 0) (.regs .uint8 [] 0))).core 0).mxq = [entry (.mma false 0 (.regs .int8 [] 0) (.regs .uint8 [] 0))] ∧
    (let s := sQ (.mma false 0 (.regs .int8 [] 0) (.regs .uint8 [] 0)); (s.core 0).engineFree s.clock (s.core 0).driven = true ∧
      (s.core 0).tilePoison = [] ∧ (s.core 0).broken = []) := by decide +kernel
theorem witness_TileCommandsPerform : (∀ c ∈ [MCmd.tzero 0, .tldReg 0 [7], .tscale true 0 0, .tadd .f32 0 1],
      ((sQ c).core 0).mxq = [entry c] ∧ ((sQ c).core 0).engineFree (sQ c).clock ((sQ c).core 0).driven = true) ∧
    ((sQ (.tzero 0)).core 0).tilePoison = [] ∧ ((sQ (.tzero 0)).core 0).broken = [] ∧ ((sQ (.tzero 0)).core 0).weak = [] ∧
    ((sQ (.tzero 0)).core 0).run = none ∧ (entry (.tzero 0)).guard.getLsbD 0 = true ∧ (entry (.tzero 0)).guard.getLsbD 1 = false := by
  decide +kernel
/-- Entries with operands in the scratchpad, in the own vault and in that of gallery 1, which the team's windows reach. -/
def sQw (c : MCmd) : State :=
  { sQ c with gals := [(0, { windows := [(7, 0, 0x20000, 0x10000)] }), (1, { windows := [(7, 1, 0x30000, 0x10000)] })] }
def nearW : Word := 0x9000000100000000
def galW : Word := 0xA000000100000000
theorem witness_tile_windows : ∀ c ∈ [MCmd.tldMem 0 nearW 0x100, .tstMem nearW 0x100 0, .tldMem 0 galW 0x100, .tstMem galW 0x100 0,
      .mma true 0 (.mem nearW 0x0000003000000040) (.mem galW 0x0000003000000040)],
    ((sQw c).core 0).mxq = [entry c] ∧ (sQw c).engineReady 0 = true ∧ ((sQw c).core 0).tilePoison = [] ∧ ((sQw c).core 0).broken = [] ∧
    ((sQw c).core 0).rf.nearPoison = [] ∧ ((sQw c).core 0).rf.soft = [] ∧ ((sQw c).core 0).weak = [] ∧ ((sQw c).core 0).run = none ∧
    ((sQw c).core 0).correct ≤ (sQw c).clock ∧ 256 ≤ field 0x100 15 0 ∧ windowOf nearW ≠ some .gallery ∧ windowOf galW = some .gallery ∧
    (sQw c).vaultWindow ((sQw c).core 0).task (field galW 38 32) = some (1, 0x30000) := by decide +kernel
theorem sQw_clean (c : MCmd) (g : Nat) : ((sQw c).gal g).poison = [] ∧ ((sQw c).gal g).soft = [] := by
  have h : (sQw c).gal g = sget {} [(0, { windows := [(7, 0, 0x20000, 0x10000)] }), (1, { windows := [(7, 1, 0x30000, 0x10000)] })] g := rfl
  rw [h]
  match g with
  | 0 => exact ⟨rfl, rfl⟩
  | 1 => exact ⟨rfl, rfl⟩
  | g + 2 => exact ⟨rfl, rfl⟩
theorem witness_product_classes : (MSrc.mem nearW 0x0000003000000040).fmt.mclass = some .fp8 ∧ (MClass.fp8, 4) ∈ [(MClass.fp8, 4), (.fp4, 8), (.half, 2)] ∧
    (MSrc.regs .int8 [] 0).fmt.mclass = some .int8 ∧ (entry (.tzero 0)).guard.getLsbD 0 = true := by decide +kernel
theorem test_tile_clear_point : (match execTileClearPoint 0 (sQ (.tzero 0)) with
    | .next t => (t.core 0).tileBusy
    | _ => []) = [1] := by decide +kernel

def kL : Core :=
  { kA with
    rf := { kA.rf with allot := 15, s := [(1, 0x3F00), (2, 0), (3, 0x90000001000000F8), (4, 0x0000000000010000), (5, 0x9000000100003FFC)]
                       near := [(0xF8, 0x81), (0x3FFC, 7)] }
    tcache := [{ vbase := 0x10000, len := 0x10000, pbase := 0x40000, world := 0, w := true, x := false, d := true, host := false, key := 0 }] }
def sL : State := at_ kL 5
theorem witness_WindowLoadsComplete : sL.on g0 = true ∧ sL.dstX st0 (.v 959) = .ok (.v 959) ∧
    sL.rawOff st0 (.reg 1) (-1) 256 + 256 = 0x3F00 ∧ sL.rawOff st0 (.reg 1) 0 256 + 256 ≤ sL.src.limit ∧ sL.rawOff st0 (.reg 1) 0 256 % 256 = 0 ∧
    sL.rawOff st0 (.reg 1) 0 256 + 256 ≤ sL.cur.vsize * 0x10000 ∧ sL.ctx.under = [] ∧ sL.dstX noStep (.s 1) = .ok (.s 1) ∧
    sL.rawOff noStep (.reg 1) 0 256 + 256 ≤ 0x4000 ∧ kL.rf.allot ≤ 16 ∧ 959 < 64 * kL.rf.allot :=
  ⟨rfl, rfl, by decide +kernel, by decide +kernel, by decide +kernel, by decide +kernel, rfl, rfl, by decide +kernel, by decide +kernel, by decide +kernel⟩
/-- The last word below the scratchpad limit of ALLOT 15 loads; a sign is extended. -/
theorem test_ld_sign : (match execLd g0 st0 .b1 true (.s 1) (.reg 2) 0xF8 sL with
    | .next t => (t.cur.inflight.map (fun p => (p.due, (p.value.setWidth 64 : Word))))
    | _ => []) = [(4, 0xFFFFFFFFFFFFFF81)] := by decide +kernel
theorem witness_WindowStoresComplete : sL.on g0 = true ∧ (∃ bs, sL.dataX st0 .b256 (.v (.reg 0)) = .ok bs) ∧
    sL.rawOff st0 (.reg 1) 0 256 + 256 = sL.src.limit ∧ sL.rawOff st0 (.reg 1) 0 256 % Size.alignment .b256 = 0 ∧
    sL.rawOff st0 (.reg 1) 0 256 + 256 ≤ sL.cur.vsize * 0x10000 ∧ sL.rdV 0 st0 (.reg 0) = .ok (sL.src.vreg 0) :=
  ⟨rfl, ⟨_, rfl⟩, by decide +kernel, by decide +kernel, by decide +kernel, rfl⟩
theorem witness_GenericStoresComplete : sL.on g0 = true ∧ (∃ bs, sL.dataX noStep .b8 (.s (.reg 1)) = .ok bs) ∧ (∃ v, sL.rdV 0 noStep (.reg 0) = .ok v) ∧
    checkPtr sL.cur sL.src.limit lWindows (sL.rdS 1 (.reg 3) + sL.src.sreg 2) 8 8 = .ok (.near 0xF8) ∧
    checkPtr sL.cur sL.src.limit lWindows (sL.rdS 1 (.reg 4) + sL.src.sreg 2) 8 8 = .ok (.va 0x10000) ∧
    (∀ e ∈ sL.cur.globalPieces 0x10000 8 true, ∃ pa key a', e.2 = .hit (.hbm pa key a')) ∧
    checkPtr sL.cur sL.src.limit lWindows (sL.rdS 1 (.reg 3) + sL.src.sreg 2) (8 * Fmt.width .fp8a) 4 = .ok (.near 0xF8) ∧
    (∃ v, sL.rdV 2 noStep (.reg 1) = .ok v) :=
  ⟨rfl, ⟨_, rfl⟩, ⟨_, rfl⟩, by decide +kernel, by decide +kernel, fun e h => by
    have h2 : sL.cur.globalPieces 0x10000 8 true = [((0x10000, 0, 8), .hit (.hbm 0x40000 0 0x10000))] := by decide +kernel
    rw [h2] at h; simp at h; subst h; exact ⟨_, _, _, rfl⟩, by decide +kernel, ⟨_, rfl⟩⟩
/-- SCAT's last word of the scratchpad, and two lanes at one address. -/
theorem witness_scat : ∀ j, j < 64 → (sL.src.preg 8).getLsbD j = true →
    checkPtr sL.cur sL.src.limit lWindows (sL.rdS 1 (.reg 5) + (lane 0 j).zeroExtend 64 * 4) 4 4 = .ok (.near 0x3FFC) := by decide +kernel
/-- Pointers to the own and to another gallery of the team, to a page of HBM and to one of host memory that the core has translated. -/
def kSt : Core :=
  { kL with
    rf := { kL.rf with s := kL.rf.s ++ [(6, 0xA000000000000100), (7, 0xA000000100000100), (9, 0x0000000000020000)] }
    tcache := kL.tcache ++ [{ vbase := 0x20000, len := 0x10000, pbase := 0x80000, world := 0, w := true, x := false, d := true, host := true, key := 1 }] }
def sSt : State := { at_ kSt 5 with gals := [(0, { windows := [(7, 0, 0x20000, 0x10000)] }), (1, { windows := [(7, 1, 0x30000, 0x10000)] })] }
theorem witness_stores_to : sSt.on g0 = true ∧
    checkPtr sSt.cur sSt.src.limit lWindows (sSt.rdS 1 (.reg 6) + sSt.src.sreg 0) 8 8 = .ok (.vault sSt.cur.ownTeamGal 0x100) ∧
    checkPtr sSt.cur sSt.src.limit lWindows (sSt.rdS 1 (.reg 7) + sSt.src.sreg 0) 8 8 = .ok (.vault 1 0x100) ∧
    sSt.LeadsTo (.vault 1 0x100) 8 [((0, 0, 8), .vault 1 0x30100)] ∧
    sSt.LeadsTo (.va 0x10000) 8 [((0x10000, 0, 8), .hbm 0x40000 0 0x10000)] ∧
    checkPtr sSt.cur sSt.src.limit lWindows (sSt.rdS 1 (.reg 9) + sSt.src.sreg 0) 8 8 = .ok (.va 0x20000) ∧
    sSt.LeadsTo (.va 0x20000) 8 [((0x20000, 0, 8), .host 0x80000 1 0x20000)] ∧ (Home.host 0x80000 1 0x20000).isHost = true ∧ sSt.cur.wc = [] :=
  ⟨by decide +kernel, by decide +kernel, by decide +kernel, ⟨by decide +kernel, 1, 0x30100, by decide +kernel, by decide +kernel⟩,
    show _ = _ by decide +kernel, by decide +kernel, show _ = _ by decide +kernel, by decide +kernel, by decide +kernel⟩
/-- One lane of a SCAT, to the own vault, to another gallery of the team, and to host memory. -/
theorem witness_scat_away : ∀ j, j < 64 → (sSt.src.preg 8).getLsbD j = true →
    checkPtr sSt.cur sSt.src.limit lWindows (sSt.rdS 1 (.reg 6) + (lane 0 j).zeroExtend 64 * 4) 4 4 = .ok (.vault sSt.cur.ownTeamGal 0x100) ∧
    (checkPtr sSt.cur sSt.src.limit lWindows (sSt.rdS 1 (.reg 7) + (lane 0 j).zeroExtend 64 * 4) 4 4 = .ok (.vault 1 0x100) ∧
      sSt.LeadsTo (.vault 1 0x100) 4 [((0, 0, 4), .vault 1 0x30100)]) ∧
    checkPtr sSt.cur sSt.src.limit lWindows (sSt.rdS 1 (.reg 9) + (lane 0 j).zeroExtend 64 * 4) 4 4 = .ok (.va 0x20000) ∧
      sSt.LeadsTo (.va 0x20000) 4 [((0x20000, 0, 4), .host 0x80000 1 0x20000)] := by
  intro j hj h
  have h0 : j = 0 := by
    have : ∀ j, j < 64 → (sSt.src.preg 8).getLsbD j = true → j = 0 := by decide +kernel
    exact this j hj h
  subst h0
  exact ⟨by decide +kernel, ⟨by decide +kernel, ⟨by decide +kernel, 1, 0x30100, by decide +kernel, by decide +kernel⟩⟩, by decide +kernel,
    show _ = _ by decide +kernel⟩
theorem witness_TimedLoadsComplete : sL.on g0 = true ∧ sget none sL.cur.landing 63 = none ∧ sL.dstX noStep (.s 1) = .ok (.s 1) ∧
    checkPtr sL.cur sL.src.limit lWindows (sL.rdS 1 (.reg 5) + sL.src.sreg 0) 4 4 = .ok (.near 0x3FFC) ∧
    checkPtr sL.cur sL.src.limit lWindows (sL.rdS 1 (.reg 4) + sL.src.sreg 0) 4 4 = .ok (.va 0x10000) ∧
    (∀ r ∈ sL.cur.globalPieces 0x10000 4 false, ∀ c, r.2 ≠ .bad c) ∧ sL.dstV noStep 3 = .ok 3 ∧
    (∃ v, sL.rdV 2 noStep (.reg 0) = .ok v) := by
  refine ⟨rfl, rfl, rfl, by decide +kernel, by decide +kernel, fun r h c => ?_, rfl, ⟨_, rfl⟩⟩
  have h2 : sL.cur.globalPieces 0x10000 4 false = [((0x10000, 0, 4), .hit (.hbm 0x40000 0 0x10000))] := by decide +kernel
  rw [h2] at h
  simp only [List.mem_singleton] at h
  subst h
  simp
/-- Lane j of the index register is j. -/
def vIota : Vec := ofLanes (fun j => BitVec.ofNat 32 j)
theorem witness_gath : ∀ j, j < 64 → checkPtr sL.cur sL.src.limit lWindows (sL.rdS 1 (.reg 3) + (lane vIota j).zeroExtend 64 * 4) 4 4 =
    .ok (.near (0xF8 + 4 * j)) := by decide +kernel
/-- Module 1 of the job is the own one, module 2 lies beyond port 0; channel 1 is a MASKED producer, 2 a MASKED consumer, 3 an EXACT one (13 Table 13.1). -/
def chanMP : Chan := { w0 := 0xC000020100000000, w1 := BitVec.ofNat 64 (1 + 12 + 8 * 16 + 1024 + 3 * 2 ^ 18), w2 := 0x0201 }
def chanMC : Chan := { w0 := 0x9000000100000000, w1 := BitVec.ofNat 64 (1 + 2 + 12 + 8 * 16 + 1024 + 3 * 2 ^ 18), w2 := 0x0201 }
def chanEC : Chan := { w0 := 0x9000000100001000, w1 := BitVec.ofNat 64 (1 + 2 + 8 + 1024 + 7 * 2 ^ 18), w2 := 0x0201 }
def kP : Core :=
  { kA with
    rf := { kA.rf with allot := 15, s := [(4, 0xC000018100000005), (5, 0xC000020000000100), (6, 4), (7, 0x8), (20, 2), (21, 0)]
                       chans := [(1, chanMP), (2, chanMC), (3, chanEC)], near := [(0x3F00, 9)] } }
def sP : State :=
  { at_ kP 6 with
    host := { mmap := [(4096 + 1, 1), (4096 + 2, 11)], stage := 6 }
    ports := [(0, { keyed := true })] }
theorem witness_fetch : sP.on g0 = true ∧ sget none sP.cur.landing 0 = none ∧ sP.dstX noStep (.v 0) = .ok (.v 0) ∧
    (∃ pl, checkPtr sP.cur sP.src.limit podOnly (sP.rdS 1 (.reg 5) + sP.src.sreg 0) 8 8 = .ok pl) ∧
    (sP.mapEntry (sP.cur.job % 65536) (field (sP.rdS 1 (.reg 5)) 51 40)).getLsbD 0 = true ∧ sP.isOwnModule 1 2 = false ∧ sP.sendPort 1 2 = .port 0 ∧
    (∃ pl, checkPtr sP.cur sP.src.limit podOnly (sP.rdS 1 (.reg 4) + sP.src.sreg 0) 1 1 = .ok pl) ∧
    sP.isOwnModule 1 (field (sP.rdS 1 (.reg 4)) 51 40) = true ∧ (sP.mapEntry 1 (field (sP.rdS 1 (.reg 4)) 51 40)).getLsbD 0 = true ∧
    ({ sP with ports := [] } : State).sendPort 1 2 = .notYet :=
  ⟨rfl, rfl, rfl, ⟨_, rfl⟩, by decide +kernel, by decide +kernel, by decide +kernel, ⟨_, rfl⟩, by decide +kernel, by decide +kernel, by decide +kernel⟩
/-- A LOCK pair, whose FETCH waits in its release buffer. -/
theorem witness_fetch_pair : ({ sP with cores := [(0, { kP with lock := true })] } : State).cur.lock = true ∧ sP.cur.lock = false := by decide +kernel
/-- No pair of another core holds bytes of the vault back. -/
theorem witness_hidden : sL.hidden sL.ctx.core (sL.ownVault sL.ctx.core).1 = [] := by decide +kernel
theorem witness_FlagOperationsComplete : sP.on g0 = true := rfl
/-- 11 R227: at the bound FADDB does not add. -/
theorem test_faddb_bound : (match execFaddb g0 1 5 0 20 { at_ { kP with flags := [(5, 2)] } 6 with clock := 0 } with
    | .next t => (flagOf t.cur.flags 5, t.cur.inflight.map (fun p => (p.value.setWidth 64 : Word)))
    | _ => (0, [])) = (2, [2]) := by decide +kernel
theorem witness_RemoteOperationsComplete : sP.on g0 = true ∧ sP.cur.RoomFor 0 ∧ windowOf (sP.src.sreg 4) = some .pod ∧
    (sP.src.sreg 4).getLsbD 39 = true ∧ field (sP.src.sreg 4) 17 8 = 0 ∧ field (sP.src.sreg 4) 59 52 = 0 ∧ field (sP.src.sreg 4) 31 21 = 0 ∧
    (∀ n ∈ ((List.range 64).filter (fun b => (sP.rdS 2 (.reg 7)).getLsbD b)).map (fun b => 64 * (0 : BitVec 4).toNat + b), n < sP.cur.nseats) ∧
    sP.rdS 2 (.reg 7) ≠ 0 ∧ sP.rdS 2 (.reg 21) = 0 ∧ sP.cur.rgd = 0 ∧ sget none sP.cur.landing 63 = none ∧ sP.cur.RoomFor 256 ∧
    (∃ bs, sP.dataX st0 .b256 (.v (.reg 0)) = .ok bs) ∧ (∃ pl, checkPtr sP.cur sP.src.limit podOnly (sP.rdS 1 (.reg 5)) 256 256 = .ok pl) ∧
    (sP.rdS 1 (.reg 5)).getLsbD 39 = false ∧ (∃ pl, checkPtr sP.cur sP.src.limit podOnly (sP.rdS 1 (.reg 5) + BitVec.ofInt 64 0) 256 256 = .ok pl) :=
  ⟨rfl, Or.inl rfl, by decide +kernel, by decide +kernel, by decide +kernel, by decide +kernel, by decide +kernel, by decide +kernel, by decide +kernel,
    by decide +kernel, rfl, rfl, Or.inl rfl, ⟨_, rfl⟩, ⟨_, rfl⟩, by decide +kernel, ⟨_, rfl⟩⟩
theorem witness_ProducerCompletes : sP.on g0 = true ∧ (sP.chan 1).usable sP.cur sP.src.limit false 2 = true ∧
    (sP.chan 1).usable sP.cur sP.src.limit false 1 = true ∧ (∃ x, sP.rdV 1 noStep (.reg 0) = .ok x) ∧ 64 * (0 : BitVec 10).toNat + 256 = (sP.chan 1).slot ∧
    (sP.chan 1).cls = 3 ∧ sP.cur.RoomFor 256 ∧ sP.cur.RoomFor 64 :=
  ⟨rfl, by decide +kernel, by decide +kernel, ⟨_, rfl⟩, by decide +kernel, by decide +kernel, Or.inl rfl, Or.inl rfl⟩
theorem witness_ConsumerCompletes : sP.on g0 = true ∧ (sP.chan 2).usable sP.cur sP.src.limit true 2 = true ∧ sP.dstV noStep 0 = .ok 0 ∧
    (∃ r, sP.slotRead (sP.chan 2).slotPtr 256 = .ok r) ∧ sP.cur.RoomFor 0 ∧ (sP.chan 2).cls = 3 ∧ sP.rdV 1 noStep (.reg 1) = .ok (sP.src.vreg 1) ∧
    (sP.chan 2).unit * ((0 : BitVec 10).toNat + 1) = (sP.chan 2).slot ∧
    (∃ r, sP.slotRead ((sP.chan 2).slotPtr + BitVec.ofNat 64 ((sP.chan 2).unit * 0)) (sP.chan 2).unit = .ok r ∧ r.1.length = 256) :=
  ⟨rfl, by decide +kernel, rfl, ⟨_, rfl⟩, Or.inl rfl, by decide +kernel, rfl, by decide +kernel, ⟨_, rfl, by decide +kernel⟩⟩
/-- A FAST consumer entry: 64 BF16 elements in a slot. -/
def kFast : Core := { kP with rf := { kP.rf with chans := [(2, { chanMC with w1 := BitVec.ofNat 64 (1 + 2 + 4 + 16 + 1024 + 2 ^ 18) })] } }
def sFast : State := at_ kFast 6
theorem witness_radd_fast : (sFast.chan 2).cls = 1 ∧ (sFast.chan 2).usable sFast.cur sFast.src.limit true 1 = true ∧
    (sFast.chan 2).unit * ((0 : BitVec 10).toNat + 1) ≤ (sFast.chan 2).slot ∧ (∃ x, sFast.rdV 1 noStep .held = .ok x) ∧
    (∃ r, sFast.slotRead ((sFast.chan 2).slotPtr + BitVec.ofNat 64 ((sFast.chan 2).unit * 0)) (sFast.chan 2).unit = .ok r ∧ r.1.length = 128) :=
  ⟨by decide +kernel, by decide +kernel, by decide +kernel, ⟨_, rfl⟩, ⟨_, rfl, by decide +kernel⟩⟩
theorem witness_radd_exact : (sP.chan 3).usable sP.cur sP.src.limit true 1 = true ∧ (sP.chan 3).cls = 2 ∧ vphys sP.src ((0 : VReg).toNat + 1) = .ok 1 ∧
    vphys sP.src ((2 : VReg).toNat + 1) = .ok 3 ∧ (sP.chan 3).unit * ((0 : BitVec 10).toNat + 1) ≤ (sP.chan 3).slot ∧
    (∃ r, sP.slotRead ((sP.chan 3).slotPtr + BitVec.ofNat 64 ((sP.chan 3).unit * 0)) (sP.chan 3).unit = .ok r) :=
  ⟨by decide +kernel, by decide +kernel, rfl, rfl, by decide +kernel, ⟨_, rfl⟩⟩

def kB : Core := { kA with rf := { kA.rf with s := [(1, 60), (2, 64), (3, 3)], lcnt := 1 } }
def sB : State := at_ kB 7
theorem witness_ControlTransfersComplete : sB.on g0 = true ∧ ((sB.ctx.pc : Int) + 4 * (15 : BitVec 16).toInt) % 4 = 0 ∧
    (sB.ctx.pc : Int) + 4 * (15 : BitVec 16).toInt < kB.textLen ∧ (0 : Int) ≤ sB.ctx.pc + 4 * (0 : BitVec 16).toInt ∧ (sB.rdS 1 (.reg 1)).toNat < kB.textLen ∧
    (sB.rdS 1 (.reg 1)).toNat % 4 = 0 ∧ ¬ (sB.ctx.pc : Int) + 4 * (16 : BitVec 16).toInt < kB.textLen ∧ [1, 2, 3, 4, 5, 6, 7].length < 8 ∧ 0 < sB.src.lcnt.toInt ∧ (0 : W32).toInt ≤ 0 ∧
    -(((3 : BitVec 2).toNat : Int)) < (-2 : W32).toInt ∧ (-3 : W32).toInt ≤ -(((3 : BitVec 2).toNat : Int)) := by decide +kernel
/-- 08 R162: at LCNT 1 LOOP goes back once more; at 0 it does not. -/
theorem test_loop_last : (match execLoop g0 0xFFFF { at_ kB 7 with ctx := { src := kB.rf, slot := 7, pc := 8 } } with
    | .next t => t.ctx.npc
    | _ => none) = some 4 ∧ (match execLoop g0 0xFFFF { at_ kB 7 with ctx := { src := { kB.rf with lcnt := 0 }, slot := 7, pc := 8 } } with
    | .next t => t.ctx.npc
    | _ => some 0) = none := by decide +kernel
/-- One remote operation that waits, one matrix command, and one posted store. -/
def pkt0 : Packet := { ty := 1, port := 36, job := 1, taskid := 5, gen := 1, addr := 0x8100000000, dmod := 2, sseat := 1 }
def kW : Core := { kA with cmq := [{ pkts := [pkt0], iss := 0 }], mxq := [entry (.tzero 0)]
                           pend := [{ iss := 0, write := true, ptr := 0x10000, n := 8, va := 0x10000, home := some (.hbm 0x40000 0 0x10000), pos := 0 }] }
def sW : State := { at_ kW 7 with host := { mmap := [(4096 + 1, 1), (4096 + 2, 11)] } }
theorem witness_WaitsAndFencesComplete : sW.on g0 = true ∧ sW.ctx.slot = 7 ∧ sW.cur.weak = [] ∧ sW.saveWanted 0 = false ∧
    ({ sW with preempts := [{ task := 7, kind := .checkpoint, since := 0 }] } : State).saveWanted 0 = true ∧
    fcondHolds .ge (flagOf sW.cur.flags 255) (sW.flagV (.imm 1)) = false ∧
    (∀ j, j ≤ (7 : BitVec 3).toNat → fcondHolds .eq (flagOf sW.cur.flags (248 + j)) (sW.flagV (.imm 1)) = false) ∧
    sW.fenceWaits 0 .chip = true ∧ Scope.chip ≠ .system ∧ sW.queueDone 0 .cmq = false ∧ sW.drainWaits 0 .pod = true ∧
    (1 : BitVec 4).getLsbD 3 = false ∧ (1 : BitVec 4).getLsbD 0 = true ∧ sW.queueDone 0 .mxq = false := by decide +kernel

/-- Whether a partial computation answers, and that it then has an answer. -/
def isOk {ε α : Type} (x : Except ε α) : Bool := match x with
  | .ok _ => true
  | .error _ => false
theorem ok_of {ε α : Type} {x : Except ε α} (h : isOk x = true) : ∃ a, x = .ok a := by
  cases x with
  | ok a => exact ⟨a, rfl⟩
  | error e => cases h
def tryOk {α : Type} (x : Try α) : Bool := match x with
  | .ok _ => true
  | _ => false
theorem try_of {α : Type} {x : Try α} (h : tryOk x = true) : ∃ a, x = .ok a := by
  cases x <;> first | exact ⟨_, rfl⟩ | cases h

theorem pair_of {α β γ : Type} {x : Try (α × β)} {f : α × β → Try γ} (h : tryOk (x.bind f) = true) :
    ∃ u b v, x = .ok (u, b) ∧ f (u, b) = .ok v := by
  cases x with
  | ok r => exact let ⟨v, hv⟩ := try_of h; ⟨r.1, r.2, v, rfl, hv⟩
  | _ => cases h

/-! Regions, launches, traps. -/

def bigPkt : Packet := { ty := 1, payload := List.replicate 32480 0 }
def kR (rgd : Nat) (hold : List (Nat × Remote)) : Core :=
  { kA with
    rgd := rgd, frames := (List.replicate rgd {}), hold := hold
    rf := { kA.rf with allot := 12, s := [(1, 0x9000000100000000), (2, 65536), (3, 0x0000000000010000), (4, 1), (5, 0xC000018100000000)] }
    tcache := [{ vbase := 0x10000, len := 0x10000, pbase := 0x40000, world := 0, w := true, x := false, d := true, host := false, key := 0 }] }
def sR (rgd : Nat) (hold : List (Nat × Remote) := []) : State := at_ (kR rgd hold) 7
/-- Bytes at both ends of the count, in the scratchpad that a pointer may name, and by GLOBAL addresses. -/
theorem witness_RegionsComplete : (sR 3).on g0 = true ∧ (sR 3).cur.rgd < 4 ∧ (sR 1).cur.frames = {} :: [] ∧ (sR 1).cur.rgd = 1 ∧ 1 < (sR 4).cur.rgd ∧
    ((sR 1).rdS 2 (.reg 2)).toNat = 65536 ∧ ({} : Frame).kept + 65536 ≤ (sR 1).cur.regions.getD ((sR 1).cur.rgd - 1) 0 ∧ ({} : Frame).keeps.length < 64 ∧
    checkPtr (sR 1).cur (sR 1).src.limit lWindows ((sR 1).rdS 1 (.reg 1)) 65536 1 = .ok (.near 0) ∧
    checkPtr (sR 1).cur (sR 1).src.limit lWindows ((sR 1).rdS 1 (.reg 3)) 65536 1 = .ok (.va 0x10000) ∧
    0 < ((sR 1).rdS 2 (.reg 4)).toNat ∧ firstBad ((sR 1).cur.globalPieces 0x10000 1 false) = none := by decide +kernel
/-- The one page of that byte is in the core's cache, and refuses nothing. -/
theorem witness_region_page : ∀ e ∈ (sR 1).cur.globalPieces 0x10000 1 false, ∀ c, e.2 ≠ .bad c := by
  intro e h c
  have h2 : (sR 1).cur.globalPieces 0x10000 1 false = [((0x10000, 0, 1), .hit (.hbm 0x40000 0 0x10000))] := by decide +kernel
  rw [h2] at h
  simp only [List.mem_singleton] at h
  subst h
  simp
theorem witness_region_hold :
    (0 + (32 + ([bigPkt].map (fun x => x.payload.length)).sum) ≤ 32768) ∧
    32768 < (([(1, ({ pkts := [bigPkt], iss := 0 } : Remote))] : List (Nat × Remote)).map (fun h => 32 + (h.2.pkts.map (fun x => x.payload.length)).sum)).sum + (32 + ([({ ty := 1, payload := List.replicate 225 0 } : Packet)].map (fun x => x.payload.length)).sum) := by decide +kernel
theorem witness_region_put : (sR 1 [(1, { pkts := [bigPkt], iss := 0 })]).on g0 = true ∧ (sR 1 [(1, { pkts := [bigPkt], iss := 0 })]).cur.rgd ≠ 0 ∧
    (∃ bs, (sR 1 [(1, { pkts := [bigPkt], iss := 0 })]).dataX st0 .b256 (.v (.reg 0)) = .ok bs) ∧
    (sR 1 [(1, { pkts := [bigPkt], iss := 0 })]).ctx.sticky = false ∧
    (∃ pl, checkPtr (sR 1 [(1, { pkts := [bigPkt], iss := 0 })]).cur (sR 1 [(1, { pkts := [bigPkt], iss := 0 })]).src.limit podOnly
      ((sR 1 [(1, { pkts := [bigPkt], iss := 0 })]).rdS 1 (.reg 5) + BitVec.ofInt 64 ((sR 1 [(1, { pkts := [bigPkt], iss := 0 })]).ctx.step * st0.step.toInt * Size.bytes .b256))
      (Size.bytes .b256) (Size.alignment .b256) = .ok pl) ∧
    32768 < (sR 1 [(1, { pkts := [bigPkt], iss := 0 })]).cur.held + 32 + Size.bytes .b256 :=
  ⟨rfl, by decide, ⟨_, rfl⟩, rfl, ⟨_, rfl⟩, by decide +kernel⟩
def kT : Core :=
  { kA with
    rf := { kA.rf with s := [(1, 0x10000)] }
    tcache := [{ vbase := 0x10000, len := 0x10000, pbase := 0x40000, world := 0, w := true, x := false, d := true, host := false, key := 0 }] }
def sT (debug : Nat := 0) (ended : Bool := false) : State := at_ { kT with debug := debug, ended := ended } 7
theorem witness_LaunchAndEndComplete : sT.on g0 = true ∧ sT.cur.rgd = 0 ∧ ((sT.task sT.cur.task).map (·.depth)).getD sT.cur.depth < 8 ∧
    checkPtr sT.cur sT.src.limit launchWindows (sT.rdS 1 (.reg 1)) 256 256 = .ok (.va 0x10000) ∧
    firstBad (sT.cur.globalPieces 0x10000 256 false) = none ∧ (sT 0 true).ctx.split = none ∧ (sT 0 true).cur.ended = true := by decide +kernel
theorem witness_TrapsComplete : sT.on g0 = true ∧ sT.cur.rgd = 0 ∧ sT.cur.debug = 0 ∧ (sT 1).cur.debug = 1 ∧ 2 ≤ (sT 2).cur.debug := by decide +kernel

/-! The copy sequencer. -/

def seq0 : Seq := { mpc := 8, start := 0, mode := .running, c := [0x9000000100000000, 0x9000000100001000, 0xC000018100000000, 0xC000028100000000, 0x90000001000000FF, 0x0000010000000100, 0xC000018000000005, 0xC000028000000005] }
def kS (q : Seq) : Core := { kA with seq := q, rf := { kA.rf with allot := 12, near := [(0x1000, 9)] }, flags := [(9, 5)] }
def sS (q : Seq) (clock : Nat := 0) : State :=
  { at_ (kS q) 7 with
    host := { mmap := [(4096 + 1, 1), (4096 + 2, 11)], stage := 6 }
    ports := [(0, { keyed := true })], clock := clock }
theorem witness_SequencerControlCompletes : (sS seq0).on g0 = true ∧ (60 : BitVec 16).toNat % 4 = 0 ∧ (60 : BitVec 16).toNat < (sS seq0).cur.textLen ∧
    (sS seq0).cur.seq.cpq.length < 8 ∧ (sS { cpq := [⟨4, 9, [], 0⟩] }).seqFree 0 = true ∧ seq0.start + 4 * (2 : BitVec 10).toNat ≤ seq0.mpc ∧
    (seq0.lc.getD 0 0 + 1) % 65536 < (2 : BitVec 16).toNat ∧ (1 : BitVec 16).toNat ≤ (seq0.lc.getD 0 0 + 1) % 65536 ∧
    (flagOf (sS seq0).cur.flags 9 - (5 : BitVec 16).setWidth 32).toNat < 2 ^ 31 ∧ 2 ^ 31 ≤ (flagOf (sS seq0).cur.flags 9 - (6 : BitVec 16).setWidth 32).toNat ∧
    (sS seq0).flights 0 true = [] ∧ ({ sS seq0 with lateral := [{ pkt := { sq := true, job := 1, taskid := 5, smod := 0, sseat := 1, gen := 1 }, own := true }] } : State).flights 0 true ≠ [] ∧
    checkPtr (sS seq0).cur (sS seq0).cur.rf.limit podOnly 0xC000018100000005 1 1 = .ok (.pod true 1 5 1) ∧ (0xC000018100000005 : Word).getLsbD 39 = true ∧
    checkPtr (sS seq0).cur (sS seq0).cur.rf.limit podOnly 0xC000028100000005 1 1 = .ok (.pod true 1 5 2) ∧ (0xC000028100000005 : Word).getLsbD 39 = true ∧
    ((sS seq0).mapEntry 1 1).getLsbD 0 = true ∧ (sS seq0).isOwnModule 1 1 = true ∧ ((sS seq0).mapEntry 1 2).getLsbD 0 = true ∧
    (sS seq0).isOwnModule 1 2 = false ∧ (sS seq0).sendPort 1 2 = .port 0 := by decide +kernel
theorem witness_seq_start : ((sS { cpq := [⟨4, 9, [], 0⟩] }).core 0).holdsBack 0 0 = false ∧ ((sS { cpq := [⟨4, 9, [], 0⟩] }).core 0).seq.mode = .idle := by
  decide +kernel
/-- Two units of a move inside the scratchpad, the rows of a put that leave for module 2, and a chunk with its residue of 0 behind it. -/
theorem witness_SequencerCopiesComplete :
    checkPtr (sS seq0).cur (sS seq0).cur.rf.limit lWindows (0x9000000100001000 : Word) 256 1 = .ok (.near 0x1000) ∧
    checkPtr (sS seq0).cur (sS seq0).cur.rf.limit lWindows (0x9000000100000000 : Word) 256 1 = .ok (.near 0) ∧
    (sS seq0).cur.rf.nearPoison = [] ∧ (sS seq0).cur.rf.soft = [] ∧ seq0.c.length = 8 ∧ seq0.prog ≤ (0 : BitVec 16).toNat ∧
    seq0.prog < (1 : BitVec 16).toNat := by decide +kernel
theorem witness_seq_move : ∃ u bs v, (sS seq0).readSegs 0 [⟨0x9000000100001000, 256, 0⟩] = .ok (u, bs) ∧
    u.writeSegs 0 [⟨0x90000001000000FF, 256, 0⟩] bs = .ok v :=
  have h : tryOk (((sS seq0).readSegs 0 [⟨0x9000000100001000, 256, 0⟩]).bind (fun r => r.1.writeSegs 0 [⟨0x90000001000000FF, 256, 0⟩] r.2)) = true := by
    decide +kernel
  pair_of h
/-- Rows of 64 bytes at pitches 256 and 256. -/
theorem witness_seq_put : ∃ u bs w, (sS seq0).readSegs 0 (unitRows 0x9000000100001000 256 4 64 0) = .ok (u, bs) ∧
    u.podSegs 0 (unitRows 0xC000020100000000 256 4 64 0) = .ok () ∧ (∀ x ∈ bs, x.2 = false) ∧
    u.seqSend 0 ((unitRows 0xC000020100000000 256 4 64 0).map (fun g => u.packet 0 true 0x01 g.ptr (((bs.drop g.pos).take g.n).map (·.1)))) = some w := by
  have h : (match (sS seq0).readSegs 0 (unitRows 0x9000000100001000 256 4 64 0) with
      | .ok (u, bs) => tryOk (u.podSegs 0 (unitRows 0xC000020100000000 256 4 64 0)) && bs.all (fun x => !x.2) &&
          (u.seqSend 0 ((unitRows 0xC000020100000000 256 4 64 0).map (fun g => u.packet 0 true 0x01 g.ptr (((bs.drop g.pos).take g.n).map (·.1))))).isSome
      | _ => false) = true := by decide +kernel
  cases hr : (sS seq0).readSegs 0 (unitRows 0x9000000100001000 256 4 64 0) with
  | ok r =>
    rw [hr] at h
    obtain ⟨h1, h3⟩ := Bool.and_eq_true_iff.mp h
    obtain ⟨h1, h2⟩ := Bool.and_eq_true_iff.mp h1
    obtain ⟨w, h3⟩ := Option.isSome_iff_exists.mp h3
    exact ⟨r.1, r.2, w, rfl, (try_of h1).elim (fun x hx => by cases x; exact hx), by simpa using h2, h3⟩
  | _ => rw [hr] at h; cases h
theorem witness_seq_rows : 0 < 64 ∧ 256 * 0 ≤ 255 ∧ 255 < min (256 * 0 + 256) (4 * 64) := by decide
theorem witness_seq_chk : cpFieldEvent (sS seq0).cur (.cpChk 0 .masked 0) = none ∧
    (match (sS seq0).readSegs 0 (runsOf 0x9000000100000000 256 ++ [⟨0x9000000100000000 + BitVec.ofNat 64 256, 8, 256⟩]) with
    | .ok (_, bs) => bs.all (fun x => !x.2) && chkResidue .masked ((bs.map (·.1)).take 256) == bytesToNat ((bs.map (·.1)).drop 256)
    | _ => false) = true ∧
    (match (sS seq0).readSegs 0 (runsOf 0x9000000100001000 256 ++ [⟨0x9000000100001000 + BitVec.ofNat 64 256, 8, 256⟩]) with
    | .ok (_, bs) => bs.all (fun x => !x.2) && chkResidue .masked ((bs.map (·.1)).take 256) != bytesToNat ((bs.map (·.1)).drop 256)
    | _ => false) = true := by decide +kernel

/-! Exceptions, landings, engines, walks. -/

theorem witness_EventsAreTaken : ({ kA with textLen := 0 } : Core).headerCode = some .header := by decide +kernel
def lnd (arrived : Bool) (failed : Option (Code × Word × Word)) (left : Nat) : Landing :=
  { due := 0, dest := .s 4, slot := 5, req := .memory 0 8, arrived := arrived, failed := failed, left := left }
def sLand (l : Landing) : State := at_ { kA with landing := [(3, some l)] }
theorem witness_LandingsComplete : sget none ((sLand (lnd false none 0)).core 0).landing 3 = some (lnd false none 0) ∧
    (lnd false none 0).ready ≤ (sLand (lnd false none 0)).clock ∧ ((sLand (lnd false none 0)).core 0).correct ≤ (sLand (lnd false none 0)).clock ∧
    ((sLand (lnd false none 0)).core 0).dueEntries = [(3, lnd false none 0)] ∧ ((sLand (lnd true none 0)).core 0).dueEntries = [(3, lnd true none 0)] ∧
    (lnd true none 0).failed = none ∧ (lnd true none 0).dest = .s 4 ∧ ((sLand (lnd true none 0)).core 0).inflight = [] ∧
    ((sLand (lnd true (some (.nopage, 1, 2)) 0)).core 0).dueEntries = [(3, lnd true (some (.nopage, 1, 2)) 0)] ∧
    (sA.core 0).dueEntries = [] ∧ (({ at_ { kA with correct := 5 } with clock := 5 } : State).core 0).correct = 5 ∧
    ((sLand (lnd true none 0)).core 0).flagBuf = [] := by decide +kernel
/-- A bounded addition of module 2 that waits for its flag, and a port for its answer. -/
def faddb2 : Packet := { ty := 0x05, port := 0, job := 1, taskid := 5, gen := 1, smod := 2, sseat := 1, val := 2, flag := 5 }
def sBounded : State := { at_ { kA with flagBuf := [(5, .bounded faddb2)] } with ports := [(0, { keyed := true })] }
theorem witness_bounded_answer : (sBounded.core 0).dueEntries = [] ∧ (sBounded.core 0).flagBuf = [(5, .bounded faddb2)] ∧ faddb2.port < 36 ∧
    sBounded.sendPort 1 2 = .port 0 := by decide +kernel

/-- A job's world with its page table: an HBM page of 1 GiB, a host page, one under migration, none, and one without A and D. -/
def tables : Mem :=
  [⟨0x1000, 0x01⟩, ⟨0x1001, 0x20⟩, ⟨0x2000, 0x37⟩, ⟨0x2001, 0x01⟩, ⟨0x2004, 0x40⟩, ⟨0x2008, 0x77⟩, ⟨0x2009, 0x01⟩, ⟨0x2010, 0xB7⟩, ⟨0x2011, 0x01⟩,
   ⟨0x2020, 0x07⟩, ⟨0x2021, 0x01⟩, ⟨0x2024, 0x80⟩]
def key1 : KeySlot := { live := true, job := 1, owner := (1, 0), serial := 5 }
def im1 : Image := { id := 0, world := 0, entry := 4 }
def job1 : Job := { images := [im1], id := 1, limit := 1000, worlds := [{ num := 0, troot := 0x1000 }], ctxBase := 0x40000000, ctxLen := 64, dumpBase := 0x50000000, dumpLen := 8 }
/-- The module in RUN with that job. -/
def sJ (k : Core) : State :=
  { at_ k with
    host := { stage := 6, featAcc := 0x7FF, featDrv := 0x7FF, mmap := [(4096 + 1, 1), (4096 + 2, 11)], qtBase := 0x100000 }
    jobs := [job1], keys := [(1, key1)], hbm := tables, ports := [(0, { keyed := true })] }
def piece (write : Bool) (h : Home) : Piece :=
  { iss := 0, write := write, ptr := 0x10000, n := 8, va := 0x10000, home := some h, pos := 0, entry := 3, serial := 9
    data := if write then List.replicate 8 (0x5A, 0xFF) else [] }
def kG : Core :=
  { kA with
    pend := [piece true (.hbm 0x40000 1 0x10000), piece true (.near 0 0x100), piece false (.near 0 0x200), piece true (.hbm 0x50000 2 0x10000)]
    hxq := [[piece true (.host 0x300 1 0x10000)]], landing := [(3, some { lnd false none 1 with serial := 9 })]
    cmq := [{ pkts := [pkt0], iss := 0 }] }
def sG : State := sJ kG
theorem witness_MemoryEnginesComplete : sG.pieceReady 0 0 = some (piece true (.hbm 0x40000 1 0x10000), .hbm 0x40000 1 0x10000) ∧
    sG.preMerge (.hbm 0x40000 1 0x10000) (piece true (.hbm 0x40000 1 0x10000)).data = none ∧
    isOk (writeHome sG (.hbm 0x40000 1 0x10000) (piece true (.hbm 0x40000 1 0x10000)).data false) = true ∧
    sG.pieceReady 0 1 = some (piece true (.near 0 0x100), .near 0 0x100) ∧ (sG.core 0).rf.soft = [] ∧
    sG.pieceReady 0 2 = some (piece false (.near 0 0x200), .near 0 0x200) ∧ ((sget none (sG.core 0).landing 3).map (·.serial)) = some 9 ∧
    sG.pieceReady 0 3 = some (piece true (.hbm 0x50000 2 0x10000), .hbm 0x50000 2 0x10000) ∧
    (match writeHome sG (.hbm 0x50000 2 0x10000) (piece true (.hbm 0x50000 2 0x10000)).data false with
      | .error .keyempty => true
      | _ => false) = true ∧
    (sG.core 0).hxqReady 0 sG.clock = true ∧ (sG.core 0).hxq[0]? = some [piece true (.host 0x300 1 0x10000)] ∧
    (piece true (.host 0x300 1 0x10000)).told = false ∧
    isOk (writeHome sG (.host 0x300 1 0x10000) (piece true (.host 0x300 1 0x10000)).data false) = true := by decide +kernel
/-- A store of two bytes into a word of the scratchpad with a single error. -/
def half : Piece := { piece true (.near 0 0x100) with data := List.replicate 2 (0x5A, 0xFF), n := 2 }
def sHalf : State := sJ { kA with pend := [half], rf := { kA.rf with soft := [(0x40, 1)] } }
theorem witness_pre_merge : sHalf.pieceReady 0 0 = some (half, .near 0 0x100) ∧ (sHalf.preMerge (.near 0 0x100) half.data).isSome = true := by
  decide +kernel
theorem witness_cmq : (sG.core 0).cmq = { pkts := pkt0 :: [], iss := 0 } :: [] ∧ pkt0.port = 36 ∧ (sG.core 0).holdsBack sG.clock 0 = false ∧
    (sG.mapEntry pkt0.job.toNat pkt0.dmod.toNat).getLsbD 0 = true ∧ sG.isOwnModule pkt0.job.toNat pkt0.dmod.toNat = false ∧
    sG.sendPort pkt0.job.toNat pkt0.dmod.toNat = .port 0 ∧
    sG.isOwnModule 1 ({ pkt0 with dmod := 1 } : Packet).dmod.toNat = true ∧ (sG.mapEntry 1 ({ pkt0 with dmod := 1 } : Packet).dmod.toNat).getLsbD 0 = true := by
  decide +kernel
def sKeep (n : Nat) (p : Word := 0x9000000100000000) : State := at_ { kR 1 [] with keep := some (p, n) } 7
/-- A copy from the scratchpad in one unit and in two, and one from HBM, whose path costs something. -/
theorem witness_keep : ((sKeep 256).core 0).keep = some (0x9000000100000000, 256) ∧ ((sKeep 256).core 0).keepReady ≤ (sKeep 256).clock ∧
    (sKeep 256).keepBlocked 0 0x9000000100000000 256 = false ∧ ((sKeep 257).keepBlocked 0 0x9000000100000000 257 = false) ∧
    ((sKeep 256).hall (hallOf 0)).walks ++ ((sKeep 256).hall (hallOf 0)).waiting = [] ∧
    (sKeep 256).keepPath 0 ⟨0x9000000100000000, 256, 0⟩ ≤ ((sKeep 256).core 0).keepCost ∧
    (sKeep 257).keepPath 0 ⟨0x9000000100000000, 256, 0⟩ ≤ ((sKeep 257).core 0).keepCost ∧
    ((sKeep 256 0x10000).core 0).keepCost < (sKeep 256 0x10000).keepPath 0 ⟨0x10000, 256, 0⟩ ∧ (sKeep 256 0x10000).keepBlocked 0 0x10000 256 = false ∧
    (match (sKeep 256).readSegs 0 [⟨0x9000000100000000, min 256 (256 - 0), 0⟩] with
      | .ok (u, got) => got.length == 256 && (u.core 0).frames == [{}] && (u.seatBlock 0).isNone
      | _ => false) = true ∧ tryOk ((sKeep 257).readSegs 0 [⟨0x9000000100000000, min 256 (257 - 0), 0⟩]) = true ∧ 256 < 257 := by decide +kernel

def walk0 (who va : Nat) (write : Bool) : Walk := { core := 0, who := who, va := va, write := write, ready := 0 }
def sWk (w : Walk) : State := { sJ kA with halls := [(0, { walks := [w] })] }
/-- A leaf as it stands, one that takes A and D, a missing page, and a page under migration. -/
theorem witness_WalksComplete : (∀ w ∈ [walk0 0 0x10000 false, walk0 2 0x100000000 true, walk0 0 0xC0000000 true, walk0 0 0x80000000 false],
      ((sWk w).hall 0).walks[0]? = some w ∧ w.ready ≤ (sWk w).clock ∧ ((sWk w).hall 0).waiting = [] ∧ (sWk w).sectors = []) ∧
    (∃ a l e r, (sWk (walk0 0 0x10000 false)).walkResult (walk0 0 0x10000 false) = .leaf a l e r ∧ e ||| 0x10 = e) ∧
    (∃ a l e r, (sWk (walk0 2 0x100000000 true)).walkResult (walk0 2 0x100000000 true) = .leaf a l e r ∧ e ||| 0x10 ||| 0x20 ≠ e) ∧
    (sWk (walk0 0 0xC0000000 true)).walkResult (walk0 0 0xC0000000 true) = .bad .nopage ∧
    (sWk (walk0 0 0x80000000 false)).walkResult (walk0 0 0x80000000 false) = .migrating :=
  ⟨by decide +kernel, ⟨0x2000, 2, 0x4000000137, 2, by decide +kernel, by decide⟩, ⟨0x2020, 2, 0x8000000107, 2, by decide +kernel, by decide⟩,
    by decide +kernel, by decide +kernel⟩
/-- The walks of a timed request, of the sequencer, in a CORRECT freeze and outside one, and of a keep, each to a leaf and to a missing page. -/
def timed (va : Nat) : Piece := { iss := 0, write := false, ptr := word64 va, n := 8, va := va, home := none, pos := 0, entry := 3, serial := 9 }
def kWho (who va : Nat) (correct : Nat) : Core :=
  { kA with pend := if who = 1 then [timed va] else [], landing := [(3, some { lnd false none 1 with serial := 9 })]
            keep := if who = 3 then some (word64 va, 256) else none, correct := correct }
def sWho (who va : Nat) (correct : Nat := 0) : State := { sJ (kWho who va correct) with halls := [(0, { walks := [walk0 who va false] })] }
theorem witness_walks_who : (∀ who ∈ [1, 2, 3], ((sWho who 0xC0000000).hall 0).walks[0]? = some (walk0 who 0xC0000000 false) ∧
      (sWho who 0xC0000000).walkResult (walk0 who 0xC0000000 false) = .bad .nopage ∧ (sWho who 0xC0000000).sectors = []) ∧
    (∀ who ∈ [1, 2, 3], (sWho who 0x10000).walkResult (walk0 who 0x10000 false) = .leaf 0x2000 2 0x4000000137 2) ∧
    ((sWho 2 0xC0000000).core 0).correcting 0 = false ∧ ((sWho 2 0xC0000000 5).core 0).correcting 0 = true ∧
    ((sWho 1 0xC0000000).core 0).pend.filter (fun q => q.home.isNone && !q.write && q.va / 0x10000 == 0xC0000000 / 0x10000) = [timed 0xC0000000] ∧
    (sget none ((sWho 1 0xC0000000).core 0).landing (timed 0xC0000000).entry).map (·.serial) = some (timed 0xC0000000).serial := by decide +kernel
def hop (a b : Word) : Hop := { ch := 5, due := 0, left := a, right := b }
def sHop : State := at_ { kA with hops := [hop 1 1, { hop 1 2 with ch := 6 }], lock := true }
theorem witness_ComparisonsComplete : (sHop.core 0).hops.find? (fun x => x.ch == 5 && decide (x.due ≤ (sHop.core 0).sched)) = some (hop 1 1) ∧
    (sHop.core 0).hops.find? (fun x => x.ch == 6 && decide (x.due ≤ (sHop.core 0).sched)) = some { hop 1 2 with ch := 6 } ∧
    (sHop.core 0).placed = true ∧ (sHop.core 0).lock = true ∧ (1 : Word) ≠ 2 := by decide +kernel
/-- A sector without a record has no error. -/
theorem witness_no_soft : ∀ a, (sectorOf (sWk (walk0 0 0x10000 false)) a).soft = 0 := fun _ => rfl
/-- One bundle within the last two cycles, with the byte that its store found in the vault, or with none. -/
def kPair (released : List (Nat × Nat × List (Nat × Byte))) : Core :=
  { kA with lock := true, issued := 6, recent := [(5, 10)], recentPcs := [(5, 4, 8)], released := released }
theorem witness_release_buffer : ∀ l ∈ [[(5, 0, [(0x100, (7 : Byte))])], []], ((at_ (kPair l)).core 0).recent = [(5, 10)] ∧ ((at_ (kPair l)).core 0).recentPcs = [(5, 4, 8)] ∧ 12 ≤ 10 + 2 ∧
    5 < ((at_ (kPair l)).core 0).issued ∧ ((at_ (kPair l)).core 0).released = l ∧ ((at_ (kPair l)).core 0).lock = true := by decide +kernel

/-! Replies, containment, pre-emption. -/

def msg0 (kind : StopKind) (src : Nat) (code : Code) : Msg := { gal := 0, slot := src, core := 0, kind := kind, code := code, src := src, pc := 4 }
def sMail (m : Msg) (stop : Option StopKind) : State :=
  { at_ { kA with stop := stop, rstack := [1, 2, 3, 4, 5, 6, 7], frames := [{ limit := 1 }], rgd := 1 } with mail := [m] }
theorem witness_RepliesComplete : (sMail (msg0 .split 0 .limit) (some .split)).awaitsReply 0 = true ∧
    ((sMail (msg0 .split 0 .limit) (some .split)).core 0).world = 0 ∧
    (∀ m ∈ [msg0 .split 0 .limit, msg0 .trap 0 (.trap 5), msg0 .boundary 0 .chkfail, msg0 .boundary 1 .undefopc],
      (sMail m (some .split)).mailAt 0 m.src = some m ∧ sealCode m.code = none ∧ m.code ≠ .lockstep) ∧
    ((sMail (msg0 .split 0 .limit) (some .split)).core 0).rstack.length < 8 := by decide +kernel
def sScratch : State := { at_ { kA with rf := { kA.rf with allot := 15 }, stop := some .split } with mail := [msg0 .split 0 .limit] }
theorem witness_scratch_write : 0 < (sScratch.core 0).rf.limit ∧ sScratch.awaitsReply 0 = true := by decide +kernel
/-- The only message is of a seat that a deadline dumps. -/
theorem witness_reply_ignored : ∀ m ∈ ({ at_ { kA with abort := some (.deadline, 0) } with mail := [msg0 .split 0 .limit] } : State).mail,
    m.gal = 0 → m.slot = 0 → (({ at_ { kA with abort := some (.deadline, 0) } with mail := [msg0 .split 0 .limit] } : State).core m.core).abort ≠ none := by
  decide +kernel

def task7 : Task := { id := 7, state := .running, creator := .packet 1 0, job := 1, taskid := 5, prio := 1, nseats := 1, cores := [0], blocks := [3], est := 1 }

/-- A FENCE.SYSTEM, a FENCE.HXQ, a QFENCE and a TEND that wait, and flags that a WAIT waits for. -/
def sW' : State := at_ { kW with hxq := [[{ iss := 0, write := true, ptr := 0x20000, n := 8, va := 0x20000, home := some (.host 0x300 1 0x20000), pos := 0 }]] } 7
theorem witness_flushing_waits : sW'.on g0 = true ∧ sW'.cur.weak = [] ∧ (sW'.modCur Core.flushWc).fenceWaits sW'.ctx.core .system = true ∧
    (sW'.modCur Core.flushWc).queueDone sW'.ctx.core .hxq = false ∧ (1, Queue.cpq) ∈ [(0, Queue.mxq), (1, .cpq), (2, .cmq), (3, .hxq)] ∧
    (8 : BitVec 4).getLsbD 3 = true ∧ (sW'.modCur Core.flushWc).cur.mxq ≠ [] ∧
    flagHolds .ge (flagOf sW'.cur.flags 255) ((sW'.enterSlot { slot := 7, ins := .emptyBundle } []).waitV (.imm 1)) = false ∧
    (∀ j, j ≤ (7 : BitVec 3).toNat →
      flagHolds .eq (flagOf sW'.cur.flags (248 + j)) ((sW'.enterSlot { slot := 7, ins := .emptyBundle } []).waitV (.imm 1)) = false) := by decide +kernel
def sFull : State := { sP with tasks := List.replicate 4096 task7 }
/-- Every other hold: no free slot, none published, a full pool, CMQ and HXQ, results on their way, a busy tile. -/
def kHold : Core :=
  { kSt with rf := { kSt.rf with chans := [(1, { chanMP with w3 := 2 })] }, cmq := List.replicate 64 { pkts := [pkt0], iss := 0 }, hxq := List.replicate 32 []
             inflight := [pend 0 0 5, { pend 0 0 5 with dest := .v 3 }], tileBusy := [0] }
def sHold : State := at_ kHold 7
theorem witness_holds : sHold.on g0 = true ∧ sHold.cur.weak = [] ∧ sHold.cur.rgd = 0 ∧ 64 ≤ sHold.cur.cmq.length ∧ 32 ≤ sHold.cur.hxq.length ∧
    (sHold.enterSlot { slot := 6, ins := .emptyBundle } []).rdS 2 (.reg 1) ≠ 0 ∧
    checkPtr sHold.cur sHold.src.limit lWindows ((sHold.enterSlot { slot := 5, ins := .emptyBundle } []).rdS 1 (.reg 9) + sHold.src.sreg 0) 8 8 = .ok (.va 0x20000) ∧
    sHold.cur.globalPieces 0x20000 8 true = [((0x20000, 0, 8), .hit (.host 0x80000 1 0x20000))] ∧
    (pend 0 0 5).dest = .s 1 ∧ ({ pend 0 0 5 with dest := .v 3 } : Pend).dest = .v 3 ∧ (0 : TReg).toNat ∈ sHold.cur.tileBusy ∧
    (sHold.chan 1).usable sHold.cur sHold.src.limit false 1 = true ∧
    (BitVec.ofNat 32 (sHold.chan 1).depth - ((sHold.chan 1).count - flagOf sHold.cur.flags (sHold.chan 1).eflag)).toNat < 1 ∧
    (sP.chan 2).usable sP.cur sP.src.limit true 1 = true ∧ (flagOf sP.cur.flags (sP.chan 2).fflag - (sP.chan 2).count).toNat < 1 := by decide +kernel
theorem witness_full_pool : sFull.poolFree = 0 ∧ sFull.launches = [] ∧ ({ sFull with launches := [(0, 0)] } : State).poolFree = 0 ∧ sFull.ctx.core = 0 := by
  decide +kernel

theorem witness_ContainmentCompletes : (sMail (msg0 .split 0 .limit) (some .split)).mailAt 0 0 = some (msg0 .split 0 .limit) ∧
    ((sMail (msg0 .split 0 .limit) (some .split)).core 0).frames = { limit := 1 } :: [] ∧ ({ limit := 1 } : Frame).retry ≠ ({ limit := 1 } : Frame).limit ∧
    ({ task7 with rst := true } : Task).id = ((sMail (msg0 .split 0 .limit) (some .split)).core 0).task ∧
    ({ sMail (msg0 .split 0 .limit) (some .split) with tasks := [{ task7 with rst := true }] } : State).seatCores { task7 with rst := true } = [0] ∧
    ({ task7 with rst := true } : Task).ancestors = [] ∧ ((sMail (msg0 .split 0 .limit) (some .split)).core 0).correct ≤ 0 ∧
    ((sMail (msg0 .split 0 .limit) (some .split)).core 0).keep = none ∧ ((sMail (msg0 .split 0 .limit) (some .split)).core 0).rolling = none ∧
    (sJ kA).job 1 = some job1 ∧ job1.aborted = false ∧ ({ sJ kA with jobs := [{ job1 with dlc := 1000 }] } : State).overdue = [{ job1 with dlc := 1000 }] ∧
    ({ sMail (msg0 .split 0 .limit) (some .split) with clock := 0x100000 } : State).galTasks 0 = [] ∧
    (sMail (msg0 .split 0 .limit) (some .split)).mail.length ≤ 512 ∧ (sMail (msg0 .split 0 .limit) (some .split)).sessions = [] ∧
    ((sMail (msg0 .split 0 .limit) (some .split)).gal (galOf 0)).fenced = false := by decide +kernel

def head8 (prio : Nat) : Task := { id := 8, state := .ready, creator := .packet 2 0, job := 1, taskid := 6, prio := prio, nseats := 8, readyAt := 1 }
/-- Gallery 0 alone is not fenced, and task 7 holds its first core. -/
def sPre (prio : Nat) (v : Task) (ps : List Preempt := []) (clock : Nat := 0) (k : Core := kA) : State :=
  { sJ k with tasks := [v, head8 prio], gals := (List.range 127).map (fun g => (g + 1, { fenced := true })), preempts := ps, clock := clock }
def vict (est : Nat) (rst : Bool) : Task := { task7 with est := est, rst := rst }
theorem witness_PreemptionCompletes : (sPre 9 task7).task 7 = some task7 ∧ task7.state = .running ∧
    (∀ kind ∈ [PreemptKind.checkpoint, .drain], (sPre 9 task7 [{ task := 7, kind := kind, since := 0 }] 1024).task 7 = some task7) ∧ 0 + 1024 ≤ 1024 ∧
    1023 < 0 + 1024 ∧ 0 + 16384 ≤ 16384 ∧ 16383 < 0 + 16384 ∧ (sPre 9 task7 [] 0).preempts = [] ∧ (sPre 9 task7).seatCores task7 = [0] ∧
    ((sPre 9 task7).core 0).begun = true ∧ ((sPre 9 task7).core 0).betweenBundles = true ∧ ((sPre 9 task7).core 0).drained 0 = true ∧
    ((sPre 9 task7 [] 0 { kA with cmq := [{ pkts := [pkt0], iss := 0 }] }).core 0).drained 0 = false := by decide +kernel
/-- The rows of 12 Table 12.8 at their bounds: 4,095 cycles left, 4,096 of a restartable task, and of another one at differences 8 and 7. -/
theorem witness_preempt_rows : (∀ e ∈ [(9, vict 4095 true), (9, vict 4096 true), (9, vict 4096 false), (8, vict 4096 false)],
    (sPre e.1 e.2).contenders = [(head8 e.1, true)] ∧ (sPre e.1 e.2).task e.2.id = some e.2 ∧
    (sPre e.1 e.2).victimsFor (head8 e.1) (fun t => decide (t.prio < (head8 e.1).prio)) = [e.2] ∧ (sPre e.1 e.2).reached e.2 = 0) ∧
    sA.contenders = [] := by decide +kernel

/-! Saves, dumps, placing. An access of the I/O die to host page 1 of the tables comes to host memory, wherever it stands in it. -/

/-- The parts of a state that a walk reads are those of sJ. -/
def Mapped (s : State) : Prop := s.hbm = tables ∧ s.sectors = [] ∧ s.keys = [(1, key1)] ∧ s.jobs = [job1] ∧ s.host.featAcc = 0x7FF ∧ s.hostFails = false
theorem walkFix_clean {s : State} (h : s.sectors = []) (va : Nat) : ∀ fuel base, s.walkFix va fuel base = s
  | 0, _ => rfl
  | fuel + 1, base => by
    have hp (a : Nat) : (s.portRead (.hbm a 0 va) 8).1 = s := by simp [State.portRead, h]
    simp only [State.walkFix, hp]
    split
    · rfl
    · exact walkFix_clean h va fuel _
theorem ioWalk_mapped {s : State} (h : Mapped s) (va : Nat) (w : Bool) (hv : va / 2 ^ 30 = 1) : ∃ pa, s.ioWalk 1 0 va w = .ok (s, .host pa 1 va) := by
  obtain ⟨h1, h2, h3, h4, h5, -⟩ := h
  have hr : ((s.worldOf 1 0).map (·.troot)).getD 0 = 0x1000 := by simp [State.worldOf, State.job, h4, job1]
  have e3 : levelIndex 3 va = 0 := by simp only [levelIndex]; omega
  have e2 : levelIndex 2 va = 1 := by simp only [levelIndex]; omega
  have w1 : Mem.word tables (4096 + 8 * 0) = 0x2001#64 := by decide +kernel
  have f1 : field 0x2001#64 51 8 * 256 = 8192 := by decide +kernel
  have w2 : Mem.word tables (8192 + 8 * 1) = 0x177#64 := by decide +kernel
  have ha : s.accepted 7 = true := by simp [State.accepted, h5]
  have hk : keyLive s 1 0 1 = true := by simp [keyLive, h3, sget, key1]
  have leaf (w : Bool) : walkFrom s 1 0 true va w true 4 0x1000 0 = .leaf 8200 2 0x177#64 2 := by
    have b1 : badEntry true 3 0x2001#64 = false := by decide +kernel
    have b2 : badEntry true 2 0x177#64 = false := by decide +kernel
    have f2 : field 0x177#64 23 8 = 1 := by decide +kernel
    have g : (0x2001#64 : Word).getLsbD 0 = true ∧ (0x2001#64 : Word).getLsbD 1 = false ∧ (0x177#64 : Word).getLsbD 0 = true ∧
      (0x177#64 : Word).getLsbD 1 = true ∧ (0x177#64 : Word).getLsbD 7 = false ∧ (0x177#64 : Word).getLsbD 3 = false ∧
      (0x177#64 : Word).getLsbD 2 = true := by decide
    obtain ⟨g1, g2, g3, g4, g5, g6, g7⟩ := g
    have hs (a : Nat) : sectorOf s a = {} := by rw [sectorOf, h2]; rfl
    rw [walkFrom]
    simp only [e3, h1, w1, hs, b1, g1, g2, f1, beq_iff_eq, Bool.not_true, Bool.not_false, Bool.false_or, Bool.false_eq_true,
      if_false, if_true]
    rw [walkFrom]
    simp only [e2, h1, w2, hs, b2, f2, hk, g3, g4, g5, g6, g7, Bool.not_true, Bool.and_false, Bool.false_eq_true, if_false]
    rfl
  rw [State.ioWalk, hr, ha, leaf w]
  simp only [walkFix_clean h2]
  cases w <;> exact ⟨_, rfl⟩
theorem pieces_in {a n : Nat} {q : Nat × Nat × Nat} (h : q ∈ piecesOf a n) : a ≤ q.1 ∧ q.1 < a + n := by
  unfold piecesOf at h
  obtain ⟨i, -, hi⟩ := List.mem_filterMap.mp h
  dsimp only at hi
  split at hi
  · cases hi; constructor <;> dsimp only <;> omega
  · cases hi
theorem ioWriteL_mapped : ∀ (bs : List PByte) (l : List (Nat × Nat × Nat)) (s k : State), Mapped s → (∀ q ∈ l, q.1 / 2 ^ 30 = 1) →
    ∃ u, s.ioWriteL 1 0 k bs l = .ok u ∧ u.sessions = s.sessions
  | bs, [], s, _, _, _ => ⟨s, by cases bs <;> rfl, rfl⟩
  | bs, q :: t, s, k, h, hl => by
    obtain ⟨pa, hw⟩ := ioWalk_mapped h q.1 true (hl q (by simp))
    have hk : (sget {} s.keys 1).live = true := by rw [h.2.2.1]; decide
    have he : s.hostError (.host pa 1 q.1) = false := by rw [State.hostError, h.2.2.2.2.2]; rfl
    simp only [State.ioWriteL, hw, writeHome, hk, he, Bool.not_true, Bool.false_eq_true, if_false]
    exact (ioWriteL_mapped (bs.drop q.2.2) t _ _ (by exact h) (fun x hx => hl x (by simp [hx])))
theorem ioGetL_mapped : ∀ (l : List (Nat × Nat × Nat)) (s : State), Mapped s → (∀ q ∈ l, q.1 / 2 ^ 30 = 1) → ∃ bs, s.ioGetL 1 0 l = .ok (s, bs)
  | [], s, _, _ => ⟨[], rfl⟩
  | q :: t, s, h, hl => by
    obtain ⟨pa, hw⟩ := ioWalk_mapped h q.1 false (hl q (by simp))
    have hk : (sget {} s.keys 1).live = true := by rw [h.2.2.1]; decide
    obtain ⟨bs, hb⟩ := ioGetL_mapped t s h (fun x hx => hl x (by simp [hx]))
    have he : s.hostError (.host pa 1 q.1) = false := by rw [State.hostError, h.2.2.2.2.2]; rfl
    simp [State.ioGetL, hw, Io.bind, readHome, hk, he, State.portRead, hb]
theorem ioPut_mapped {s : State} (h : Mapped s) (va : Nat) (bs : List PByte) (h1 : 2 ^ 30 ≤ va) (h2 : va + bs.length ≤ 2 ^ 31) :
    ∃ u, s.ioPut 1 0 va bs = .ok u ∧ u.sessions = s.sessions :=
  ioWriteL_mapped bs _ s s h (fun q hq => by have := pieces_in hq; omega)
theorem ioGet_mapped {s : State} (h : Mapped s) (va n : Nat) (h1 : 2 ^ 30 ≤ va) (h2 : va + n ≤ 2 ^ 31) : ∃ bs, s.ioGet 1 0 va n = .ok (s, bs) :=
  ioGetL_mapped _ s h (fun q hq => by have := pieces_in hq; omega)
theorem image8_length (k : Core) (a b : Nat) : (k.image8 a b).length = k.imageLen := by simp [Core.image8]

def kSave : Core := { kA with saveAsked := true, saveAt := some 0, seat := 0, nseats := 1 }
def task7s : Task := { task7 with galBlocks := [9], saved := [0], winAt := [(0, 0)] }
def sSave : State := { sJ kSave with tasks := [task7s], gals := [(0, { windows := [(7, 0, 0x20000, 0x10000)] })] }
theorem sSave_mapped : Mapped sSave := ⟨rfl, rfl, rfl, rfl, rfl, rfl⟩
theorem witness_SeatSavesComplete : sSave.saveDue 0 = true ∧ (sSave.core 0).rf.soft = [] ∧ sSave.task (sSave.core 0).task = some task7s ∧
    (∃ u, sSave.ioPut (sSave.core 0).job (sSave.core 0).world (sSave.blockVa (sSave.core 0).job (task7s.blocks.getD (sSave.core 0).seat 0))
      ((sSave.core 0).image8 1 0) = .ok u) ∧
    sSave.vaultWindow 7 0 = some (0, 0x20000) ∧ sSave.windowDue task7s 0 = true ∧ (sSave.gal 0).soft = [] ∧ (sSave.gal 0).poison = [] ∧
    (∃ u, sSave.ioPut 1 0 (sSave.blockVa 1 (task7s.galBlocks.getD 0 0)) (((sSave.gal 0).vault.read 0x20000 task7s.windowBytes).map (fun b => (b, false))) = .ok u) := by
  refine ⟨by decide +kernel, rfl, by decide +kernel, ?_, by decide +kernel, by decide +kernel, rfl, rfl, ?_⟩
  · have hb : sSave.blockVa (sSave.core 0).job (task7s.blocks.getD (sSave.core 0).seat 0) = 0x40300000 := by decide +kernel
    have hl : (sSave.core 0).imageLen = 0xA0000 := by decide +kernel
    have hj : (sSave.core 0).job = 1 ∧ (sSave.core 0).world = 0 := by decide +kernel
    rw [hb, hj.1, hj.2]
    exact (ioPut_mapped sSave_mapped 0x40300000 _ (by omega) (by rw [image8_length, hl]; omega)).imp (fun _ h => h.1)
  · have hb : sSave.blockVa 1 (task7s.galBlocks.getD 0 0) = 0x40900000 := by decide +kernel
    have hl : task7s.windowBytes = 0x10000 := by decide +kernel
    rw [hb]
    exact (ioPut_mapped sSave_mapped 0x40900000 _ (by omega) (by rw [List.length_map, Mem.length_read, hl]; omega)).imp (fun _ h => h.1)
/-- The only task's only seat is the last to be saved. -/
theorem witness_last_saved : ([task7] : List Task) = [task7] ∧ kSave.task = task7.id ∧ kSave.seat ∉ task7.saved ∧
    task7.saved.length + task7.ended.length + 1 = task7.nseats := by decide +kernel
/-- A copy of 256 bytes at level 1 of a seat that has its context block: its undo space takes them. -/
def kUndo : Core := { kR 1 [] with seat := 0, nseats := 1, keep := some (0x9000000100000000, 256) }
theorem witness_keep_undo : ∃ v, (sJ kUndo).areaPut 1 0 (0x40300000 + undoOffset 1) (256 - 256) (List.replicate 256 (0, false)) = .ok v :=
  (ioPut_mapped (s := sJ kUndo) ⟨rfl, rfl, rfl, rfl, rfl, rfl⟩ (0x40300000 + undoOffset 1 + (256 - 256) / 32 * 32) _ (by decide)
    (by rw [List.length_append, List.length_replicate, List.length_drop, List.length_replicate]; decide)).imp (fun _ h => h.1)
theorem witness_seat_block : ({ sJ kUndo with tasks := [task7] } : State).seatBlock 0 = some 0x40300000 := by decide +kernel
/-- The block's page is under migration. -/
theorem witness_keep_held : (match (sJ kUndo).ioWalk 1 0 0x80300000 true with
    | .held => true
    | _ => false) = true ∧ (match (sJ kUndo).areaPut 1 0 0x80300000 0 [(0, false)] with
    | .held => true
    | _ => false) = true := by decide +kernel
def sDump (n : Nat) : State := sJ { kA with abort := some (.deadline, n), dump := true }
theorem natToBytes_length : ∀ n x, (natToBytes n x).length = n
  | 0, _ => rfl
  | n + 1, x => by rw [natToBytes, List.length_cons, natToBytes_length n]
theorem dumpHeader_length (k : Core) (code : Code) (a b : Nat) : (k.dumpHeader code a b).length = 256 := by
  simp only [Core.dumpHeader, words4, words8, List.flatMap_cons, List.flatMap_nil, List.append_nil, List.length_append, List.length_replicate,
    natToBytes_length]
theorem witness_seat_dump : ((sDump 0).core 0).abort = some (.deadline, 0) ∧ ((sDump 0).core 0).dump = true ∧ (sDump 0).job ((sDump 0).core 0).job = some job1 ∧
    job1.dumpLen ≤ 8 ∧ (sDump 0).sessions = [] ∧ 0 < job1.dumpLen ∧ ((sDump 0).gal (galOf 0)).fenced = false ∧
    (∃ u, (sDump 0).ioPut ((sDump 0).core 0).job ((sDump 0).core 0).world (job1.dumpBase + 0 * 2 ^ 20)
      ((((sDump 0).core 0).dumpHeader .deadline 0 job1.dlc).map (fun b => (b, false)) ++ ((sDump 0).core 0).image8 2 0) = .ok u ∧ u.sessions = []) := by
  refine ⟨rfl, rfl, rfl, by decide, rfl, by decide, rfl, ?_⟩
  have hl : ((sDump 0).core 0).imageLen = 0xA0000 := by decide +kernel
  have hb : job1.dumpBase + 0 * 2 ^ 20 = 0x50000000 := by decide
  have hj : ((sDump 0).core 0).job = 1 ∧ ((sDump 0).core 0).world = 0 := by decide +kernel
  have hm : Mapped (sDump 0) := ⟨rfl, rfl, rfl, rfl, rfl, rfl⟩
  rw [hb, hj.1, hj.2]
  exact ioPut_mapped hm 0x50000000 _ (by omega) (by rw [List.length_append, image8_length, List.length_map, dumpHeader_length, hl]; omega)
theorem blocksRead_one {s : State} {t : Task} {i seat va n : Nat} {k : Core} {bs : List PByte}
    (h1 : s.saves.filter (fun e => e.1 == t.id) = [(i, seat, k)]) (h2 : s.saveVaults.filter (fun e => e.1 == t.id) = [])
    (hv : s.blockVa t.job (t.blocks.getD seat 0) = va) (hn : k.imageLen = n) (h : s.ioGet t.job t.world va n = .ok (s, bs)) :
    s.blocksRead t = .ok (s, [(seat, k.ofImage bs)], []) := by
  subst hv hn
  simp only [State.blocksRead, h1, h2, List.map_nil, List.foldl_cons, List.foldl_nil, Io.bind, h, List.nil_append]
/-- A saved task whose seat takes core 0 again, and a ready one that takes it for the first time. -/
def saved7 : Task := { task7 with state := .saved, cores := [0], saved := [0] }
def sRe : State := { sJ {} with tasks := [saved7], saves := [(7, 0, kA)] }
theorem witness_task_replace : sRe.powered = true ∧ sRe.nextPlacing = some (saved7, [0]) ∧ saved7.state = .saved ∧ sRe.imageOf saved7 = some im1 ∧
    (∃ k, sRe.blocksRead saved7 = .ok (sRe, [(0, k)], [])) ∧ sRe.extentsOf saved7 im1 = .ok (sRe, []) ∧ sRe.spillBack saved7 = .ok (sRe, []) ∧
    saved7.cores[0]? = some 0 := by
  refine ⟨by decide +kernel, by decide +kernel, rfl, by decide +kernel, ?_, rfl, rfl, rfl⟩
  have hm : Mapped sRe := ⟨rfl, rfl, rfl, rfl, rfl, rfl⟩
  have hl : kA.imageLen = 0xA0000 := by decide +kernel
  have hb : sRe.blockVa saved7.job (saved7.blocks.getD 0 0) = 0x40300000 := by decide +kernel
  have hj : saved7.job = 1 ∧ saved7.world = 0 := ⟨rfl, rfl⟩
  have h := ioGet_mapped hm 0x40300000 0xA0000 (by omega) (by omega)
  rw [← hj.1, ← hj.2] at h
  exact h.elim (fun _ h => ⟨_, blocksRead_one (i := 7) (seat := 0) rfl rfl hb hl h⟩)
def ready7 : Task := { task7 with state := .ready, cores := [0], args := [11] }
def sPl : State := { sJ {} with tasks := [{ ready7 with cores := [] }] }
theorem witness_TasksComplete : sPl.powered = true ∧ sPl.begin.nextPlacing = some (ready7, [0]) ∧ ready7.state = .ready ∧ sPl.begin.imageOf ready7 = some im1 ∧
    sPl.begin.extentsOf ready7 im1 = .ok (sPl.begin, []) ∧ sPl.spill = [] ∧ ready7.cores.Nodup :=
  ⟨by decide +kernel, by decide +kernel, rfl, by decide +kernel, rfl, rfl, by decide⟩
def child9 (c : Creator) : Task := { task7 with id := 9, state := .ended, creator := c, cores := [], taskid := 6 }
def sChild (c : Creator) : State := { sJ kA with tasks := [task7, child9 c] }
theorem witness_task_end : (sChild (.packet 1 0)).task 9 = some (child9 (.packet 1 0)) ∧ (sChild (.packet 1 0)).seatCores (child9 (.packet 1 0)) = [] ∧
    (sChild (.launch 0 7 0 (some 8))).task 7 = some task7 ∧ (sChild (.launch 0 7 0 (some 8))).liveTask task7.job task7.taskid = some task7 ∧
    0 ∉ task7.saved ∧ task7.cores[0]? = some 0 ∧ 0 < (sChild (.packet 1 0)).poolFree ∧
    (3, 0) ∈ ({ sA with launches := [(5, 0), (3, 0)] } : State).launches ∧
    (∀ d, (d, 0) ∈ ({ sA with launches := [(5, 0), (3, 0)] } : State).launches → 3 ≤ d) := by
  refine ⟨by decide +kernel, by decide +kernel, by decide +kernel, by decide +kernel, by decide, rfl, by decide +kernel, by decide +kernel, ?_⟩
  intro d h
  simp at h
  omega

/-! The Foyer and graphs: host page 1 with a descriptor, node records, words, a spawn descriptor and a ring of packets. -/

/-- A read of the I/O die that answers something of which a check holds. -/
def ioHas {α : Type} (x : Io α) (f : α → Bool) : Bool := match x with
  | .ok a => f a
  | _ => false
def W : Nat := 0x40000000
/-- A node record: word 0, pointer, VALUE and bound, lists of one entry each, and its last words. -/
def rec_ (a ptr v l0 l1 n tail : Nat) : List Byte := words8 [a, ptr, v, l0, l1, n, tail, 0]
def world0 : Mem :=
  [(0, words8 [11, 12, 0, 0, 0, 0, 0, 18, 2 ^ 32 + 2 ^ 44 + 3 * 2 ^ 54, 2 ^ 40, 0, 0, 0, 1]),
   (0x100, rec_ 0 W 0 (W + 0x410) 0 1 0 ++ rec_ 1 (W + 0x400) 0 (W + 0x410) (W + 0x412) 0x10001 0 ++ rec_ 1 (W + 0x404) 0 (W + 0x410) (W + 0x412) 0x10001 0 ++
     rec_ 2 (W + 0x400) (2 * 2 ^ 32) (W + 0x410) (W + 0x412) (0x10001 + 2 ^ 32) (1 + 2 ^ 16) ++ rec_ (3 + 2 ^ 18) (W + 0x400) 1 (W + 0x410) 0 1 0 ++
     rec_ 4 (W + 0x404) 3 (W + 0x410) 0 1 0 ++ rec_ 8 (W + 0x440) 0 (W + 0x410) 0 1 0),
   (0x400, [1]), (0x410, [1, 0, 2, 0]), (0x440, words8 [W, W + 0x480, 2 + 3 * 2 ^ 20 + 2 * 2 ^ 32, W + 0x4C0, W + 0x500]),
   (0x480, words8 [5 + 2 * 2 ^ 20, 6 + 1 * 2 ^ 20]), (0x600, words8 [1, W, W + 0x404, 7]), (0x640, words8 [2 + 7 * 2 ^ 16, W + 0x100, 0, 0]),
   (0x680, words8 [1 + 16, W, 0, 0]), (0x700, words4 [0x4D495254, 0, 1, 0x10000, 8, 64, 0, 0]),
   (0xA00, words4 [0x4D495254, 0, 1, 0x10000, 8, 64, 32, 0])].foldl (fun (m : Mem) e => m.write e.1 e.2) []
/-- Queue 1 with its ring at 0x600: packets from RIDX 0 or 1 on. -/
def qRec (ridx widx : Nat) : List Byte := words8 [W + 0x600, 4 + 2 ^ 16 + 3 * 2 ^ 40 + 5 * 2 ^ 48, widx, ridx]
def sF (ridx : Nat) (st : FoyerState) (widx : Nat := 2) : State :=
  { sJ {} with
    hbm := (tables.write 0x100040 (qRec ridx widx)).write 0x100080 (qRec 0 1)
    hostMem := world0, hostTags := (List.range 128).map (fun i => (i, { serial := 5, tweak := W / 32 + i, serial1 := 5, tweak1 := W / 32 + i }))
    foyer := [(4, { state := st, queue := 1, start := 0 })] }
def qe (ridx widx : Nat) : QEntry := { base := W + 0x600, logn := 4, job := 1, world := 0, prio := 3, slice := 5, widx := widx, ridx := ridx, halt := false }

theorem witness_FoyerCompletes : ({ sF 0 .free with host := { stage := 3 } } : State).host.pstate ≠ 1 ∧ (sF 0 .free).host.ptarget ≠ some 1 ∧
    ({ sF 0 .free with hbm := (sF 0 .free).hbm.write 0x10005C [1] } : State).qUnread 1 = false ∧ ({} : HostFn).vf = 0 ∧ (sF 0 .free).host.stage = 6 ∧
    (sF 0 .free).qEntry (1 % 65536) = .ok (qe 0 2) ∧ (sF 0 .free).slotOf 1 = none ∧ (sF 0 .free).waiting = [] ∧ ((sF 0 .free).slot 127).state = .free ∧
    ({ sF 0 .free with waiting := [(1, 0)] } : State).qEntry 1 = .ok (qe 0 2) ∧ (qe 0 2).halt = false ∧ (sF 0 .free).heldIo = [] ∧
    (sF 0 .free).qHalted (1 % 65536) = false ∧ ({ sF 0 .free with hbm := (sF 0 .free).hbm.write 0x10005C [1] } : State).qHalted 1 = true := by decide +kernel
/-- RIDX 0 is a TASK packet, RIDX 1 a GRAPH packet of seven nodes. -/
theorem witness_packet_admit : ((sF 0 .bound).slot 4).state = .bound ∧ (sF 0 .bound).qEntry 1 = .ok (qe 0 2) ∧ (sF 1 .bound).qEntry 1 = .ok (qe 1 2) ∧
    ioHas ((sF 0 .bound).nextPacket 1 (qe 0 2)) (fun r => match r with
      | some (s1, bs) => bfield bs 0 3 0 == 1 && ioHas (s1.readDesc 1 0 (bword bs 8) (some 3) 0) (fun u => u.1.slot 4 == (sF 0 .bound).slot 4 && u.1.entryForFoyer)
      | none => false) = true ∧
    ioHas ((sF 1 .bound).nextPacket 1 (qe 1 2)) (fun r => match r with
      | some (s1, bs) => bfield bs 0 3 0 == 2 && ioHas (s1.armNodes (qe 1 2) (bword bs 8) (bfield bs 0 28 16)) (fun u => u.1.slot 4 == (sF 1 .bound).slot 4 && u.2.length == 7)
      | none => false) = true := by decide +kernel
/-- A LAUNCH of the descriptor in host page 1, of one in a page that is missing, and of one that is no descriptor. -/
def kLaunch (p : Word) : Core :=
  { kA with rf := { kA.rf with s := [(1, p)] }
            tcache := [{ vbase := 0x40000000, len := 0x40000000, pbase := 0, world := 0, w := true, x := false, d := true, host := true, key := 1 }] }
def sLaunch (p : Word) : State := { sF 0 .bound with cores := [(0, kLaunch p)], ctx := { src := (kLaunch p).rf, slot := 7 } }
theorem witness_launch : checkPtr (sLaunch 0x40000000).cur (sLaunch 0x40000000).src.limit launchWindows 0x40000000 256 256 = .ok (.va 0x40000000) ∧
    firstBad ((sLaunch 0x40000000).cur.globalPieces 0x40000000 256 false) = none ∧ (sLaunch 0x40000000).launchFault 0 0x40000000 = none ∧
    firstBad ((sLaunch 0xC0000000).cur.globalPieces 0xC0000000 256 false) = none ∧
    ((sLaunch 0xC0000000).launchFault 0 0xC0000000).map (·.1) = some .nopage ∧
    ((sLaunch 0x40000100).launchFault 0 0x40000100).map (·.1) = some .descriptor := by decide +kernel
/-- A slice of 5 µs is over at clock 8,000; queue 2 of the same priority waits or does not. -/
theorem witness_slices : (∀ st ∈ [FoyerState.bound, .active], ({ sF 0 st with clock := 8000 } : State).qEntry (({ sF 0 st with clock := 8000 } : State).slot 4).queue = .ok (qe 0 2) ∧
      (({ sF 0 st with clock := 8000 } : State).slot 4).start + (qe 0 2).slice * wallUnits = ({ sF 0 st with clock := 8000 } : State).wall ∧
      ({ sF 0 st with clock := 8000 } : State).rivalled 3 = false ∧ ({ sF 0 st with clock := 8000, waiting := [(2, 7)] } : State).rivalled 3 = true ∧
      ({ sF 0 st with clock := 8000, waiting := [(2, 7)] } : State).ready = [(3, 7, 2)]) ∧ (qe 0 2).ridx ≠ (qe 0 2).widx ∧
    (sF 2 .bound).qEntry 1 = .ok (qe 2 2) ∧ (qe 2 2).ridx = (qe 2 2).widx ∧ (sF 2 .bound).queueBusy 1 = false := by decide +kernel
def adm (saddr : Word) : Admitted := { queue := 1, index := 0, slot := 4, saddr := saddr, sval := 7, job := 1, world := 0, due := true }
def sAdm (saddr : Word) : State := { sF 0 .bound with admitted := [adm saddr] }
theorem witness_completion_word : (sAdm 0).admitted.find? (·.due) = some (adm 0) ∧ (sAdm 0x40000404).admitted.find? (·.due) = some (adm 0x40000404) ∧
    (0x40000404 : Word) ≠ 0 ∧ ioHas (({ sAdm 0x40000404 with admitted := (sAdm 0x40000404).admitted.erase (adm 0x40000404), graphs := [] } : State).ioAdd 1 0 0x40000404 7)
      (fun _ => true) = true ∧ sA.admitted.find? (·.due) = none := by decide +kernel

/-- Vector 20 of the PF is masked after reset, and clear once its control word has been written. -/
def openVec (s : State) (vec : Nat) : State := { s with host := { s.host with msixTab := sset 0 (2 * vec + 1) (msixReset (2 * vec + 1)) s.host.msixTab } }
theorem witness_msix : ({} : State).msixMasked 0 20 = true ∧ (openVec {} 20).msixMasked 0 20 = false ∧ ({} : State).msixMasked 0 3 = true ∧
    (openVec {} 3).msixMasked 0 3 = false := by decide +kernel
/-- The graph of the seven records, its node n as given. -/
def gr0 (n : Nat) (x : Node) (halted : Bool := false) : Graph :=
  { id := 4, queue := 1, index := 1, job := 1, world := 0, prio := 3, ptr := 0x40000100, nodes := (List.replicate 7 {}).set n x, halted := halted }
def sGr (n : Nat) (x : Node) : State := { sF 0 .bound with graphs := [gr0 n x] }
theorem witness_GraphNodesComplete : (∀ x ∈ [({ count := 1 } : Node), { count := 2 }], (sGr 1 x).graph 4 = some (gr0 1 x) ∧ (gr0 1 x).nodes[1]? = some x ∧
      x.state = .pending ∧ (gr0 1 x).halted = false) ∧
    (match ((sGr 1 { count := 1 }).modNode 4 1 (fun y => { y with count := 0, state := .skipped })).graph 4 with
      | some g => ioHas (((sGr 1 { count := 1 }).modNode 4 1 (fun y => { y with count := 0, state := .skipped })).passSkip g 1) (fun _ => true)
      | none => false) = true ∧
    (∀ x ∈ [({ state := .acting } : Node), { state := .complete }], (sGr 1 x).graph 4 = some (gr0 1 x) ∧ (gr0 1 x).nodes[1]? = some x) ∧
    ioHas ((sGr 0 {}).nodeRec (gr0 0 {}) 0) (fun r => ioHas (r.1.successors (gr0 0 {}) 0 (bword r.2 0x18) (bfield r.2 0x28 11 0)) (fun l => l.2 == [1])) = true := by
  decide +kernel
def act (begun : Bool := false) (iter : Nat := 0) : Node := { state := .acting, begun := begun, iter := iter }
def sAct (n : Nat) (begun : Bool := false) (iter : Nat := 0) : State := sGr n (act begun iter)
def gAct (n : Nat) (begun : Bool := false) (iter : Nat := 0) : Graph := gr0 n (act begun iter)
theorem witness_node_kernel : ioHas ((sAct 0).nodeRec (gAct 0) 0) (fun r => ioHas (r.1.readDesc 1 0 (bword r.2 8) (some 3) 0) (fun d => d.1.entryForNode)) = true ∧
    (sAct 0 true).tasks = [] ∧ (act true).tiles = [] ∧ (sAct 0 true).tasks.any (fun t => t.keepsNode 4 0) = false ∧
    ({ task7 with creator := .node 4 0, origin := .node 4 0, triggered := [0] } : Task).keepsNode 4 0 = true ∧
    ({ task7 with creator := .node 4 0, origin := .node 4 0, triggered := [0] } : Task).allTriggered = true ∧
    ioHas ((sAct 0 true).nodeRec (gAct 0 true) 0) (fun r => ioHas (r.1.sendLists (gAct 0 true) 0 r.2 (some .run) none) (fun _ => true)) = true := by decide +kernel
/-- Words 1 and 0 of two COND nodes, a LOOP below and at its bound of 2, WAIT whose condition holds, SIGNAL, and the LOOP's TAIL. -/
theorem witness_node_words :
    ioHas ((sAct 1).nodeWord (gAct 1) 1) (fun r => r.2.2 == 1 && ioHas (r.1.sendLists (gAct 1) 1 r.2.1 (some .run) (some .skip)) (fun _ => true)) = true ∧
    ioHas ((sAct 2).nodeWord (gAct 2) 2) (fun r => r.2.2 == 0 && ioHas (r.1.sendLists (gAct 2) 2 r.2.1 (some .skip) (some .run)) (fun _ => true)) = true ∧
    ioHas ((sAct 3 false 1).nodeWord (gAct 3 false 1) 3) (fun r => r.2.2 == 1 && decide (1 < bfield r.2.1 0x10 63 32) &&
      ioHas (r.1.rearm (gAct 3 false 1) (bfield r.2.1 0x30 11 0) (bfield r.2.1 0x30 27 16 + 1 - bfield r.2.1 0x30 11 0)) (fun v =>
        ioHas (v.sendLists (gAct 3 false 1) 3 r.2.1 none (some .run)) (fun _ => true))) = true ∧
    ioHas ((sAct 3 false 2).nodeWord (gAct 3 false 2) 3) (fun r => decide (bfield r.2.1 0x10 63 32 ≤ 2) &&
      ioHas (r.1.sendLists (gAct 3 false 2) 3 r.2.1 (some .run) none) (fun _ => true)) = true ∧
    ioHas ((sAct 4).nodeWord (gAct 4) 4) (fun r => fcondHolds (fcondOf (bfield r.2.1 0 20 18)) r.2.2 (BitVec.ofNat 32 (bfield r.2.1 0x10 31 0)) &&
      ioHas (r.1.sendLists (gAct 4) 4 r.2.1 (some .run) none) (fun _ => true)) = true ∧
    ioHas ((sAct 5).nodeRec (gAct 5) 5) (fun r => ioHas (r.1.ioAdd 1 0 (bword r.2 8).toNat (BitVec.ofNat 32 (bfield r.2 0x10 31 0))) (fun v =>
      ioHas (v.sendLists (gAct 5) 5 r.2 (some .run) none) (fun _ => true))) = true ∧
    ioHas ((sAct 3 true).nodeRec (gAct 3 true) 3) (fun r => bfield r.2 0x28 43 32 == 1 && ((gAct 3 true).nodes[1]?).map (·.state) == some .pending) = true := by
  decide +kernel
theorem witness_spawn : ioHas ((sAct 6).spawnStart (gAct 6) 6) (fun u => ioHas (u.spawnTiles 4 6 (poolSize + 1)) (fun v => v.tasks.length == 2)) = true ∧
    ioHas ((sAct 6).spawnStart (gAct 6) 6) (fun u => match (u.graph 4).bind (fun g => g.nodes[6]?) with
      | some x => x.begun && !x.waits && x.tiles.length == 2 && u.entryForNode && ioHas (u.nodeRec (gr0 6 x) 6) (fun r =>
          ioHas (r.1.ioStruct 1 0 (bword r.2 8).toNat 64) (fun d => ioHas (d.1.readTemplate (gr0 6 x) (bword d.2 0)) (fun _ => true)))
      | none => false) = true := by decide +kernel

/-! The host: registers, apertures, power, keys and images. -/

/-- A job with a sealed world 3, whose TDI is as given, beside job 1. -/
def jobX (t : Tdi) (key : Nat := 0) : Job := { id := 2, worlds := [{ num := 3, troot := 0x1000, tdi := t, worldKey := key }] }
def sH (t : Tdi := .run) (h : HostRegs := {}) (key : Nat := 0) : State :=
  { sJ {} with jobs := [job1, jobX t key], host := { h with stage := 6, featAcc := 0x7FF, featDrv := 0x7FF, jobSel := 1, worldSel := 0 } }
theorem witness_HostRegistersComplete : 2000 ≤ field 2000 12 0 ∧ field 6000 12 0 ≤ 6000 ∧ field 1999 12 0 < 2000 ∧ 6000 < field 6001 12 0 ∧
    sH.host.pstate ≠ 2 ∧ (sH .run { pstate := 2 }).host.pstate = 2 ∧
    (800 ≤ 1500 ∧ 1500 ≤ 1600 ∧ 1500 % 100 = 0 ∧ 1500 + 100 = sH.host.freq) ∧ 1700 = sH.host.freq + 100 ∧ ¬ 1700 ≤ 1600 ∧
    (∀ j ∈ sH.jobs, ∀ x ∈ j.worlds, x.num = 0 ∨ x.worldKey = 0) ∧ ¬ (∀ j ∈ (sH .run {} 9).jobs, ∀ x ∈ j.worlds, x.num = 0 ∨ x.worldKey = 0) ∧
    sH.tdiOf 3 = .run ∧ (sH.ownerOf 3).map (·.id) = some (field 2 15 0) ∧ (sH .locked).tdiOf 3 ≠ .run ∧ (4095 < 4096 ∧ 4096 ≤ 4096) ∧
    (sH.worldOf sH.host.jobSel sH.host.worldSel).isSome = true ∧ (15 < 16 ∧ 1 < 2) := by decide +kernel
theorem witness_register_stages : ({} : State).host.stage < 3 ∧ 3 ≤ ({ host := { stage := 4 } } : State).host.stage ∧
    ({ host := { stage := 4 } } : State).host.stage ≤ 4 ∧ 4 < sH.host.stage := by decide +kernel
def sInv (b : Bool) (marks : List (Nat × Nat)) : State :=
  { sJ { kA with pend := [piece true (.hbm 0x40000 1 0x10000)] } with host := { stage := 6, invBusy := b, invMarks := marks, invNow := (1, 0, 0, 0x100000), inv := [(0x90, 0x100000)] } }
theorem witness_invalidate : (sInv true []).host.invBusy = true ∧ (∀ m ∈ (sInv true []).host.invMarks, (sInv true []).oldAccess m = false) ∧
    (sInv false []).host.invBusy = false ∧ ((sInv false []).core 0).placed = true ∧ ((sJ { kA with job := 0 }).core 0).job = (sJ { kA with job := 0 }).invJob.1 ∧
    (∃ m ∈ (sInv true [(0, 0)]).host.invMarks, (sInv true [(0, 0)]).oldAccess m = true) := by decide +kernel

/-- The PF's aperture on job 1 from virtual address 0, and accesses in host page 1 at both ends of the aperture. -/
def sAp (job : Nat) : State := { sF 0 .bound with host := { (sF 0 .bound).host with aperture := word64 job } }
theorem witness_HostAccessesComplete : (sAp 1).heldIo = [] ∧ (sAp 1).aperture {} (W + 0x400) 4 1 = .ok (1, 0, W + 0x400) ∧
    ioHas ((sAp 1).ioRead 1 0 (W + 0x400) 4) (fun r => r.2 == [1, 0, 0, 0] && (W + 0x400) % 4 == 0 &&
      ioHas (r.1.ioWrite 1 0 (W + 0x400) (natToBytes 4 7)) (fun _ => true)) = true ∧
    ioHas ((sAp 1).ioWrite 1 0 (W + 0x400) (natToBytes 4 7)) (fun _ => true) = true ∧
    (match (sAp 1).aperture {} 0xC0000000 4 1, (sAp 1).ioRead 1 0 0xC0000000 4 with
      | .ok (1, 0, 0xC0000000), .bad _ .nopage _ _ => true
      | _, _ => false) = true ∧
    (match (sAp 0).aperture {} 0 4 1, (sAp 1).aperture {} (2 ^ 36 - 3) 4 1, (sAp 1).aperture {} (2 ^ 36 - 4) 4 4, (sAp 1).aperture {} 4 8 8 with
      | .error none, .error none, .ok (1, 0, 0xFFFFFFFFC), .error none => true
      | _, _, _, _ => false) = true ∧ field 1 15 0 ≠ 0 ∧ field 0 15 0 = 0 ∧ 2 ^ 36 - 4 + 4 ≤ 2 ^ 36 ∧ 2 ^ 36 < 2 ^ 36 - 3 + 4 ∧ 0x1000 % 32 = 0 := by
  decide +kernel
/-- VF 3, whose TDI does not run, and one on another stream. -/
theorem witness_tdi : (sH .locked).tdiOf ({ vf := 3 } : HostFn).vf ≠ .run ∧ ({ vf := 3, ideMatch := false } : HostFn).ideMatch = false ∧
    (match (sH .locked).aperture { vf := 3 } 0 4 1 with
      | .error (some _) => true
      | _ => false) = true := by decide +kernel
/-- A step up is legal where no power of the module is above the cap. -/
theorem witness_step_up : ({ host := { freq := 1500, pcap := 2 ^ 13 } } : State).overCap 1600 = false ∧ 1600 = 1500 + 100 :=
  ⟨decide_eq_false (by have := (Config.watts 0 1600).isLt; simp only [Nat.not_lt]; exact Nat.le_of_lt this), rfl⟩
theorem witness_PowerAndBootComplete : (sH .run { ptarget := some 1, pstate := 0 }).host.ptarget ≠ none ∧ sH.host.ptarget = none ∧ sH.host.pstate = 0 ∧
    (sH .run { pstate := 1 }).host.pstate = 1 ∧ (sH .run { pstate := 2 }).host.pstate = 2 ∧ (sH .run { pstate := 3 }).host.pstate = 3 ∧
    (∀ goal ∈ [0, 1, 2, 3], (sH .run { ptarget := some goal, pready := 5 }).powerReady goal = false ∧
      ({ sH .run { ptarget := some goal } with cores := [] } : State).powerReady goal = true) ∧
    ({ sJ kA with tasks := [task7] } : State).task 7 = some task7 ∧ task7.state = .running ∧
    (({ host := { stage := 3 }, clock := 32000000 } : State).host.stage < 4 ∧ ({ host := { stage := 3 }, clock := 32000000 } : State).host.stageAt ≤ 32000000) ∧
    ({ host := { stage := 4, featDrv := 1 } } : State).host.featDrv.getLsbD 0 = true ∧ ({ host := { stage := 4 } } : State).host.featDrv.getLsbD 0 = false ∧
    ({ sH with gals := [(5, { fenced := true })] } : State).gal 5 = { fenced := true } := by decide +kernel
theorem witness_KeysAndImagesComplete : sH.sessionsUp = true ∧ 1 ≤ 65535 ∧ (sH.worldOf 1 0).isSome = true ∧ (sget {} sH.keys 65535 : KeySlot).live = false ∧
    (sget {} sH.keys 1 : KeySlot).live = true ∧ (sget {} sH.keys 1 : KeySlot).owner = (1, 0) ∧ (sget {} sH.keys 1 : KeySlot).owner ≠ (2, 3) ∧
    (sH .run {} 9).jobs.findSome? (fun j => j.worlds.find? (fun w => w.num == 3 && w.worldKey != 0)) = some { num := 3, troot := 0x1000, tdi := .run, worldKey := 9 } ∧
    sH.worldOf 2 3 = some { num := 3, troot := 0x1000, tdi := .run } ∧ (Tdi.run ≠ .locked) ∧ (sH .unlocked).ownerOf 3 = some (jobX .unlocked) ∧
    tdiMove ((sH .unlocked).tdiOf 3) .locked = true ∧ tdiMove ((sH .locked).tdiOf 3) .run = true ∧ tdiMove ((sH .unlocked).tdiOf 3) .run = false ∧
    sH.job 65535 = none ∧ sH.worldsOk [(0, 0x1000)] = true ∧ sH.worldsOk [(16, 0x1000), (1, 0)] = true ∧ sH.worldsOk [(3, 0)] = false ∧
    (sA.core 0).placed = true ∧ ((at_ { kA with debug := 2 }).core 0).debug = 2 ∧ (sA.core 0).debug ≠ 2 := by decide +kernel
/-- A held access before others, clean sectors, a pair imported before and one that was not, feature 6 accepted and not, and the debugger's
powers, levels and seats. -/
theorem witness_host_clauses : ({ sH with heldIo := [.doorbell {} 1] } : State).heldIo ≠ [] ∧ sH.heldIo = [] ∧
    (∀ j, j < 4 → (sget {} sH.sectors (0x400 / 32 + j)).poison = false ∧ (sget {} sH.sectors (0x400 / 32 + j)).soft = 0) ∧
    (∀ e ∈ sH.imports, ¬(e.1 = (1, 0) ∧ e.2.1 = 77)) ∧
    ({ sH with imports := [((2, 3), 77, 4), ((1, 0), 77, 5)] } : State).imports.find? (fun e => e.1 == (1, 0) && e.2.1 == 77) = some ((1, 0), 77, 5) ∧
    sH.accepted 6 = true ∧ ({ sH with host := { sH.host with featAcc := 1 } } : State).accepted 6 = false ∧
    (sH .run { pstate := 1 }).host.pstate ≠ 0 ∧ sA.host.pstate = 0 ∧ (({} : State).core 0).placed = false ∧
    ((at_ { kA with debug := 2 }).core 0).placed = true ∧ ((at_ { kA with debug := 2 }).core 0).debug = 2 ∧
    specialWritable 0x10 = true ∧ specialWritable 0 = false := by decide +kernel
def imSpec (off : Nat) : ImageSpec := { job := 1, world := 0, image := 5, va := W + off, nseats := 8, dataVa := W + 0x400 }
/-- An image of 64 bytes of text without data, and one with 32 bytes of data. -/
theorem witness_image_load : (∀ e ∈ [(0x700, 0), (0xA00, 32)], (sF 0 .bound).sessionsUp = true ∧ (sF 0 .bound).worldOf 1 0 = some { num := 0, troot := 0x1000 } ∧
    ioHas ((sF 0 .bound).ioRead 1 0 (W + e.1) 256) (fun r => !r.1.badHeader r.2 (imSpec e.1) &&
      ioHas (r.1.ioRead 1 0 (W + e.1 + 256) (padded (hfield r.2 0x14 16 0) + padded (hfield r.2 0x14 31 17) + padded (bword r.2 0x18).toNat)) (fun q =>
        let data := (q.2.drop (padded (hfield r.2 0x14 16 0) + padded (hfield r.2 0x14 31 17))).take (bword r.2 0x18).toNat
        data.length == e.2 && ioHas (q.1.ioWrite 1 0 (W + 0x400) data) (fun t => t.job 1 == some job1))) = true) := by decide +kernel

/-! The fabric. -/

def sLk (x : Port) (clock : Nat := 0) : State := { sJ {} with ports := [(0, x), (1, { keyed := true })], unacked := [({ pkt0 with port := 0 }, false)], clock := clock }
theorem witness_LinksComplete : (sget {} (sLk {}).ports 0 : Port).inService = true ∧ (sLk {}).host.stage = 6 ∧
    (sget {} (sLk { inService := false }).ports 0 : Port).inService = false ∧ (sget {} (sLk { keyed := true }).ports 0 : Port).keyed = true ∧
    (sget {} (sLk {}).ports 0 : Port).keyed = false ∧ (sLk {}).sendPort 1 2 = .port 1 ∧
    (sget {} (sLk { linkUp := false }).ports 0 : Port).linkUp = false ∧ 0 + 100000 * wallUnits ≤ (sLk { linkUp := false } 160000000).wall ∧
    (sLk {} 159999999).wall < 0 + 100000 * wallUnits ∧ ({ ty := 0x1F } : Packet).port = 0 ∧ ({ ty := 0x1F } : Packet).ty.toNat = 0x1F ∧
    ({ ty := 0x1F } : Packet).tagOk = true ∧ (∀ e ∈ (sLk {}).unacked, e.2 = false) ∧ (sLk {}).replies = [] := by decide +kernel
/-- Records of 2³² in each direction and below both; nothing unacknowledged; and what comes of the one packet when port 0 goes down with port 1
ready, with its keys to come, and with every port out of service. -/
def portOut : List (Nat × Port) := (List.range 36).map (fun n => (n, { inService := false }))
theorem witness_link_down : (∀ x ∈ [({ keyed := true, sent := 2 ^ 32 } : Port), { keyed := true, recvd := 2 ^ 32 }], 2 ^ 32 ≤ x.sent ∨ 2 ^ 32 ≤ x.recvd) ∧
    (2 ^ 32 - 1 < 2 ^ 32) ∧ ({ sLk {} with unacked := [] } : State).unacked = [] ∧ (sLk {}).unacked = [({ pkt0 with port := 0 }, false)] ∧
    ((sLk {}).modPort 0 (fun x => { x with linkUp := false, keyed := false, downSince := 0 })).sendPort 1 2 = .port 1 ∧
    (({ sLk {} with ports := [] } : State).modPort 0 (fun x => { x with linkUp := false, keyed := false, downSince := 0 })).sendPort 1 2 = .notYet ∧
    (({ sLk {} with ports := portOut } : State).modPort 0 (fun x => { x with linkUp := false, keyed := false, downSince := 0 })).sendPort 1 2 = .unreachable := by
  decide +kernel
/-- Task 7's only seat on core 0 with a MASKED consumer entry 2 and no entry 0; packets of kind 1 for its scratchpad. -/
def kF : Core := { kA with seat := 0, nseats := 1, rf := { kP.rf with chans := [(2, chanMC)] } }
def sFab : State := { sJ kF with tasks := [{ task7 with gen := 1 }] }
def pk (ty : BitVec 5) (port : Nat) (aux : BitVec 16 := 0) (payload : List Byte := [1, 2, 3, 4]) : Packet :=
  { ty := ty, gen := 1, job := 1, taskid := 5, smod := 2, sseat := 9, dmod := 1, addr := 0x8000000000, len := 3, flag := 250, val := 3, port := port
    aux := aux, payload := payload }
theorem witness_ArrivalsComplete : (∀ ty ∈ [0x01, 0x02, 0x03, 0x04, 0x05, 0x07, 0x09, 0x0A], (36 ≤ (pk ty 36).port ∧ sFab.tagRetired (pk ty 36) = false ∧
      sFab.worldOk (pk ty 36) = true ∧ ({ sFab with retired := [(1, 5, 1)] } : State).tagRetired (pk ty 36) = true) ∧ ((pk ty 0).port < 36 ∧
      (sget {} sFab.ports 0 : Port).inService = true ∧ (pk ty 0).tagOk = true ∧ sFab.tagLive (pk ty 0) = true ∧ sFab.worldOk (pk ty 0) = true ∧
      sFab.host.diaginj.getLsbD 0 = false ∧ sFab.seenRequest (pk ty 0) = false ∧ sFab.spillFull (pk ty 0) = false ∧ sFab.early = [] ∧ (pk ty 0).pseq.toNat = seqOf sFab.recvSeq (pk ty 0).pair) ∧
      sFab.liveTask 1 5 = some { task7 with gen := 1 } ∧ sFab.mustHold (pk ty 0) { task7 with gen := 1 } = false ∧
      sFab.targetOk (pk ty 0) { task7 with gen := 1 } = true ∧ (pk ty 0).kind = true ∧ sFab.seatCore { task7 with gen := 1 } (packetSeat (pk ty 0) { task7 with gen := 1 }) = some 0) ∧
    (pk 0x07 0).paired = false ∧ (pk 0x01 0).paired = true ∧ sFab.sendPort 1 2 = .port 0 ∧ (sFab.core 0).rf.nearPoison = [] ∧
    (sget {} (sFab.core 0).rf.chans 0 : Chan).cls = 0 ∧ (sget {} (sFab.core 0).rf.chans 2 : Chan).valid = true ∧
    (sget {} (sFab.core 0).rf.chans 2 : Chan).consumer = true ∧ (sget {} (sFab.core 0).rf.chans 2 : Chan).cls ≠ 0 ∧
    (sget {} (sFab.core 0).rf.chans 2 : Chan).ares.toNat = bytesToNat (List.take 8 (List.replicate 64 0)) ∧
    (sget {} (sFab.core 0).rf.chans 2 : Chan).ares.toNat ≠ bytesToNat [1, 2, 3, 4] := by decide +kernel
theorem witness_arrival_held : ({ sFab with tasks := [{ task7 with gen := 1, state := .ready }] } : State).mustHold (pk 1 0) { task7 with gen := 1, state := .ready } = true ∧
    sFab.targetOk { pk 1 0 with addr := 0x8100000100 } { task7 with gen := 1 } = false ∧ ({ task7 with blocks := [] } : Task).blocks = [] ∧
    (pk 1 0).ty ≠ 0 := by decide +kernel
/-- A sealed world that no segment entry of the table admits. -/
def sSealed : State := { sFab with jobs := [{ job1 with worlds := [{ num := 3, troot := 0x1000 }] }], tasks := [{ task7 with gen := 1, world := 3 }] }
theorem witness_arrival_segment : sSealed.worldOk (pk 1 36) = false ∧ sSealed.tagRetired (pk 1 36) = false ∧
    sSealed.mustHold (pk 1 36) { task7 with gen := 1, world := 3 } = false := by decide +kernel

def rsp (ty : BitVec 5) (gen : BitVec 8) (aux : BitVec 16) (payload : List Byte) : Packet :=
  { ty := ty, gen := gen, job := 1, taskid := 5, smod := 2, sseat := 0, dmod := 1, aux := aux, payload := payload, addr := 0x8000000000, port := 0 }
def asked0 : Asked := { job := 1, taskid := 5, seat := 0, tag := 9, gen := 1 }
/-- Entry 3 of core 0 waits for a response with the tag 9; the flights and packets sent are those of the rejects below. -/
def sRsp (out : List Packet := []) : State :=
  { sFab with cores := [(0, { kF with landing := [(3, some { lnd false none 1 with req := .fetch 0xC000028000000000 8, tag := 9 })] })]
              asked := [asked0], out := out }
/-- A write to module 2 that its destination rejects. -/
def sent2 (sq : Bool) (gen : BitVec 8) : Packet := { pk 1 0 with smod := 1, dmod := 2, sseat := 0, sq := sq, pseq := 4, gen := gen }
def rejectOf (ty : Nat) (sq : Bool) (aux : BitVec 16) : Packet := { rsp 0x06 0 aux (natToBytes 4 (ty + 256 * Code.num .podtarget)) with sq := sq }
theorem witness_ResponsesComplete : (∀ ty ∈ [(0x06 : BitVec 5), 0x08], (sget {} (sRsp).ports 0 : Port).inService = true ∧ (rsp ty 1 0x90 []).tagOk = true ∧
      (sRsp).tagLive (rsp ty 1 0x90 []) = true ∧ (sRsp).host.diaginj.getLsbD 0 = false ∧ sFab.askedBy (rsp ty 1 0x90 []) = none ∧
      (sRsp).askedBy (rsp ty 1 0x90 []) = some asked0 ∧ (sRsp).liveTask 1 5 = some { task7 with gen := 1 } ∧ 0 ∉ task7.saved ∧
      task7.cores[0]? = some 0 ∧ ((sRsp).core 0).gen = 1 ∧ (rsp ty 1 0x90 []).gen ≠ 0 ∧
      ((sget none ((sRsp).core 0).landing 3).map (fun l => (l.req.remote, l.tag, l.left, l.arrived))) = some (true, (rsp ty 1 0x90 []).tag, 1, false)) := by decide +kernel
theorem witness_reject :
    (∀ ty ∈ [0x05, 0x07], (sRsp).askedBy (rejectOf ty false 0x90) = some asked0 ∧ (rejectOf ty false 0x90).gen = 0 ∧
      (rejectOf ty false 0x90).payload = natToBytes 4 (ty + 256 * Code.num .podtarget)) ∧
    (∀ sq ∈ [false, true], ∀ gen ∈ [(1 : BitVec 8), 2], (sRsp [sent2 sq gen]).out.reverse.find? (rejects (rejectOf 1 sq 4)) = some (sent2 sq gen) ∧
      (rejectOf 1 sq 4).tagOk = true ∧ (rejectOf 1 sq 4).sq = sq) := by decide +kernel

/-! The step, the encoding, and the whole machine. -/

theorem witness_HostLegalKept : HostLegal State.reset.host ∧ (∃ t, step State.reset = .next t) :=
  ⟨⟨by decide, by decide, by decide, by decide, by decide +kernel, by decide +kernel, by decide, by decide, by decide +kernel⟩, ⟨_, rfl⟩⟩
theorem witness_EncodingRoundTrip : wellFormed (.add g0 3 (.reg 3) (.reg 4)) = true ∧ slotOf (.add g0 3 (.reg 3) (.reg 4)) = some 0 ∧
    (encodeCp .cpEnd).isSome = true := by decide
/-- A bundle of one ADD in slot 0, and one that repeats the second issue of a slot; core 0 may issue it. -/
def kI : Core := { kA with imem := cellsOf 0 (natToBytes 4 1 ++ natToBytes 8 0x0000018060200000) }
def sI : State := { at_ kI with agenda := [.issue 0] }
theorem witness_StepRunsDecodedInstruction : (sI.core 0).mayIssue = true ∧ kA.weak = [] ∧ (sI.core 0).count = none ∧ (sI.core 0).headerCode = none ∧
    (sI.core 0).repeatCount (Header.ofWord (sI.core 0).headerWord) = 1 ∧ (Header.ofWord (sI.core 0).headerWord).present.getLsbD 0 = true ∧
    (sI.core 0).slotWord (Header.ofWord (sI.core 0).headerWord) 0 = 0x0000018060200000 ∧
    (match ({ sI with agenda := [] } : State).issueTurn 0 with
      | .ops u l => l == [{ slot := 0, ins := .add g0 3 (.reg 3) (.reg 4), word := 0x0000018060200000 }] && (match runOps exec l u with
        | .next v => v.cur.inflight.length == 1
        | _ => false)
      | .idle _ => false) = true ∧
    (match ({ kA with seq := { seq0 with mpc := 0 }, imem := cellsOf 0 (natToBytes 4 0xF0000000) } : Core).cpFetch with
      | .ins i w => i == .cpEnd && w == 0xF0000000
      | _ => false) = true := by decide +kernel
/-- 19 R349, 18 R422: a single error in the bundle's word is corrected and counted for array 2, and the core freezes until clock 13; one in a word
of near SRAM that the matrix engine reads comes through the external port: no freeze, and the entry takes 12 cy more (19 R350). -/
theorem test_correct_fetch : (match ({ sI with agenda := [] } : State).modCore 0 (fun k => { k with weak := [(2, 0), (4, 9)] }) |>.issueTurn 0 with
    | .ops u _ => (u.core 0).weak == [(4, 9)] && (u.core 0).correct == sI.clock + 13 && sget 0 u.corrected (5 * 0x2000 + 2) == 1
    | .idle _ => false) = true := by decide +kernel
theorem test_engine_correction :
    (let b : Word := 0x9000000000000000
     match execMxqEntryStart 0 ((sQ (.tldMem 0 b 256)).modCore 0 (fun k => { k with rf := { k.rf with soft := [(1, 1)] } })) with
    | .next t => (t.core 0).run.map (·.endClock) == some 28 && (t.core 0).rf.soft == [] && (t.core 0).correct == 0 && sget 0 t.corrected (5 * 0x2000) == 1
    | _ => false) = true := by decide +kernel
/-- A reserved bit gives the slot its encoding's event. -/
theorem witness_encoding_event : (match decodeSlot 0 none 0x0000018060200001 with
    | .error e => EncFail.code e == .rsvdfield
    | .ok _ => false) = true := by decide +kernel

/-- An offset of 4, one of 0x10000, and full stacks. -/
def kV : Core :=
  { kA with
    rf := { kA.rf with allot := 15, s := [(1, 4), (2, 0x10000), (3, 257), (4, 0x3F00)] }, rstack := [0, 1, 2, 3, 4, 5, 6, 7]
    dq := List.replicate 2000 { lane := 0, vals := [] }, seq := { cpq := List.replicate 8 ⟨0, 0, [], 0⟩ }, landing := [(63, some (lnd false none 1))] }
def sV : State := { at_ kV with tasks := [{ task7 with depth := 8 }] }
theorem witness_RangeEventsRaise : sV.on g0 = true ∧ sV.src.limit < sV.rawOff st0 (.reg 2) 0 8 + 8 ∧
    sV.rawOff st0 (.reg 1) 0 8 + 8 ≤ sV.src.limit ∧ sV.rawOff st0 (.reg 1) 0 8 % Size.alignment .b8 ≠ 0 ∧
    sV.cur.vaultLimit < sV.rawOff st0 (.reg 2) 0 8 + 8 ∧ sV.rawOff st0 (.reg 1) 0 8 + 8 ≤ sV.cur.vaultLimit ∧ sA.cur.rstack = [] ∧
    (sV.ctx.pc : Int) + 4 * (16 : BitVec 16).toInt = kV.textLen ∧ 8 ≤ sV.cur.rstack.length ∧ 4 ≤ (sR 4).cur.rgd ∧ sV.cur.rgd = 0 ∧ (sR 1).cur.rgd ≠ 0 ∧
    8 ≤ ((sV.task sV.cur.task).map (·.depth)).getD sV.cur.depth ∧ sget none sV.cur.landing 63 = some (lnd false none 1) ∧ (60 : BitVec 16).toNat % 4 = 0 ∧
    (60 : BitVec 16).toNat < sV.cur.textLen ∧ 8 ≤ sV.cur.seq.cpq.length ∧ (sV.chan 0).usable sV.cur sV.src.limit true 1 = false ∧
    256 < (sV.rdS 1 (.reg 3)).toNat ∧ specialWritable 16 = true ∧ sV.guard g0 ≠ 0 ∧ 2048 < sV.cur.occupancy + onesIn (sV.guard g0) := by decide +kernel
theorem witness_vregrange : sV.stepped st0 1023 = 1023 ∧ 64 * sV.src.allot ≤ sV.src.rename 1023 := by decide +kernel
/-- ALLOT refuses 0 and 17, RSIZE 264 and 4. -/
theorem witness_special_refuses : specialWritable 0x10 = true ∧ specialRefuses 0x10 32 = true ∧ specialRefuses 0x10 17 = true ∧ specialWritable 0x12 = true ∧
    specialRefuses 0x12 264 = true ∧ specialRefuses 0x12 4 = true := by decide
end Sys2Proof.Tests
end

section
/-! PROOF. Bytes and numbers, little-endian (00 R4): the bytes and bits of a number, of a run of bytes and of a vector register. -/

namespace Sys2Proof.Machine
open Sys2Proof

theorem natToBytes_eq_map (n x : Nat) : natToBytes n x = (List.range n).map (fun i => BitVec.ofNat 8 (x / 256 ^ i)) := by
  induction n generalizing x with
  | zero => rfl
  | succ n ih => simp [natToBytes, ih, List.range_succ_eq_map, Nat.div_div_eq_div_mul, pow_succ']

@[simp] theorem length_vecBytes (v : Vec) (n : Nat) : (vecBytes v n).length = n := by simp [vecBytes, natToBytes_eq_map]

theorem getD_vecBytes (v : Vec) (n i : Nat) (h : i < n) : (vecBytes v n).getD i 0 = v.extractLsb' (8 * i) 8 := by
  have hp : 256 ^ i = 2 ^ (8 * i) := by rw [pow_mul]; norm_num
  simp [vecBytes, natToBytes_eq_map, h, hp, BitVec.extractLsb', Nat.shiftRight_eq_div_pow]

theorem testBit_bytesToNat (bs : List Byte) (b : Nat) : (bytesToNat bs).testBit b = (bs.getD (b / 8) 0).getLsbD (b % 8) := by
  induction bs generalizing b with
  | nil => simp [bytesToNat]
  | cons x t ih =>
    have hx : bytesToNat (x :: t) = 2 ^ 8 * bytesToNat t + x.toNat := by rw [bytesToNat]; omega
    rw [hx, Nat.testBit_two_pow_mul_add _ x.isLt]
    split
    · rename_i h
      rw [Nat.div_eq_of_lt h, Nat.mod_eq_of_lt h]; rfl
    · rename_i h
      have hd : b / 8 = (b - 8) / 8 + 1 := by omega
      have hm : b % 8 = (b - 8) % 8 := by omega
      rw [ih, hd, hm, List.getD_cons_succ]

theorem bytesToNat_lt (bs : List Byte) : bytesToNat bs < 2 ^ (8 * bs.length) := by
  induction bs with
  | nil => simp [bytesToNat]
  | cons x t ih =>
    have hx := x.isLt
    have hp : 2 ^ (8 * (x :: t).length) = 256 * 2 ^ (8 * t.length) := by rw [List.length_cons, Nat.mul_succ, pow_add]; omega
    rw [bytesToNat, hp]; omega

/-- A number that ends in the bytes given holds each of them in its place. -/
theorem extractLsb'_ofNat_of_mod (N : Nat) (bs : List Byte) (j : Nat) (hN : N % 2 ^ (8 * bs.length) = bytesToNat bs) (hj : j < bs.length)
    (hl : bs.length ≤ 256) : (BitVec.ofNat 2048 N).extractLsb' (8 * j) 8 = bs.getD j 0 := by
  apply BitVec.eq_of_getLsbD_eq
  intro i hi
  have hb : N.testBit (8 * j + i) = (bytesToNat bs).testBit (8 * j + i) := by
    rw [← hN, Nat.testBit_mod_two_pow, decide_eq_true (by omega : 8 * j + i < 8 * bs.length), Bool.true_and]
  have hd : (8 * j + i) / 8 = j := by omega
  have hm : (8 * j + i) % 8 = i := by omega
  rw [BitVec.getLsbD_extractLsb', BitVec.getLsbD_ofNat, hb, testBit_bytesToNat, hd, hm]
  simp [hi, (by omega : 8 * j + i < 2048)]

theorem extractLsb'_vecOfBytes (bs : List Byte) (j : Nat) (hj : j < bs.length) (hl : bs.length ≤ 256) :
    (vecOfBytes bs).extractLsb' (8 * j) 8 = bs.getD j 0 :=
  extractLsb'_ofNat_of_mod _ bs j (Nat.mod_eq_of_lt (bytesToNat_lt bs)) hj hl

theorem getLsbD_select {w : Nat} (old new mask : BitVec w) (b : Nat) (h : b < w) :
    ((old &&& ~~~mask) ||| (new &&& mask)).getLsbD b = if mask.getLsbD b then new.getLsbD b else old.getLsbD b := by
  rw [BitVec.getLsbD_or, BitVec.getLsbD_and, BitVec.getLsbD_and, BitVec.getLsbD_not]
  cases mask.getLsbD b <;> simp [h]

theorem getLsbD_mergeByte (old x m : Byte) (i : Nat) (h : i < 8) :
    (mergeByte old x m).getLsbD i = if m.getLsbD i then x.getLsbD i else old.getLsbD i := getLsbD_select old x m i h

theorem getLsbD_mixBits (old new mask : Vec) (b : Nat) (h : b < 2048) :
    (mixBits old new mask).getLsbD b = if mask.getLsbD b then new.getLsbD b else old.getLsbD b := getLsbD_select old new mask b h

theorem mixBits_allOnes (old new : Vec) : mixBits old new (BitVec.allOnes 2048) = new := by
  rw [mixBits, BitVec.not_allOnes, BitVec.and_zero, BitVec.zero_or, BitVec.and_allOnes]

/-! Vector registers in near SRAM (03 R53). -/

/-- The registers of the 16 allotments lie apart. -/
theorem vbase_disjoint {m n : Nat} (hm : m < 1024) (hn : n < 1024) (h : n ≠ m) : vbase n + 256 ≤ vbase m ∨ vbase m + 256 ≤ vbase n := by
  unfold vbase; omega

theorem RegFile.extractLsb'_vreg (r : RegFile) (n i : Nat) (h : i < 256) : (r.vreg n).extractLsb' (8 * i) 8 = r.near.byte (vbase n + i) := by
  rw [RegFile.vreg, extractLsb'_vecOfBytes _ i (by simpa using h) (by simp), Mem.getD_read _ _ _ _ h]

theorem RegFile.getLsbD_vreg (r : RegFile) (n b : Nat) (h : b < 2048) :
    (r.vreg n).getLsbD b = (r.near.byte (vbase n + b / 8)).getLsbD (b % 8) := by
  rw [← r.extractLsb'_vreg n (b / 8) (by omega), BitVec.getLsbD_extractLsb', Nat.div_add_mod]
  simp [Nat.mod_lt]

/-- A vector write changes exactly the bits of its mask. -/
theorem RegFile.getLsbD_vreg_setV_same (r : RegFile) (n b : Nat) (v m : Vec) (po : Word) (h : b < 2048) :
    ((r.setV n v m po).vreg n).getLsbD b = if m.getLsbD b then v.getLsbD b else (r.vreg n).getLsbD b := by
  have hi : b / 8 < 256 := by omega
  have hbit (x : Vec) : ((vecBytes x).getD (b / 8) 0).getLsbD (b % 8) = x.getLsbD b := by
    rw [getD_vecBytes x 256 _ hi, BitVec.getLsbD_extractLsb', Nat.div_add_mod]
    simp [Nat.mod_lt]
  have hz : ((vecBytes v).zip (vecBytes m)).getD (b / 8) (0, 0) = ((vecBytes v).getD (b / 8) 0, (vecBytes m).getD (b / 8) 0) := by
    simp [List.getD_eq_getElem?_getD, hi]
  rw [RegFile.getLsbD_vreg _ n b h, RegFile.setV_near, Mem.byte_merge, if_pos (by simp; omega), Nat.add_sub_cancel_left, hz,
    getLsbD_mergeByte _ _ _ _ (Nat.mod_lt _ (by decide)), hbit, hbit, r.getLsbD_vreg n b h]

theorem RegFile.vreg_setV_ne (r : RegFile) {i n : Nat} (v m : Vec) (po : Word) (hi : i < 1024) (hn : n < 1024) (h : n ≠ i) :
    (r.setV i v m po).vreg n = r.vreg n := by
  have hd := vbase_disjoint hi hn h
  rw [RegFile.vreg, RegFile.setV_near, Mem.merge, Mem.read_write_disjoint _ _ _ _ _ (by simpa using hd), RegFile.vreg]

end Sys2Proof.Machine
end

section
/-! PROOF. The commit of results (03 R44, R45): what one result writes, the order of a cycle's results, and which of them stands. -/

namespace Sys2Proof.Machine
open Sys2Proof

/-! One result. -/

theorem Core.apply_p (k : Core) (p : Pend) (n : Nat) (h : p.dest = .p n) :
    k.apply p = { k with rf := k.rf.setP n ((mixBits ((k.rf.preg n).setWidth 2048) p.value p.mask).setWidth 64) } := by simp [Core.apply, h]

/-- No special register is a scalar, predicate or vector register. -/
theorem Core.writeSpecial_registers (k : Core) (n : Nat) (v : Word) :
    (k.writeSpecial n v).rf.s = k.rf.s ∧ (k.writeSpecial n v).rf.p = k.rf.p ∧ (k.writeSpecial n v).rf.near = k.rf.near := by
  unfold Core.writeSpecial
  dsimp only
  repeat' split
  all_goals exact ⟨rfl, rfl, rfl⟩

theorem Core.apply_special_registers (k : Core) (p : Pend) (n : Nat) (h : p.dest = .special n) :
    (k.apply p).rf.s = k.rf.s ∧ (k.apply p).rf.p = k.rf.p ∧ (k.apply p).rf.near = k.rf.near := by
  simp only [Core.apply, h]
  split
  · exact ⟨rfl, rfl, rfl⟩
  · exact k.writeSpecial_registers n _

theorem Core.apply_prc_registers (k : Core) (p : Pend) (h : p.dest = .prc) :
    (k.apply p).rf.s = k.rf.s ∧ (k.apply p).rf.p = k.rf.p ∧ (k.apply p).rf.near = k.rf.near := by
  rw [Core.apply, h]; exact ⟨rfl, rfl, rfl⟩

theorem Core.sreg_apply_ne (k : Core) (p : Pend) (n : Nat) (h : p.dest ≠ .s n) : (k.apply p).rf.sreg n = k.rf.sreg n := by
  cases hd : p.dest with
  | s m =>
    have hm : n ≠ m := fun e => h (by rw [hd, e])
    simp [k.apply_s p m hd, RegFile.sreg_setS, hm]
  | p m => simp [k.apply_p p m hd]
  | v m => simp [k.apply_v p m hd]
  | special m => simp [RegFile.sreg, k.apply_special_registers p m hd]
  | prc => simp [RegFile.sreg, k.apply_prc_registers p hd]

theorem Core.preg_apply_ne (k : Core) (p : Pend) (n : Nat) (h : p.dest ≠ .p n) : (k.apply p).rf.preg n = k.rf.preg n := by
  cases hd : p.dest with
  | s m => simp [k.apply_s p m hd]
  | p m =>
    have hm : n ≠ m := fun e => h (by rw [hd, e])
    simp [k.apply_p p m hd, RegFile.preg_setP, hm]
  | v m => simp [k.apply_v p m hd]
  | special m => simp [RegFile.preg, k.apply_special_registers p m hd]
  | prc => simp [RegFile.preg, k.apply_prc_registers p hd]

theorem Core.vreg_apply_ne (k : Core) (p : Pend) (n : Nat) (hn : n < 1024) (hp : ∀ m, p.dest = .v m → m < 1024) (h : p.dest ≠ .v n) :
    (k.apply p).rf.vreg n = k.rf.vreg n := by
  cases hd : p.dest with
  | s m => simp [k.apply_s p m hd, RegFile.vreg]
  | p m => simp [k.apply_p p m hd, RegFile.vreg]
  | v m => rw [k.apply_v p m hd]; exact RegFile.vreg_setV_ne _ _ _ _ (hp m hd) hn (fun e => h (by rw [hd, e]))
  | special m => simp [RegFile.vreg, k.apply_special_registers p m hd]
  | prc => simp [RegFile.vreg, k.apply_prc_registers p hd]

/-- A scalar result is its register's new value; nothing else changes, and s0 keeps none. -/
theorem Core.apply_scalar (k : Core) (p : Pend) (n j : Nat) (h : p.dest = .s n) :
    (k.apply p).rf.sreg j = (if j = n ∧ n ≠ 0 then p.value.setWidth 64 else k.rf.sreg j) ∧
    (k.apply p).rf.preg j = k.rf.preg j ∧ (k.apply p).rf.near = k.rf.near := by
  simp [k.apply_s p n h, RegFile.sreg_setS]

/-- A predicate result writes the bits of its mask, and p0 never changes. -/
theorem Core.preg_apply_same (k : Core) (p : Pend) (n b : Nat) (h : p.dest = .p n) (hn : n ≠ 0) (hb : b < 64) :
    ((k.apply p).rf.preg n).getLsbD b = if p.mask.getLsbD b then p.value.getLsbD b else (k.rf.preg n).getLsbD b := by
  have hw {w : Nat} (x : BitVec w) (v : Nat) (hv : b < v) : (x.setWidth v).getLsbD b = x.getLsbD b := by
    rw [BitVec.getLsbD_setWidth, decide_eq_true hv, Bool.true_and]
  rw [k.apply_p p n h, RegFile.preg_setP, if_pos ⟨rfl, hn⟩, hw _ 64 hb, getLsbD_mixBits _ _ _ _ (by omega), hw _ 2048 (by omega)]

theorem Core.apply_predicate (k : Core) (p : Pend) (n j : Nat) (h : p.dest = .p n) (hm : p.mask = BitVec.allOnes 2048) :
    (k.apply p).rf.preg j = (if j = n ∧ n ≠ 0 then p.value.setWidth 64 else k.rf.preg j) ∧
    (k.apply p).rf.sreg j = k.rf.sreg j ∧ (k.apply p).rf.near = k.rf.near := by
  rw [k.apply_p p n h, hm, mixBits_allOnes]
  simp [RegFile.preg_setP]

/-- A vector result writes the bits of its mask (log 25). -/
theorem Core.vreg_apply_same (k : Core) (p : Pend) (n b : Nat) (h : p.dest = .v n) (hb : b < 2048) :
    ((k.apply p).rf.vreg n).getLsbD b = if p.mask.getLsbD b then p.value.getLsbD b else (k.rf.vreg n).getLsbD b := by
  rw [k.apply_v p n h]; exact k.rf.getLsbD_vreg_setV_same n b p.value p.mask p.poison hb

/-! The results of one cycle. -/

/-- x is written before y: by due cycle, then slot, then issue (03 R45). -/
def Pend.precedes (x y : Pend) : Prop := x.due < y.due ∨ (x.due = y.due ∧ (x.slot < y.slot ∨ (x.slot = y.slot ∧ x.iss < y.iss)))

theorem Pend.not_precedes_of_before {x y : Pend} (h : x.before y = true) : ¬ y.precedes x := by
  rw [Pend.before_iff] at h; unfold Pend.precedes; omega

theorem sortPend_not_precedes (l : List Pend) : (sortPend l).Pairwise (fun x y => ¬ y.precedes x) :=
  (sortPend_sorted l).imp Pend.not_precedes_of_before

/-- What the winner of its destination establishes, and no result for another destination undoes, holds once all are written. -/
theorem foldl_apply_of_winner (P : Core → Prop) (r : Pend) (order : List Pend) (k : Core)
    (hord : order.Pairwise (fun x y => ¬ y.precedes x)) (hr : r ∈ order) (hwin : ∀ x ∈ order, x.dest = r.dest → x = r ∨ x.precedes r)
    (hset : ∀ u : Core, P (u.apply r)) (hkeep : ∀ u : Core, ∀ x ∈ order, x.dest ≠ r.dest → P u → P (u.apply x)) :
    P (order.foldl Core.apply k) := by
  induction order using List.reverseRecOn with
  | nil => simp at hr
  | append_singleton l x ih =>
    rw [List.foldl_append, List.foldl_cons, List.foldl_nil]
    by_cases hx : x = r
    · rw [hx]; exact hset _
    · obtain ⟨hl, -, hlast⟩ := List.pairwise_append.mp hord
      have hrl : r ∈ l := by simpa [Ne.symm hx] using hr
      have hd : x.dest ≠ r.dest := fun e => (hwin x (by simp) e).elim hx (hlast r hrl x (by simp))
      exact hkeep _ x (by simp) hd (ih hl hrl (fun y hy => hwin y (by simp [hy])) (fun u y hy => hkeep u y (by simp [hy])))

theorem foldl_apply_inflight (l : List Pend) (k : Core) : (l.foldl Core.apply k).inflight = k.inflight := by
  induction l generalizing k with
  | nil => rfl
  | cons p t ih => rw [List.foldl_cons, ih, Core.apply_inflight]

@[simp] theorem Core.renew_rf (k : Core) (w : Nat → Nat → Bool) : (k.renew w).rf = k.rf := by unfold Core.renew; split <;> rfl
@[simp] theorem Core.renew_inflight (k : Core) (w : Nat → Nat → Bool) : (k.renew w).inflight = k.inflight := by unfold Core.renew; split <;> rfl

/-- The results that a running cycle writes: those in flight that are due, and the landings that fall due. -/
def Core.dueResults (k : Core) : List Pend := k.inflight.filter (fun x => x.due ≤ k.sched) ++ k.dueEntries.map (fun e => e.2.pend)

/-- The core with the results that are not due yet alone in flight. -/
def Core.withoutDue (k : Core) : Core := { k with inflight := k.inflight.filter (fun x => k.sched < x.due) }

theorem Core.runCycle_rf (k : Core) : k.runCycle.rf = ((sortPend k.dueResults).foldl Core.apply k.withoutDue).rf :=
  Core.renew_rf _ _

theorem Core.runCycle_inflight (k : Core) : k.runCycle.inflight = k.inflight.filter (fun x => k.sched < x.due) :=
  (Core.renew_inflight _ _).trans (foldl_apply_inflight _ _)

/-- The winner of its destination decides the registers after the cycle. -/
theorem Core.runCycle_of_winner (k : Core) (P : RegFile → Prop) (r : Pend) (hr : r ∈ k.dueResults)
    (hwin : ∀ x ∈ k.dueResults, x.dest = r.dest → x = r ∨ x.precedes r) (hset : ∀ u : Core, P (u.apply r).rf)
    (hkeep : ∀ u : Core, ∀ x ∈ k.dueResults, x.dest ≠ r.dest → P u.rf → P (u.apply x).rf) : P k.runCycle.rf := by
  have hmem (x : Pend) : x ∈ sortPend k.dueResults ↔ x ∈ k.dueResults := (sortPend_perm _).mem_iff
  rw [Core.runCycle_rf]
  exact foldl_apply_of_winner (fun u => P u.rf) r _ _ (sortPend_not_precedes _) ((hmem r).mpr hr) (fun x hx => hwin x ((hmem x).mp hx)) hset
    (fun u x hx => hkeep u x ((hmem x).mp hx))

section
variable (k : Core) (r : Pend) (n : Nat) (hr : r ∈ k.dueResults) (hwin : ∀ x ∈ k.dueResults, x.dest = r.dest → x = r ∨ x.precedes r)
include hr hwin

theorem Core.runCycle_sreg (hd : r.dest = .s n) (hn : n ≠ 0) : k.runCycle.rf.sreg n = r.value.setWidth 64 :=
  k.runCycle_of_winner (fun f => f.sreg n = r.value.setWidth 64) r hr hwin
    (fun u => by simp [(u.apply_scalar r n n hd).1, hn])
    (fun u x _ hx hu => (u.sreg_apply_ne x n (hd ▸ hx)).trans hu)

theorem Core.runCycle_preg (hd : r.dest = .p n) (hn : n ≠ 0) (b : Nat) (hb : b < 64) (hm : r.mask.getLsbD b = true) :
    (k.runCycle.rf.preg n).getLsbD b = r.value.getLsbD b :=
  k.runCycle_of_winner (fun f => (f.preg n).getLsbD b = r.value.getLsbD b) r hr hwin
    (fun u => by rw [u.preg_apply_same r n b hd hn hb, if_pos hm])
    (fun u x _ hx hu => by rw [u.preg_apply_ne x n (hd ▸ hx), hu])

theorem Core.runCycle_vreg (hd : r.dest = .v n) (hv : ∀ x ∈ k.dueResults, ∀ m, x.dest = .v m → m < 1024) (b : Nat) (hb : b < 2048)
    (hm : r.mask.getLsbD b = true) : (k.runCycle.rf.vreg n).getLsbD b = r.value.getLsbD b :=
  k.runCycle_of_winner (fun f => (f.vreg n).getLsbD b = r.value.getLsbD b) r hr hwin
    (fun u => by rw [u.vreg_apply_same r n b hd hb, if_pos hm])
    (fun u x hxm hx hu => by rw [u.vreg_apply_ne x n (hv r hr n hd) (hv x hxm) (hd ▸ hx), hu])

end

/-- Settles O7: the sorted due results are the order, and in a sorted list the winner of a destination has no result for it behind it. -/
theorem resultsCommit : Obligations.ResultsCommit := by
  intro k p l n j
  refine ⟨k.apply_scalar p n j, k.apply_predicate p n j, k.deliver_none, ⟨rfl, rfl, rfl, rfl⟩,
    ⟨sortPend k.dueResults, sortPend_perm _, sortPend_not_precedes _, k.runCycle_rf⟩, k.runCycle_inflight, ?_⟩
  intro r hr hwin
  exact ⟨k.runCycle_sreg r n hr hwin, k.runCycle_preg r n hr hwin, k.runCycle_vreg r n hr hwin⟩

end Sys2Proof.Machine
end

section
/-! PROOF. The value of a load and the window-specific loads (11 R212, R214). -/

namespace Sys2Proof.Machine
open Sys2Proof

theorem Size.bytes_le (sz : Size) : sz.bytes ≤ 256 := by cases sz <;> decide

theorem LoadForm.value_vector (f : LoadForm) (bs : List Byte) (h : f.sz.scalar = false) : f.value bs = vecOfBytes bs := by
  simp [LoadForm.value, h]

theorem LoadForm.value_zeroExtended (f : LoadForm) (bs : List Byte) (h : f.sz.scalar = true)
    (hx : f.sx = false ∨ bytesToNat bs < 2 ^ (8 * f.sz.bytes - 1)) : f.value bs = BitVec.ofNat 2048 (bytesToNat bs) := by
  have hn : ¬ (f.sx = true ∧ 2 ^ (8 * f.sz.bytes - 1) ≤ bytesToNat bs) := fun ⟨h1, h2⟩ =>
    hx.elim (by simp [h1]) (Nat.not_lt.mpr h2)
  simp only [LoadForm.value, if_pos h, if_neg hn]

theorem LoadForm.value_signExtended (f : LoadForm) (bs : List Byte) (h : f.sz.scalar = true) (hs : f.sx = true)
    (hx : 2 ^ (8 * f.sz.bytes - 1) ≤ bytesToNat bs) :
    f.value bs = BitVec.ofNat 2048 (2 ^ 64 - 2 ^ (8 * f.sz.bytes) + bytesToNat bs) := by
  simp only [LoadForm.value, if_pos h, if_pos (And.intro hs hx)]

theorem Size.bits_of_scalar (sz : Size) (hs : sz.scalar = true) :
    8 * sz.bytes = 8 ∨ 8 * sz.bytes = 16 ∨ 8 * sz.bytes = 32 ∨ 8 * sz.bytes = 64 := by
  cases sz <;> simp_all [Size.scalar, Size.bytes]

/-- Each byte read stands in its place, whatever the extension. -/
theorem LoadForm.extractLsb'_value (f : LoadForm) (bs : List Byte) (hl : bs.length = f.sz.bytes) (j : Nat) (hj : j < bs.length) :
    (f.value bs).extractLsb' (8 * j) 8 = bs.getD j 0 := by
  have hle : bs.length ≤ 256 := hl ▸ Size.bytes_le f.sz
  have hx : bytesToNat bs % 2 ^ (8 * bs.length) = bytesToNat bs := Nat.mod_eq_of_lt (bytesToNat_lt bs)
  cases hs : f.sz.scalar with
  | false => rw [f.value_vector bs hs]; exact extractLsb'_vecOfBytes bs j hj hle
  | true =>
    by_cases hsx : f.sx = false ∨ bytesToNat bs < 2 ^ (8 * f.sz.bytes - 1)
    · rw [f.value_zeroExtended bs hs hsx]; exact extractLsb'_ofNat_of_mod _ bs j hx hj hle
    · obtain ⟨h1, h2⟩ := not_or.mp hsx
      rw [f.value_signExtended bs hs (by simpa using h1) (by omega), ← hl]
      refine extractLsb'_ofNat_of_mod _ bs j ?_ hj hle
      have hw : 8 * bs.length ≤ 64 := by have := Size.bits_of_scalar f.sz hs; omega
      have hd : 2 ^ (8 * bs.length) ∣ 2 ^ 64 - 2 ^ (8 * bs.length) := Nat.dvd_sub (pow_dvd_pow 2 hw) dvd_rfl
      rw [Nat.add_mod, Nat.mod_eq_zero_of_dvd hd, Nat.zero_add, Nat.mod_mod, hx]

theorem LoadForm.toNat_value_unsigned (sz : Size) (bs : List Byte) (hl : bs.length = sz.bytes) (hs : sz.scalar = true) :
    (LoadForm.value ⟨sz, false⟩ bs).toNat < 2 ^ (8 * sz.bytes) := by
  rw [LoadForm.value_zeroExtended _ bs hs (Or.inl rfl), BitVec.toNat_ofNat, ← hl]
  exact lt_of_le_of_lt (Nat.mod_le _ _) (bytesToNat_lt bs)

/-- The number that a signed load puts into 64 bits is the two's complement of the w bits read. -/
theorem toInt_ofNat_extended {w x : Nat} (hw : w = 8 ∨ w = 16 ∨ w = 32 ∨ w = 64) (h : 2 ^ (w - 1) ≤ x) (hx : x < 2 ^ w) :
    (BitVec.ofNat 64 (2 ^ 64 - 2 ^ w + x)).toInt = (BitVec.ofNat w (2 ^ 64 - 2 ^ w + x)).toInt := by
  rw [BitVec.toInt_eq_toNat_bmod, BitVec.toInt_eq_toNat_bmod, BitVec.toNat_ofNat, BitVec.toNat_ofNat, Int.bmod_def, Int.bmod_def]
  obtain rfl | rfl | rfl | rfl := hw <;> omega

theorem toInt_ofNat_small {w x : Nat} (hw : w = 8 ∨ w = 16 ∨ w = 32 ∨ w = 64) (h : x < 2 ^ (w - 1)) :
    (BitVec.ofNat 64 x).toInt = (BitVec.ofNat w x).toInt := by
  rw [BitVec.toInt_eq_toNat_bmod, BitVec.toInt_eq_toNat_bmod, BitVec.toNat_ofNat, BitVec.toNat_ofNat, Int.bmod_def, Int.bmod_def]
  obtain rfl | rfl | rfl | rfl := hw <;> omega

theorem LoadForm.toInt_value_signed (sz : Size) (bs : List Byte) (hl : bs.length = sz.bytes) (hs : sz.scalar = true) :
    ((LoadForm.value ⟨sz, true⟩ bs).setWidth 64).toInt = ((LoadForm.value ⟨sz, true⟩ bs).setWidth (8 * sz.bytes)).toInt := by
  have hx : bytesToNat bs < 2 ^ (8 * sz.bytes) := hl ▸ bytesToNat_lt bs
  have hw := Size.bits_of_scalar sz hs
  have hle : 8 * sz.bytes ≤ 2048 := by omega
  rcases Nat.lt_or_ge (bytesToNat bs) (2 ^ (8 * sz.bytes - 1)) with h | h
  · rw [LoadForm.value_zeroExtended _ bs hs (Or.inr h), BitVec.setWidth_ofNat_of_le (by decide), BitVec.setWidth_ofNat_of_le hle]
    exact toInt_ofNat_small hw h
  · rw [LoadForm.value_signExtended _ bs hs rfl h, BitVec.setWidth_ofNat_of_le (by decide), BitVec.setWidth_ofNat_of_le hle]
    exact toInt_ofNat_extended hw h hx

/-- What a load's value holds: the bytes in their places, a scalar extended by zeros or by its sign. -/
def HoldsBytes (sz : Size) (sx : Bool) (v : Vec) (byte : Nat → Byte) : Prop :=
  (∀ j, j < sz.bytes → v.extractLsb' (8 * j) 8 = byte j) ∧
  (sz.scalar = true → sx = false → v.toNat < 2 ^ (8 * sz.bytes)) ∧
  (sz.scalar = true → sx = true → (v.setWidth 64).toInt = (v.setWidth (8 * sz.bytes)).toInt)

theorem LoadForm.holdsBytes_value (sz : Size) (sx : Bool) (bs : List Byte) (hl : bs.length = sz.bytes) :
    HoldsBytes sz sx (LoadForm.value ⟨sz, sx⟩ bs) (fun j => bs.getD j 0) :=
  ⟨fun j hj => LoadForm.extractLsb'_value ⟨sz, sx⟩ bs hl j (hl ▸ hj), fun hs h => h ▸ LoadForm.toNat_value_unsigned sz bs hl hs,
    fun hs h => h ▸ LoadForm.toInt_value_signed sz bs hl hs⟩

theorem LoadForm.holdsBytes_value_read (sz : Size) (sx : Bool) (m : Mem) (a : Nat) :
    HoldsBytes sz sx (LoadForm.value ⟨sz, sx⟩ (m.read a sz.bytes)) (fun j => m.byte (a + j)) := by
  obtain ⟨hbytes, hext⟩ := LoadForm.holdsBytes_value sz sx (m.read a sz.bytes) (m.length_read a _)
  exact ⟨fun j hj => (hbytes j hj).trans (m.getD_read a _ j hj), hext⟩

/-! The accesses. -/

theorem rawCheck_ok {limit off : Nat} {sz : Size} (h : off + sz.bytes ≤ limit) (ha : off % sz.alignment = 0) : rawCheck limit sz off = .ok () := by
  rw [rawCheck, decide_eq_false (by omega), decide_eq_false (by omega)]; rfl

/-- A vault read with no write of its bundle beneath it and none held back reads the vault's bytes. -/
theorem State.vaultBytes_of_settled (s : State) (g a n : Nat) (hu : s.ctx.under = []) (hh : s.hidden s.ctx.core g = []) :
    s.vaultBytes g a n = ((s.gal g).vault.read a n, poisonBits (s.gal g).poison a n) := by
  have hz : (((s.gal g).vault.read a n).zip (List.range n)).map (fun e => e.1) = (s.gal g).vault.read a n := List.map_fst_zip (by simp)
  simp only [State.vaultBytes, hu, hh, List.reverse_nil, List.append_nil, List.find?_nil, Option.map_none, Option.getD_none]
  exact congrArg (·, _) hz

section
variable (s : State) (g : Guard) (st : Sticky) (sz : Size) (sx : Bool) (d : XReg) (a : SSrc) (disp : BitVec 10) (dst : Dest) (hg : s.on g = true)
include hg

theorem exec_ld_ok (hd : s.dstX st d = .ok dst) (hl : s.rawOff st a disp sz.bytes + sz.bytes ≤ s.src.limit)
    (ha : s.rawOff st a disp sz.bytes % sz.alignment = 0) :
    exec (.ld g st sz sx d a disp) s = .next (s.resultX 4 dst (LoadForm.value ⟨sz, sx⟩ (s.src.near.read (s.rawOff st a disp sz.bytes) sz.bytes))
      (poisonBits s.src.nearPoison (s.rawOff st a disp sz.bytes) sz.bytes)) := by
  show execLd g st sz sx d a disp s = _
  simp only [execLd, hd, rawCheck_ok hl ha]
  exact s.guarded_ok _ _ g hg

theorem exec_ldv_ok (hd : s.dstX st d = .ok dst) (hl : s.rawOff st a disp sz.bytes + sz.bytes ≤ s.cur.vsize * 0x10000)
    (ha : s.rawOff st a disp sz.bytes % sz.alignment = 0) (hu : s.ctx.under = []) (hh : s.hidden s.ctx.core (s.ownVault s.ctx.core).1 = []) :
    let w := s.ownVault s.ctx.core
    let at_ := w.2 + s.rawOff st a disp sz.bytes
    exec (.ldv g st sz sx d a disp) s = .next (s.resultX 12 dst (LoadForm.value ⟨sz, sx⟩ ((s.gal w.1).vault.read at_ sz.bytes))
      (poisonBits (s.gal w.1).poison at_ sz.bytes)) := by
  show execLdv g st sz sx d a disp s = _
  simp only [execLdv, hd, rawCheck_ok (limit := s.cur.vaultLimit) hl ha, s.vaultBytes_of_settled _ _ _ hu hh]
  exact s.guarded_ok _ _ g hg

theorem exec_ldc_ok (hd : s.dstX noStep d = .ok dst) (hl : s.rawOff noStep a disp sz.bytes + sz.bytes ≤ 0x4000)
    (ha : s.rawOff noStep a disp sz.bytes % sz.alignment = 0) :
    exec (.ldc g sz sx d a disp) s =
      .next (s.resultX 4 dst (LoadForm.value ⟨sz, sx⟩ (s.cur.const.read (s.rawOff noStep a disp sz.bytes) sz.bytes)) 0) := by
  show execLdc g sz sx d a disp s = _
  simp only [execLdc, hd, rawCheck_ok hl ha]
  exact s.guarded_ok _ _ g hg

end

/-- Byte b of lane j of a vector register stands in near SRAM, little-endian (03 R53). -/
theorem RegFile.extractLsb'_lane_vreg (r : RegFile) (n j b : Nat) (hj : j < 64) (hb : b < 4) :
    (lane (r.vreg n) j).extractLsb' (8 * b) 8 = r.near.byte (vbase n + 4 * j + b) := by
  rw [Nat.add_assoc, ← r.extractLsb'_vreg n (4 * j + b) (by omega), lane]
  apply BitVec.eq_of_getLsbD_eq
  intro i hi
  have hin : 8 * b + i < 32 := by omega
  have hat : 32 * j + (8 * b + i) = 8 * (4 * j + b) + i := by omega
  simp only [BitVec.getLsbD_extractLsb', hi, hin, hat, decide_true, Bool.true_and]

/-- Settles O20: each load by its completed form and the value of the bytes read; the registers' places by the allotment's size. -/
theorem windowLoadsComplete : Obligations.WindowLoadsComplete := by
  intro s g st sz sx d a disp dst hg n fits holds off coff w
  refine ⟨fun hd h => ?_, fun hd h hu hh => ?_, fun hd h => ?_, fun r i j b hr hi hj hb => ?_⟩
  · exact ⟨_, LoadForm.holdsBytes_value_read sz sx _ _, exec_ld_ok s g st sz sx d a disp dst hg hd h.1 h.2⟩
  · exact ⟨_, LoadForm.holdsBytes_value_read sz sx _ _, exec_ldv_ok s g st sz sx d a disp dst hg hd h.1 h.2 hu hh⟩
  · exact ⟨_, LoadForm.holdsBytes_value_read sz sx _ _, exec_ldc_ok s g sz sx d a disp dst hg hd h.1 h.2⟩
  · have hl : r.limit = 0x40000 - 16384 * r.allot := rfl
    exact ⟨hl, by omega, by omega, r.extractLsb'_lane_vreg i j b hj hb⟩

end Sys2Proof.Machine
end

section
/-! PROOF. The lane-wise vector forms (09 R175): what each kind of form gives once its registers lie inside the allotment. -/

namespace Sys2Proof.Machine
open Sys2Proof

theorem elemN_lt (w : Nat) (v : Vec) (e : Nat) : elemN w v e < 2 ^ w := Nat.mod_lt _ (Nat.two_pow_pos w)

/-- Element operations that agree on every code of the format make the same register. -/
theorem map2_congr (f : Fmt) (op op' : Nat → Nat → Nat) (a b : Vec)
    (h : ∀ p q, p < 2 ^ Fmt.width f → q < 2 ^ Fmt.width f → op p q = op' p q) : map2 f op a b = map2 f op' a b := by
  simp only [map2, h _ _ (elemN_lt _ a _) (elemN_lt _ b _)]

/-- A code of INT32 stands for the two's complement number of its bits (05 R93). -/
theorem decodeI_int32 (n : Nat) (h : n < 2 ^ 32) : decodeI .int32 n = (BitVec.ofNat 32 n).toInt := by
  rw [BitVec.toInt_eq_toNat_bmod, BitVec.toNat_ofNat, Int.bmod_def, decodeI]
  split <;> omega

/-- VSCALE's exponents are the signed words of the second source (09 R178). -/
theorem map2_fscale (x y : Vec) : map2 .f32 (fun p n => fscale p (decodeI .int32 n)) x y =
    map2 .f32 (fun p n => fscale p (BitVec.ofNat 32 n).toInt) x y :=
  map2_congr _ _ _ x y (fun p n _ hn => by rw [decodeI_int32 n hn])

section
variable {s : State} {st : Sticky} {d : VReg} {k : Nat} (hk : s.dstV st d = .ok k)
include hk

/-- Each active lane takes its lane of the value. -/
theorem State.lanes_ok {v : R Vec} {x : Vec} (hv : v = .ok x) (i : Instr) (g : Guard) (lat : Nat) :
    s.lanes i g st lat d v = .next (s.vres lat k x (laneMask (s.guard g))) := by
  rw [State.lanes, hk, hv]; rfl

variable {a : VSrc} {x : Vec} (hx : s.rdV 1 st a = .ok x)
include hx

theorem State.lanes_un (i : Instr) (g : Guard) (lat : Nat) (op : Vec → Vec) :
    s.lanes i g st lat d (s.un st a op) = .next (s.vres lat k (op x) (laneMask (s.guard g))) :=
  State.lanes_ok hk (by rw [State.un, hx]; rfl) i g lat

variable {b : VSrc} {y : Vec} (hy : s.rdV 2 st b = .ok y)
include hy

theorem State.lanes_bin (i : Instr) (g : Guard) (lat : Nat) (op : Vec → Vec → Vec) :
    s.lanes i g st lat d (s.bin st a b op) = .next (s.vres lat k (op x y) (laneMask (s.guard g))) :=
  State.lanes_ok hk (by rw [State.bin, hx, hy]; rfl) i g lat

theorem State.lanes_fused {z : Vec} (hz : s.rdV 0 st (.reg d) = .ok z) (i : Instr) (g : Guard) (lat : Nat) (op : Vec → Vec → Vec → Vec) :
    s.lanes i g st lat d (s.fused st d a b op) = .next (s.vres lat k (op x y z) (laneMask (s.guard g))) :=
  State.lanes_ok hk (by rw [State.fused, hz, hx, hy]; rfl) i g lat

end

/-- VSCALE completes with the exponents read as signed words. -/
theorem exec_vscale_ok {s : State} {st : Sticky} {d : VReg} {k : Nat} {a b : VSrc} {x y : Vec} (hk : s.dstV st d = .ok k)
    (hx : s.rdV 1 st a = .ok x) (hy : s.rdV 2 st b = .ok y) (g : Guard) (ty : Fmt) : exec (.vscale g st ty d a b) s =
      .next (s.vres 4 k (map2 .f32 (fun p n => fscale p (BitVec.ofNat 32 n).toInt) x y) (laneMask (s.guard g))) := by
  rw [← map2_fscale]
  exact State.lanes_bin hk hx hy _ g 4 _

/-- Settles O8: every form is the lane-wise rule of its number of sources, a shift that of its kind of count; VSCALE's exponents are signed words. -/
theorem vectorArithmeticCompletes : Obligations.VectorArithmeticCompletes := by
  refine ⟨fun s g st ty d a b k x y z hk hz hx hy => ?_, fun s g st ty d a b n k x y hk hx hy => ?_⟩
  · have un := State.lanes_un hk hx (g := g)
    have bin := State.lanes_bin hk hx hy (g := g)
    have fused := State.lanes_fused hk hx hy hz (g := g)
    exact ⟨bin _ _ _, bin _ _ _, bin _ _ _, fused _ _ _, fused _ _ _, fused _ _ _, bin _ _ _, bin _ _ _, un _ _ _, un _ _ _,
      exec_vscale_ok hk hx hy g ty, un _ _ _⟩
  · have un := State.lanes_un hk hx (g := g)
    have bin := State.lanes_bin hk hx hy (g := g)
    exact ⟨bin _ _ _, bin _ _ _, bin _ _ _, bin _ _ _, bin _ _ _, bin _ _ _, bin _ _ _, bin _ _ _, un _ _ _,
      un _ _ _, bin _ _ _, un _ _ _, bin _ _ _, un _ _ _, bin _ _ _⟩

end Sys2Proof.Machine
end
